-- ==== Sys2Proof/Word.lean ====
section
/-! DEFINITION. The words of the PV6: bytes of frames and scanner runs, 16-bit words of items and records, sets carried as
bit vectors (spec/11_formats_and_connections.md). -/

namespace Sys2Proof

/-- One byte of a frame or of a scanner run (R160, R178). -/
abbrev Byte := BitVec 8

/-- One 16-bit word: an item value, a record word, a scanner word (R175, R177, R178). -/
abbrev Word := BitVec 16

/-- A 32-bit value: a distance, a seconds count, a sequence number (R175). -/
abbrev DWord := BitVec 32

/-- A set of zones, Zk in bit k (R176). -/
abbrev ZoneSet := BitVec 12

/-- A set of alert kinds, each kind in the bit R176 gives it. -/
abbrev AlertSet := BitVec 16

end Sys2Proof
end

