-- ==== Sys2Proof/Syntax.lean ====
section
/-! DEFINITION. The commands of the PV6, one constructor for each row of spec/opcode_table.json, with the operands the rows
need: the port a request arrives on, the bytes it carries, the input levels an event samples. -/

namespace Sys2Proof

/-- A side of the screed (0.5.4). -/
inductive Side where
  | left
  | right
deriving DecidableEq, Repr

/-- A station port, named by its station (0.5.4): main console, left panel, right panel, documentation unit. -/
inductive Port where
  | m
  | l
  | r
  | d
deriving DecidableEq, Repr

/-- A feed drive, in the order of the item-byte numbers 0..3 (R175). -/
inductive Drive where
  | convL
  | convR
  | augL
  | augR
deriving DecidableEq, Repr

/-- A class of channels (R19). -/
inductive SampleClass where
  | fast
  | medium
  | slow
deriving DecidableEq, Repr

/-- The digital input pins an event can look at (11.5): the twelve contactor sense inputs (bit k for Zk, 1 when closed), the
four running feedbacks (bit i for drive i, 1 when running) and the three trip inputs (bit p for phase p, 1 when high). -/
structure Pins where
  sense : ZoneSet
  running : BitVec 4
  trip : BitVec 3
deriving DecidableEq, Repr, Inhabited

/-- One command: a row of spec/opcode_table.json. -/
inductive Instr where
  /-- POWER_ON (R33): power-up, or the rise of the reset pin. -/
  | powerOn
  /-- FORWARD_PULSE (R2). -/
  | forwardPulse
  /-- REVERSE_PULSE (R3). -/
  | reversePulse
  /-- RADAR_PULSE (R7). -/
  | radarPulse
  /-- SECONDS_COUNT_TICK (R4). -/
  | secondsCountTick
  /-- SPEED_WINDOW_EXPIRY (R5). -/
  | speedWindowExpiry
  /-- PLAUSIBILITY_WINDOW_EXPIRY (R8). -/
  | plausibilityWindowExpiry
  /-- CLASS_PERIOD_EXPIRY (R19), of one class. -/
  | classPeriodExpiry (cls : SampleClass)
  /-- CONVERTER_TAKE (R21). -/
  | converterTake
  /-- SETTLE_END (R21). -/
  | settleEnd
  /-- CONVERSION_COMPLETION (R23): the converter's output, and the input levels a feed tick made by it reads. -/
  | conversionCompletion (count : BitVec 12) (pins : Pins)
  /-- OVERLOAD_RECOVERY_END (R22). -/
  | overloadRecoveryEnd
  /-- SAMPLE_TIMER_EXPIRY (R56). -/
  | sampleTimerExpiry
  /-- JOG_TIMER_EXPIRY (R48), of one side. -/
  | jogTimerExpiry (side : Side)
  /-- PREFILL_TIMER_EXPIRY (R72), of one drive. -/
  | prefillTimerExpiry (drive : Drive)
  /-- SCANNER_LINE (R117): the bytes of the run that ended, and whether each came with its stop bit (R178). -/
  | scannerLine (bytes : List Byte) (framed : Bool)
  /-- SCANNER_SILENCE_EXPIRY (R118). -/
  | scannerSilenceExpiry
  /-- SLICE_START (R76): the slice timer expiry. -/
  | sliceStart
  /-- HEATING_WAIT_END (R78). -/
  | heatingWaitEnd
  /-- READBACK (R106): the readback timer expiry, with the sense inputs as they stand. -/
  | readback (pins : Pins)
  /-- TRIP (R89): a rise of the trip input of one phase, held for 1 ms. -/
  | trip (phase : Fin 3)
  /-- READ (R164) of the item with this item byte; the input levels are those an item of an input shows. -/
  | read (port : Port) (item : Byte) (pins : Pins)
  /-- WRITE (R165). -/
  | write (port : Port) (item : Byte) (value : Word)
  /-- PAGE (R163). -/
  | page (port : Port) (value : Byte)
  /-- TAKE_ALERTS (R170). -/
  | takeAlerts (port : Port)
  /-- ALERT_DONE (R171). -/
  | alertDone (port : Port)
  /-- ENGAGE (R43), with the item byte that names a side. -/
  | engage (port : Port) (item : Byte)
  /-- DISENGAGE (R44). -/
  | disengage (port : Port) (item : Byte)
  /-- SET_ZERO (R45). -/
  | setZero (port : Port) (item : Byte)
  /-- JOG (R47), with its direction byte and its signed duty (R175). -/
  | jog (port : Port) (item : Byte) (direction : Byte) (duty : Word)
  /-- PREFILL (R71), with the item byte that names a drive. -/
  | prefill (port : Port) (item : Byte)
  /-- CLEAR_FAULT (R70, R109), with the item byte that names a drive or a zone, and the sense inputs as they stand. -/
  | clearFault (port : Port) (item : Byte) (pins : Pins)
  /-- FETCH (R138). -/
  | fetch (port : Port)
  /-- RELEASE (R142) of a sequence number. -/
  | release (port : Port) (sequence : DWord)
  /-- REWIND (R143). -/
  | rewind (port : Port)
  /-- RESTART (R173). -/
  | restart (port : Port)
  /-- PORT_RESET (R172). -/
  | portReset (port : Port)
  /-- BAD_FRAME (R161): a frame turned away, and whether its check byte passed. -/
  | badFrame (port : Port) (checkPassed : Bool)
  /-- COPY_COMPLETION (R139). -/
  | copyCompletion
  /-- HELD_ANSWER_EXPIRY (R140). -/
  | heldAnswerExpiry
  /-- APPLICATION (R153), of one port's queue. -/
  | application (port : Port)
  /-- PRESENCE_TIMEOUT (R168), of one port. -/
  | presenceTimeout (port : Port)
  /-- SCANNER_RUN_START (R178). -/
  | scannerRunStart
deriving DecidableEq, Repr

end Sys2Proof
end

