-- ==== Sys2Proof/Config.lean ====
section
/-! DEFINITION. What the spec fixes for every PV6 (periods and limits, in ticks of the model's time base) and the values it
leaves open, as constants without a body. -/

namespace Sys2Proof.Config

/-- The model's time base counts ticks of 10 µs, the largest unit that divides every time of the spec (log entry 4). -/
def ticksPerMs : Nat := 100

/-- A time given in ms, in ticks. -/
def ms (n : Nat) : Nat := n * ticksPerMs

/-- A time given in µs, in ticks. -/
def us (n : Nat) : Nat := n / 10

/-- The speed window (R5). -/
def speedWindow : Nat := ms 250

/-- The plausibility window (R8). -/
def plausibilityWindow : Nat := ms 1000

/-- The period of a class (R19). -/
def classPeriod : SampleClass → Nat
  | .fast => ms 20
  | .medium => ms 100
  | .slow => ms 1000

/-- The settle time of a class (R21). -/
def settleTime : SampleClass → Nat
  | .fast => us 150
  | .medium => us 400
  | .slow => ms 2

/-- The convert time (R21). -/
def convertTime : Nat := us 20

/-- Overload recovery (R22). -/
def recoveryTime : Nat := ms 4

/-- The sample timer (R56). -/
def sampleTime : Nat := ms 100

/-- A jog pulse (R47). -/
def jogTime : Nat := ms 250

/-- A prefill run (R71). -/
def prefillTime : Nat := ms 60000

/-- The silence timer (R118). -/
def silenceTime : Nat := ms 1000

/-- A slice (R76). -/
def sliceTime : Nat := ms 250

/-- The power-on wait of the heating (R78). -/
def heatingWait : Nat := ms 2000

/-- From slice start to readback (R106). -/
def readbackTime : Nat := ms 100

/-- The presence timeout (R157, R167). -/
def presenceTime : Nat := ms 1000

/-- The copy time of one record word (R139). -/
def copyTimePerWord : Nat := us 40

/-- The expiry of a READY copy (R139). -/
def heldTime : Nat := ms 2000

/-- From the end of the exchange that posted an entry to its application, and between applications of one port (R152). -/
def applicationTime : Nat := ms 2

/-- The ring of the record store, in words (R134). -/
def ringWords : Nat := 8192

/-- The mark of STORE_NEAR_FULL, in used words (R137). -/
def nearFullWords : Nat := 6144

/-- The largest value of a 32-bit count (R2, R4, R135). -/
def max32 : Nat := 4294967295

/-- FREE VALUE (log entry 6): whether, at the n-th open choice of a run, the width update of a MEDIUM round completion is taken
before the feed tick. R10 and R25 leave the order open. -/
opaque widthUpdateFirst : Nat → Bool

/-- FREE VALUE (log entry 7): the converter output of a conversion that completes while no command waits. -/
opaque sampledCount : Nat → BitVec 12

/-- FREE VALUE (log entry 7): the input levels an event samples that happens while no command waits. -/
opaque sampledPins : Nat → Pins

/-- FREE VALUE (log entry 8): what an item of a trip history entry reads that the history does not hold; the argument is the
entry's place. -/
opaque absentHistoryEntry : Nat → Word

/-- FREE VALUE (log entry 5): the ticks from the take of the n-th posted WRITE to the end of its exchange, when the station lets
select rise (R160); the station alone decides it. -/
opaque exchangeTail : Nat → Nat

end Sys2Proof.Config
end

