-- ==== Sys2Proof/Machine/Arith.lean ====
section
/-! DEFINITION. The arithmetic the chapters share: the divisions and clamps of R1, saturation, the check word (R116), the
sequence numbering (R135) and the byte order of multi-byte values (R175). -/

namespace Sys2Proof.Machine

/-! ## R1 -/

/-- Divide rounding half up, for non-negative quantities (R1). -/
def divHalfUp (a b : Nat) : Nat := (a + b / 2) / b

/-- Divide rounding half away from zero: the magnitudes divided rounding half up, with the sign of the exact quotient (R1). -/
def divHalfAway (a b : Int) : Int :=
  let q : Int := divHalfUp a.natAbs b.natAbs
  if a.sign * b.sign < 0 then -q else q

/-- Clamp to lo..hi: the nearer bound when the value lies outside (R1). -/
def clampInt (lo hi x : Int) : Int := if x < lo then lo else if hi < x then hi else x

/-- Clamp to lo..hi, for non-negative quantities (R1). -/
def clampNat (lo hi x : Nat) : Nat := if x < lo then lo else if hi < x then hi else x

/-- An addition that saturates at `top`. -/
def satAdd (top a b : Nat) : Nat := min top (a + b)

/-! ## The check word (R116) -/

/-- One bit of the check word computation: compare the most significant bit with the data bit, shift one place up, invert bits
12, 5 and 0 when they differed. -/
def crcBit (reg : Word) (bit : Bool) : Word :=
  let shifted := reg <<< 1
  if reg.msb = bit then shifted else shifted ^^^ 0x1021#16

/-- One word, its bits from the most significant to the least. -/
def crcWord (reg : Word) (w : Word) : Word :=
  (List.range 16).foldl (fun r i => crcBit r (w.getMsbD i)) reg

/-- The register after a sequence of words, from a register `reg`. -/
def crcFrom (reg : Word) (ws : List Word) : Word := ws.foldl crcWord reg

/-- The check word of a sequence of words (R116). -/
def checkWord (ws : List Word) : Word := crcFrom 0xFFFF#16 ws

/-! ## The sequence numbering (R135) -/

/-- The number after: 1..4 294 967 295, then 1 again. -/
def seqNext (s : Nat) : Nat := if s = Config.max32 then 1 else s + 1

/-- The steps forward along the numbering from `b` to `s`. -/
def seqDistance (b s : Nat) : Nat := (s + Config.max32 - b) % Config.max32

/-- `s` lies behind `b`: neither at it nor within 2 147 483 647 steps ahead of it. -/
def seqBehind (b s : Nat) : Bool := 2147483647 < seqDistance b s

/-! ## Bytes of values (R175): the most significant byte first -/

/-- The two bytes of a 16-bit value. -/
def wordBytes (w : Word) : List Byte := [w.extractLsb' 8 8, w.extractLsb' 0 8]

/-- The four bytes of a 32-bit value. -/
def dwordBytes (w : DWord) : List Byte :=
  [w.extractLsb' 24 8, w.extractLsb' 16 8, w.extractLsb' 8 8, w.extractLsb' 0 8]

/-- The 16-bit value of two bytes. -/
def wordOfBytes (hi lo : Byte) : Word := hi ++ lo

/-- The 32-bit value of four bytes. -/
def dwordOfBytes (b3 b2 b1 b0 : Byte) : DWord := b3 ++ b2 ++ b1 ++ b0

/-- The two words of a 32-bit field, the more significant word first (R177). -/
def dwordWords (n : Nat) : List Word := [BitVec.ofNat 16 (n / 65536), BitVec.ofNat 16 n]

/-- The 8-bit sum of a run of bytes (R160). -/
def byteSum (bs : List Byte) : Byte := bs.foldl (· + ·) 0#8

/-- A run of bytes with the check byte that brings their 8-bit sum to 0 (R160). -/
def withCheckByte (bs : List Byte) : List Byte := bs ++ [-byteSum bs]

/-- The words of a run of bytes, the more significant byte first; none when the bytes are odd in number (R178). -/
def wordsOfBytes : List Byte → Option (List Word)
  | [] => some []
  | [_] => none
  | hi :: lo :: rest => (wordsOfBytes rest).map (wordOfBytes hi lo :: ·)

/-- The sets of units as bit vectors: bit k is set when `f k` holds. -/
def setOf {n : Nat} (f : Fin n → Bool) : BitVec n := BitVec.ofFnLE f

end Sys2Proof.Machine
end

