-- ==== Sys2Proof/Decode.lean ====
section
/-! DEFINITION. What spells a command. No row of spec/opcode_table.json gives bits, so no table word spells one; a station's
request is spelled by the bytes of its frame (R160, R161, R175). -/

namespace Sys2Proof

/-- The command a table word spells: the table gives no row any bits (every row's "fields" is empty and none has "fixed"), so no
word spells a command (log entry 16). -/
def decodeTableWord (_nbits _w : Nat) : Option Instr := none

open Sys2Proof.Machine (byteSum withCheckByte wordOfBytes dwordOfBytes wordBytes dwordBytes)

/-- The command of a request code with its item byte and data; none for an unknown code, or a data length that is not the
request's (R161, R162, R175). -/
def requestCommand (p : Port) (pins : Pins) (code item : Byte) (data : List Byte) : Option Instr :=
  match code.toNat, data with
  | 0x01, [] => some (.read p item pins)
  | 0x02, [hi, lo] => some (.write p item (wordOfBytes hi lo))
  | 0x03, [v] => some (.page p v)
  | 0x04, [] => some (.takeAlerts p)
  | 0x05, [] => some (.alertDone p)
  | 0x10, [] => some (.engage p item)
  | 0x11, [] => some (.disengage p item)
  | 0x12, [] => some (.setZero p item)
  | 0x13, [dir, hi, lo] => some (.jog p item dir (wordOfBytes hi lo))
  | 0x20, [] => some (.prefill p item)
  | 0x21, [] => some (.clearFault p item pins)
  | 0x30, [] => some (.fetch p)
  | 0x31, [b3, b2, b1, b0] => some (.release p (dwordOfBytes b3 b2 b1 b0))
  | 0x32, [] => some (.rewind p)
  | 0x40, [] => some (.restart p)
  | 0x41, [] => some (.portReset p)
  | _, _ => none

/-- The command an exchange's request bytes spell on a port, with the input levels as they stand at its take (R160, R161, R175).
None is an exchange that select ended before the check byte: nothing is taken. A length above 8 ends the request at that byte,
without a check byte; bytes after the check byte are the turnaround and the answer. -/
def frameCommand (p : Port) (pins : Pins) (bytes : List Byte) : Option Instr :=
  match bytes with
  | code :: item :: len :: rest =>
    if 8 < len.toNat then some (.badFrame p false)
    else if rest.length ≤ len.toNat then none
    else if byteSum (code :: item :: len :: rest.take (len.toNat + 1)) ≠ 0#8 then some (.badFrame p false)
    else some ((requestCommand p pins code item (rest.take len.toNat)).getD (.badFrame p true))
  | _ => none

/-- The bytes of a request: code, item byte, length, data, check byte (R160, R175). -/
def frameOf (code item : Byte) (data : List Byte) : List Byte :=
  withCheckByte (code :: item :: BitVec.ofNat 8 data.length :: data)

/-- The request frame of a command that a station sends, its port beside it; the item byte is 0 where it is ignored. None for
the commands that are no request, and for BAD_FRAME. -/
def requestFrame (c : Instr) : Option (Port × List Byte) :=
  match c with
  | .read p item _ => some (p, frameOf 0x01#8 item [])
  | .write p item value => some (p, frameOf 0x02#8 item (wordBytes value))
  | .page p value => some (p, frameOf 0x03#8 0#8 [value])
  | .takeAlerts p => some (p, frameOf 0x04#8 0#8 [])
  | .alertDone p => some (p, frameOf 0x05#8 0#8 [])
  | .engage p item => some (p, frameOf 0x10#8 item [])
  | .disengage p item => some (p, frameOf 0x11#8 item [])
  | .setZero p item => some (p, frameOf 0x12#8 item [])
  | .jog p item dir duty => some (p, frameOf 0x13#8 item (dir :: wordBytes duty))
  | .prefill p item => some (p, frameOf 0x20#8 item [])
  | .clearFault p item _ => some (p, frameOf 0x21#8 item [])
  | .fetch p => some (p, frameOf 0x30#8 0#8 [])
  | .release p sequence => some (p, frameOf 0x31#8 0#8 (dwordBytes sequence))
  | .rewind p => some (p, frameOf 0x32#8 0#8 [])
  | .restart p => some (p, frameOf 0x40#8 0#8 [])
  | .portReset p => some (p, frameOf 0x41#8 0#8 [])
  | .powerOn | .forwardPulse | .reversePulse | .radarPulse | .secondsCountTick | .speedWindowExpiry
  | .plausibilityWindowExpiry | .classPeriodExpiry _ | .converterTake | .settleEnd | .conversionCompletion _ _
  | .overloadRecoveryEnd | .sampleTimerExpiry | .jogTimerExpiry _ | .prefillTimerExpiry _ | .scannerLine _ _
  | .scannerSilenceExpiry | .sliceStart | .heatingWaitEnd | .readback _ | .trip _ | .badFrame _ _ | .copyCompletion
  | .heldAnswerExpiry | .application _ | .presenceTimeout _ | .scannerRunStart => none

end Sys2Proof
end

