-- ==== Sys2Proof/Machine/State.lean ====
section
/-! DEFINITION. The state of the PV6, block by block as spec/00_scope.md section 0.3 divides it, the reasons a step can stop,
and the state after power-on. Quantities are Nat and Int with the ranges the spec gives them; sets are bit vectors. -/

namespace Sys2Proof.Machine

/-- No command of this block ends in a fault: the spec gives every one of them an effect or an answer. The type has no
constructor. -/
inductive Fault where
deriving DecidableEq, Repr

/-- The reason a command is refused. -/
inductive Refusal where
  /-- Raised by exec for a command that has no meaning yet; none is left, so nothing raises it. Safe: the model stops where
  the part would go on. -/
  | notModelled (mnemonic : String)
deriving DecidableEq, Repr

/-! ## Units of which there are several -/

/-- One value for each side. -/
structure PerSide (α : Type) where
  left : α
  right : α
deriving DecidableEq, Repr

/-- The value of a side. -/
def PerSide.get {α : Type} (v : PerSide α) : Side → α
  | .left => v.left
  | .right => v.right

/-- The value of one side replaced. -/
def PerSide.set {α : Type} (v : PerSide α) (i : Side) (x : α) : PerSide α :=
  match i with
  | .left => { v with left := x }
  | .right => { v with right := x }

/-- Both values mapped. -/
def PerSide.map {α β : Type} (f : Side → α → β) (v : PerSide α) : PerSide β :=
  { left := f .left v.left, right := f .right v.right }

/-- One value for each port. -/
structure PerPort (α : Type) where
  m : α
  l : α
  r : α
  d : α
deriving DecidableEq, Repr

/-- The value of a port. -/
def PerPort.get {α : Type} (v : PerPort α) : Port → α
  | .m => v.m
  | .l => v.l
  | .r => v.r
  | .d => v.d

/-- The value of one port replaced. -/
def PerPort.set {α : Type} (v : PerPort α) (i : Port) (x : α) : PerPort α :=
  match i with
  | .m => { v with m := x }
  | .l => { v with l := x }
  | .r => { v with r := x }
  | .d => { v with d := x }

/-- All four values mapped. -/
def PerPort.map {α β : Type} (f : Port → α → β) (v : PerPort α) : PerPort β :=
  { m := f .m v.m, l := f .l v.l, r := f .r v.r, d := f .d v.d }

/-- One value for each drive. -/
structure PerDrive (α : Type) where
  convL : α
  convR : α
  augL : α
  augR : α
deriving DecidableEq, Repr

/-- The value of a drive. -/
def PerDrive.get {α : Type} (v : PerDrive α) : Drive → α
  | .convL => v.convL
  | .convR => v.convR
  | .augL => v.augL
  | .augR => v.augR

/-- The value of one drive replaced. -/
def PerDrive.set {α : Type} (v : PerDrive α) (i : Drive) (x : α) : PerDrive α :=
  match i with
  | .convL => { v with convL := x }
  | .convR => { v with convR := x }
  | .augL => { v with augL := x }
  | .augR => { v with augR := x }

/-- All four values mapped. -/
def PerDrive.map {α β : Type} (f : Drive → α → β) (v : PerDrive α) : PerDrive β :=
  { convL := f .convL v.convL, convR := f .convR v.convR, augL := f .augL v.augL, augR := f .augR v.augR }

/-- One value for each class. -/
structure PerClass (α : Type) where
  fast : α
  medium : α
  slow : α
deriving DecidableEq, Repr

/-- The value of a class. -/
def PerClass.get {α : Type} (v : PerClass α) : SampleClass → α
  | .fast => v.fast
  | .medium => v.medium
  | .slow => v.slow

/-- The value of one class replaced. -/
def PerClass.set {α : Type} (v : PerClass α) (i : SampleClass) (x : α) : PerClass α :=
  match i with
  | .fast => { v with fast := x }
  | .medium => { v with medium := x }
  | .slow => { v with slow := x }

/-! ## Settings table (chapter 9) -/

/-- Machine mode (R13). -/
inductive Mode where
  | standby
  | pave
  | travel
deriving DecidableEq, Repr

/-- Reference mode of a side (3.1). -/
inductive RefMode where
  | beam
  | single
  | slope
deriving DecidableEq, Repr

/-- State request of a drive (4.1). -/
inductive FeedRequest where
  | off
  | manual
  | auto
deriving DecidableEq, Repr

/-- Items of groups 1 and 2, one set for each side (3.1). -/
structure SideSettings where
  refMode : RefMode
  /-- The heads used, head h in bit h - 1. -/
  heads : BitVec 4
  offset : Int
  deadBand : Nat
  propBand : Nat
  minDuty : Nat
  maxDuty : Nat
  slopeTarget : Int
deriving DecidableEq, Repr

/-- Items of one zone in groups 3 to 5 (6.1). -/
structure ZoneSettings where
  setpoint : Nat
  band : Nat
  rated : Nat
  enabled : Bool
deriving DecidableEq, Repr

/-- Items of one drive in groups 6 and 7 (4.1). -/
structure DriveSettings where
  request : FeedRequest
  manual : Nat
  target : Nat
  ratio : Nat
  gain : Nat
  currentLimit : Nat
  rampStep : Nat
deriving DecidableEq, Repr

/-- Items of group 8 (7.6). -/
structure RecordSettings where
  stepLength : Nat
  coldLimit : Nat
  origin : Int
  pitch : Nat
deriving DecidableEq, Repr

/-- The four calibration items of a channel (R18). -/
structure Calibration where
  zeroCount : Nat
  fullCount : Nat
  zeroValue : Int
  fullValue : Int
deriving DecidableEq, Repr

/-- All settings, by block. -/
structure Settings where
  mode : Mode
  capacity : Nat
  reserve : Nat
  busVoltage : Nat
  /-- The alert enable masks (R157). -/
  masks : PerPort AlertSet
  /-- The calibration lock: true is SET (R149). -/
  calLock : Bool
  /-- The guard mask, group g in bit g (R148). -/
  guard : Word
  sides : PerSide SideSettings
  zones : Vector ZoneSettings 12
  drives : PerDrive DriveSettings
  record : RecordSettings
  cals : Vector Calibration 31
  /-- Travel mm-per-pulse, in hundredths (R2). -/
  travelPulse : Nat
  /-- Radar mm-per-pulse, in hundredths (R7). -/
  radarPulse : Nat
deriving DecidableEq, Repr

/-- The items of a side, in the order of section 3.1. -/
inductive SideItem where
  | refMode
  | heads
  | offset
  | deadBand
  | propBand
  | minDuty
  | maxDuty
  | slopeTarget
deriving DecidableEq, Repr

/-- The items of a zone, in the order of section 6.1. -/
inductive ZoneItem where
  | setpoint
  | band
  | rated
  | enable
deriving DecidableEq, Repr

/-- The items of a drive, in the order of section 4.1. -/
inductive DriveItem where
  | request
  | manual
  | target
  | ratio
  | gain
  | currentLimit
  | rampStep
deriving DecidableEq, Repr

/-- The items of group 8, in the order of section 7.6. -/
inductive RecordItem where
  | stepLength
  | coldLimit
  | origin
  | pitch
deriving DecidableEq, Repr

/-- The calibration items of a channel, in the order of R176. -/
inductive CalItem where
  | zeroCount
  | fullCount
  | zeroValue
  | fullValue
deriving DecidableEq, Repr

/-- A setting item, by what it is; R176 gives its number. -/
inductive Setting where
  | machineMode
  | writtenCapacity
  | reserve
  | busVoltage
  | alertMask (port : Port)
  | calLock
  | guardMask
  | side (side : Side) (item : SideItem)
  | zone (zone : Fin 12) (item : ZoneItem)
  | drive (drive : Drive) (item : DriveItem)
  | record (item : RecordItem)
  | calibration (channel : Fin 31) (item : CalItem)
  | travelPulse
  | radarPulse
deriving DecidableEq, Repr

/-! ## Station ports (chapter 10) -/

/-- The answer codes (R175). -/
inductive AnswerCode where
  | ok
  | accepted
  | clamped
  | retry
  | full
  | noItem
  | notAllowed
  | guarded
  | locked
  | refused
  | notNow
  | empty
  | order
  | gone
  | badFrame
deriving DecidableEq, Repr

/-- An answer: its code and its data bytes, in the order they are sent (R160, R175). -/
structure Answer where
  code : AnswerCode
  data : List Byte
deriving DecidableEq, Repr

/-- One entry of a post queue (R150), with the time 2 ms after the end of the exchange that posted it (R152, log entry 5). -/
structure PostEntry where
  item : Setting
  value : Word
  clamped : Bool
  due : Nat
deriving DecidableEq, Repr

/-- The state of one port (chapter 10); its alert enable mask is a setting, port D's held slot stands in the store. -/
structure PortState where
  page : Option (Fin 4)
  queue : List PostEntry
  /-- The time before which the port's next application does not fall due: 2 ms after its previous one (R152). -/
  applyAfter : Nat
  lastApplied : Option Setting
  lastClamped : Bool
  lastRejected : Option Setting
  /-- Presence: true is PRESENT (R166). -/
  present : Bool
  /-- The end of the presence timer, while it runs (R167). -/
  presenceDue : Option Nat
  pendingSet : AlertSet
  inService : Bool
  /-- The ALERT line: true is asserted (R169). -/
  line : Bool
  /-- The answer given in the latest exchange that had one (log entry 18). -/
  answer : Option Answer
deriving DecidableEq, Repr

/-! ## Travel and width unit (chapter 1) -/

/-- The travel and width unit; the machine mode and the two mm-per-pulse items are settings. -/
structure Travel where
  distance : Nat
  remainder : Nat
  reversePending : Nat
  /-- The mm carried in the current speed window (R5). -/
  windowMm : Nat
  speed : Nat
  moving : Bool
  encoderAcc : Nat
  radarAcc : Nat
  reverseMark : Bool
  plausibleRun : Nat
  suspect : Bool
  seconds : Nat
  extL : Nat
  extR : Nat
  heldL : Bool
  heldR : Bool
  widthHeld : Bool
  width : Nat
  activity : ZoneSet
deriving DecidableEq, Repr

/-! ## Measurement sequencer (chapter 2) -/

/-- A result's quality (2.2.4). -/
inductive Quality where
  | good
  | suspect
  | short
  | broken
deriving DecidableEq, Repr

/-- A result entry (2.2.4). -/
structure ResultEntry where
  count : Nat
  value : Int
  quality : Quality
  round : Nat
deriving DecidableEq, Repr

/-- The round state of a class (2.2.1). -/
structure RoundState where
  counter : Nat
  late : Bool
  lateCount : Nat
deriving DecidableEq, Repr

/-- The converter (2.2.1): its state, the channel and round tag it holds, and when the state ends (R21, R22). -/
inductive Converter where
  | idle
  | settling (channel : Fin 34) (tag : Nat) (due : Nat)
  | converting (channel : Fin 34) (tag : Nat) (due : Nat)
  | recovering (due : Nat)
deriving DecidableEq, Repr

/-- The measurement sequencer; its calibration items are settings. -/
structure Sequencer where
  rounds : PerClass RoundState
  queue : List (Fin 34)
  converter : Converter
  results : Vector ResultEntry 34
  /-- The converter condition: true is SUSPECT (R31). -/
  conditionSuspect : Bool
deriving DecidableEq, Repr

/-! ## Levelling unit (chapter 3) -/

/-- A side's state (3.2). -/
inductive SideState where
  | manual
  | auto
  | lost
deriving DecidableEq, Repr

/-- The direction of a valve (R47). -/
inductive Direction where
  | raise
  | lower
deriving DecidableEq, Repr

/-- A running jog pulse (R47), with the end of its timer. -/
structure JogPulse where
  direction : Direction
  duty : Nat
  due : Nat
deriving DecidableEq, Repr

/-- One side of the levelling unit (3.2.1). -/
structure SideUnit where
  state : SideState
  target : Option Nat
  lastReading : Int
  validHeads : Nat
  lastDeviation : Int
  raise : Nat
  lower : Nat
  jog : Option JogPulse
  goodRun : Nat
  stale : Bool
  stepMax : Nat
deriving DecidableEq, Repr

/-! ## Feed unit (chapter 4) -/

/-- A drive's state (4.2). -/
inductive DriveState where
  | off
  | manual
  | auto
  | prefill
  | fault
deriving DecidableEq, Repr

/-- The cause of the latest entry to FAULT (R69). -/
inductive FaultCause where
  | none
  | overcurrent
  | notRunning
  | runaway
deriving DecidableEq, Repr

/-- One drive (4.2.1). -/
structure DriveUnit where
  state : DriveState
  command : Nat
  previous : Nat
  openLoop : Bool
  overcurrentCount : Nat
  notRunningCount : Nat
  runawayCount : Nat
  cause : FaultCause
  /-- The prefill return state: true is AUTO, false is OFF. -/
  returnAuto : Bool
  /-- The end of the prefill timer, while it runs (R71). -/
  prefillDue : Option Nat
  lastGoodCurrent : Nat
deriving DecidableEq, Repr

/-! ## Heat grant unit (chapter 5) and zone unit (chapter 6) -/

/-- The heat grant unit; written capacity and reserve are settings. -/
structure HeatUnit where
  /-- The heating state: true is RUNNING. -/
  running : Bool
  cycle : Nat
  slice : Nat
  tripped : Bool
  derate : Nat
  effective : Nat
  history : List Nat
  budget : Nat
  welded : Nat
  available : Int
  grants : ZoneSet
  grantedPower : Nat
  feedLoad : Nat
deriving DecidableEq, Repr

/-- A zone's state (6.2). -/
inductive ZoneState where
  | off
  | idle
  | heating
  | faultOpen
  | faultWelded
  | sensorLost
deriving DecidableEq, Repr

/-- One zone (6.2.1). -/
structure ZoneUnit where
  state : ZoneState
  demand : Nat
  remaining : Nat
  granted : Nat
  starved : Nat
  boost : Nat
  usable : Option Int
  lastGood : Option Int
  missed : Nat
  openCount : Nat
  weldCount : Nat
  output : Bool
  sliceCommand : Bool
deriving DecidableEq, Repr

/-! ## Scan binning unit, record unit (chapter 7), record store (chapter 8) -/

/-- A column accumulator (7.2.1). -/
structure Column where
  sum : Nat
  count : Nat
deriving DecidableEq, Repr

/-- The scan binning unit (7.2.1). -/
structure Scan where
  /-- Reception: true is RECEIVING (R178). -/
  receiving : Bool
  previousLine : Option Byte
  validTotal : Nat
  rejectedTotal : Nat
  lost : Bool
  /-- The accumulators of the columns 0..n-1 of the open record. -/
  columns : List Column
  minimum : Option Nat
  linesBinned : Nat
  linesRejected : Nat
deriving DecidableEq, Repr

/-- The conditions a record gathers as flags (7.4). -/
structure RecordFlags where
  scannerLost : Bool
  converterSuspect : Bool
  travelSuspect : Bool
  widthHeld : Bool
deriving DecidableEq, Repr

/-- The record under assembly (7.4). -/
structure OpenRecord where
  sequence : Nat
  start : Nat
  openTime : Nat
  /-- The time base at the open; the elapsed time is what has passed since. -/
  openedAt : Nat
  width : Nat
  x0 : Int
  columns : Nat
  speedMin : Nat
  speedMax : Nat
  pauseWindows : Nat
  flags : RecordFlags
  starved : ZoneSet
  faulted : ZoneSet
  trips : Nat
deriving DecidableEq, Repr

/-- The fixed header of a stored record, field by field (R127); the speeds are in mm/s as recorded. -/
structure Header where
  sequence : Nat
  start : Nat
  length : Nat
  openTime : Nat
  duration : Nat
  width : Nat
  partialClose : Bool
  restartClose : Bool
  pauseFlag : Bool
  dropsFlag : Bool
  flags : RecordFlags
  linesBinned : Nat
  speedMin : Nat
  speedMax : Nat
  leftState : SideState
  leftMax : Nat
  rightState : SideState
  rightMax : Nat
  starved : ZoneSet
  faulted : ZoneSet
  trips : Nat
  minimum : Nat
  linesRejected : Nat
deriving DecidableEq, Repr

/-- The record unit (7.4, R129). -/
structure RecordUnit where
  /-- The open record; none is the open mark clear. -/
  current : Option OpenRecord
  nextSequence : Nat
  /-- The latest-record summary. -/
  summary : Option Header
deriving DecidableEq, Repr

/-- A stored record: its sequence number and its words, the check word last. -/
structure StoredRecord where
  sequence : Nat
  words : List Word
deriving DecidableEq, Repr

/-- Port D's held slot (8.3). COPYING and READY hold the words copied at the start (R139). -/
inductive HeldSlot where
  | empty
  | copying (record : StoredRecord) (due : Nat)
  | ready (record : StoredRecord) (due : Nat)
deriving DecidableEq, Repr

/-- The record store (8.1). The ring holds the records one after another from word ringBase on, round its end (R134). -/
structure Store where
  records : List StoredRecord
  ringBase : Nat
  base : Nat
  newest : Nat
  cursor : Nat
  eventDrops : Nat
  droppedTotal : Nat
  slot : HeldSlot
deriving DecidableEq, Repr

/-! ## Timers of the internal time base -/

/-- When each timer that no other block holds ends; none is a timer that does not run. -/
structure Timers where
  second : Nat
  speed : Nat
  plausibility : Nat
  period : PerClass Nat
  sample : Option Nat
  silence : Option Nat
  slice : Option Nat
  heatingWait : Option Nat
  readback : Option Nat
deriving DecidableEq, Repr

/-! ## The whole state -/

/-- The state of the part, and the queue of the commands that wait for it. -/
structure State where
  travel : Travel
  seq : Sequencer
  lev : PerSide SideUnit
  feed : PerDrive DriveUnit
  heat : HeatUnit
  zones : Vector ZoneUnit 12
  scan : Scan
  record : RecordUnit
  store : Store
  settings : Settings
  ports : PerPort PortState
  timers : Timers
  /-- The digital input pins as the latest event that looked at them found them. -/
  pins : Pins
  /-- The time base, in ticks since power-on (log entry 4). -/
  now : Nat
  /-- MODEL's own: how many free values have been taken (log entries 5 to 7). -/
  free : Nat
  /-- The commands that wait, first in, first out. -/
  pending : List Instr
deriving DecidableEq, Repr

/-! ## One named update for each field -/

/-- The state with another `travel`. -/
def State.withTravel (s : State) (x : Travel) : State := { s with travel := x }

/-- The state with another `seq`. -/
def State.withSeq (s : State) (x : Sequencer) : State := { s with seq := x }

/-- The state with another `lev`. -/
def State.withLev (s : State) (x : PerSide SideUnit) : State := { s with lev := x }

/-- The state with another `feed`. -/
def State.withFeed (s : State) (x : PerDrive DriveUnit) : State := { s with feed := x }

/-- The state with another `heat`. -/
def State.withHeat (s : State) (x : HeatUnit) : State := { s with heat := x }

/-- The state with another `zones`. -/
def State.withZones (s : State) (x : Vector ZoneUnit 12) : State := { s with zones := x }

/-- The state with another `scan`. -/
def State.withScan (s : State) (x : Scan) : State := { s with scan := x }

/-- The state with another `record`. -/
def State.withRecord (s : State) (x : RecordUnit) : State := { s with record := x }

/-- The state with another `store`. -/
def State.withStore (s : State) (x : Store) : State := { s with store := x }

/-- The state with another `settings`. -/
def State.withSettings (s : State) (x : Settings) : State := { s with settings := x }

/-- The state with another `ports`. -/
def State.withPorts (s : State) (x : PerPort PortState) : State := { s with ports := x }

/-- The state with another `timers`. -/
def State.withTimers (s : State) (x : Timers) : State := { s with timers := x }

/-- The state with another `pins`. -/
def State.withPins (s : State) (x : Pins) : State := { s with pins := x }

/-- The state with another `now`. -/
def State.withNow (s : State) (x : Nat) : State := { s with now := x }

/-- The state with another `free`. -/
def State.withFree (s : State) (x : Nat) : State := { s with free := x }

/-- The state with another `pending`. -/
def State.withPending (s : State) (x : List Instr) : State := { s with pending := x }

/-! ## The state after power-on -/

/-- A side's settings at power-on (3.1). -/
def SideSettings.powerOn : SideSettings :=
  { refMode := .beam, heads := 15#4, offset := 0, deadBand := 5, propBand := 40, minDuty := 150, maxDuty := 900,
    slopeTarget := 0 }

/-- A zone's settings at power-on (6.1): rated 45 for the main zones Z0 to Z3, 30 for the others. -/
def ZoneSettings.powerOn (k : Fin 12) : ZoneSettings :=
  { setpoint := 0, band := 200, rated := if k.val < 4 then 45 else 30, enabled := true }

/-- A drive's settings at power-on (4.1). -/
def DriveSettings.powerOn : DriveSettings :=
  { request := .off, manual := 0, target := 250, ratio := 100, gain := 50, currentLimit := 600, rampStep := 50 }

/-- A channel's zero and full value at power-on (R18). -/
def Calibration.powerOn (c : Fin 31) : Calibration :=
  let span : Int × Int :=
    if c.val ≤ 7 then (0, 10000)
    else if c.val = 8 then (-1000, 1000)
    else if c.val ≤ 10 then (0, 3000)
    else if c.val ≤ 14 then (0, 600)
    else if c.val ≤ 18 then (0, 1000)
    else (0, 3000)
  { zeroCount := 655, fullCount := 3276, zeroValue := span.1, fullValue := span.2 }

/-- Every setting at power-on (9.1, R159). -/
def Settings.powerOn : Settings :=
  { mode := .standby, capacity := 0, reserve := 20, busVoltage := 400,
    masks := { m := 0#16, l := 0#16, r := 0#16, d := 0#16 },
    calLock := false, guard := 0#16,
    sides := { left := .powerOn, right := .powerOn },
    zones := Vector.ofFn ZoneSettings.powerOn,
    drives := { convL := .powerOn, convR := .powerOn, augL := .powerOn, augR := .powerOn },
    record := { stepLength := 1000, coldLimit := 1200, origin := -4725, pitch := 150 },
    cals := Vector.ofFn Calibration.powerOn,
    travelPulse := 100, radarPulse := 100 }

/-- A port at power-on (R174). -/
def PortState.powerOn : PortState :=
  { page := none, queue := [], applyAfter := 0, lastApplied := none, lastClamped := false, lastRejected := none,
    present := false, presenceDue := none, pendingSet := 0#16, inService := false, line := false, answer := none }

/-- The travel and width unit at power-on (1.6.1): the main zones Z0 to Z3 active, width held. -/
def Travel.powerOn : Travel :=
  { distance := 0, remainder := 0, reversePending := 0, windowMm := 0, speed := 0, moving := false, encoderAcc := 0,
    radarAcc := 0, reverseMark := false, plausibleRun := 0, suspect := false, seconds := 0, extL := 0, extR := 0,
    heldL := true, heldR := true, widthHeld := true, width := 3000, activity := 15#12 }

/-- A result entry before the first conversion after a reset (R33). -/
def ResultEntry.unconverted : ResultEntry := { count := 0, value := 0, quality := .broken, round := 0 }

/-- The sequencer with its first rounds begun and channel 0 taken, as power-on and RESTART leave it at time `now` (R33, R34):
every counter 1, channels 1 to 33 in the queue. -/
def Sequencer.started (now : Nat) (conditionSuspect : Bool) : Sequencer :=
  let first : RoundState := { counter := 1, late := false, lateCount := 0 }
  { rounds := { fast := first, medium := first, slow := first },
    queue := (List.finRange 34).tail,
    converter := .settling 0 1 (now + Config.settleTime .fast),
    results := Vector.replicate 34 .unconverted,
    conditionSuspect := conditionSuspect }

/-- A side at power-on (R59). -/
def SideUnit.powerOn : SideUnit :=
  { state := .manual, target := none, lastReading := 0, validHeads := 0, lastDeviation := 0, raise := 0, lower := 0,
    jog := none, goodRun := 0, stale := false, stepMax := 0 }

/-- A drive at power-on (R75). -/
def DriveUnit.powerOn : DriveUnit :=
  { state := .off, command := 0, previous := 0, openLoop := false, overcurrentCount := 0, notRunningCount := 0,
    runawayCount := 0, cause := .none, returnAuto := false, prefillDue := none, lastGoodCurrent := 0 }

/-- The heat grant unit at power-on (R95). -/
def HeatUnit.powerOn : HeatUnit :=
  { running := false, cycle := 0, slice := 0, tripped := false, derate := 100, effective := 0, history := [], budget := 0,
    welded := 0, available := 0, grants := 0#12, grantedPower := 0, feedLoad := 0 }

/-- A zone at power-on (R115). -/
def ZoneUnit.powerOn : ZoneUnit :=
  { state := .off, demand := 0, remaining := 0, granted := 0, starved := 0, boost := 0, usable := none, lastGood := none,
    missed := 0, openCount := 0, weldCount := 0, output := false, sliceCommand := false }

/-- The scan binning unit at power-on (R133). -/
def Scan.powerOn : Scan :=
  { receiving := false, previousLine := none, validTotal := 0, rejectedTotal := 0, lost := false, columns := [],
    minimum := none, linesBinned := 0, linesRejected := 0 }

/-- The record store at power-on (R146). Neither R134 nor R146 says at which word of the ring the first record begins: DESIGN
CHOICE, word 0 (log entry 29). -/
def Store.powerOn : Store :=
  { records := [], ringBase := 0, base := 1, newest := 0, cursor := 1, eventDrops := 0, droppedTotal := 0, slot := .empty }

/-- The class periods, started at `now` (R19). -/
def Timers.periodsFrom (now : Nat) : PerClass Nat :=
  { fast := now + Config.classPeriod .fast, medium := now + Config.classPeriod .medium,
    slow := now + Config.classPeriod .slow }

/-- The timers power-on starts (R33, R56, R78, R118). -/
def Timers.powerOn : Timers :=
  { second := Config.ms 1000, speed := Config.speedWindow, plausibility := Config.plausibilityWindow,
    period := Timers.periodsFrom 0, sample := some Config.sampleTime, silence := some Config.silenceTime, slice := none,
    heatingWait := some Config.heatingWait, readback := none }

/-- The machine right after power-on (R33 and the reset tables of chapters 1 to 10); no command waits. -/
def State.reset : State :=
  { travel := .powerOn,
    seq := .started 0 true,
    lev := { left := .powerOn, right := .powerOn },
    feed := { convL := .powerOn, convR := .powerOn, augL := .powerOn, augR := .powerOn },
    heat := .powerOn,
    zones := Vector.replicate 12 .powerOn,
    scan := .powerOn,
    record := { current := none, nextSequence := 1, summary := none },
    store := .powerOn,
    settings := .powerOn,
    ports := { m := .powerOn, l := .powerOn, r := .powerOn, d := .powerOn },
    timers := .powerOn,
    pins := { sense := 0#12, running := 0#4, trip := 0#3 },
    now := 0,
    free := 0,
    pending := [] }

end Sys2Proof.Machine
end

