-- ==== Sys2Proof/Machine/Flags.lean ====
section
/-! DEFINITION. Alerts and the conditions a record gathers: the sixteen alert kinds and their bits (R176), raising a kind and
the ALERT line (R169), and the reports the open record takes (R121). -/

namespace Sys2Proof.Machine

/-- The alert kinds (10.4). -/
inductive AlertKind where
  | sideLDropped
  | sideRDropped
  | zoneFault
  | heatTrip
  | derated
  | starving
  | feedFault
  | recordClosed
  | storeNearFull
  | recordsDropped
  | converterSuspect
  | travelSuspect
  | settingChanged
  | settingRejected
  | stationAbsent
  | scannerLost
deriving DecidableEq, Repr

/-- The bit of a kind in an alert set (R176). -/
def AlertKind.bit : AlertKind → Nat
  | .sideLDropped => 0
  | .sideRDropped => 1
  | .zoneFault => 2
  | .heatTrip => 3
  | .derated => 4
  | .starving => 5
  | .feedFault => 6
  | .recordClosed => 7
  | .storeNearFull => 8
  | .recordsDropped => 9
  | .converterSuspect => 10
  | .travelSuspect => 11
  | .settingChanged => 12
  | .settingRejected => 13
  | .stationAbsent => 14
  | .scannerLost => 15

/-- The set of one kind. -/
def AlertKind.set (k : AlertKind) : AlertSet := 1#16 <<< k.bit

/-- The kind of a dropped side (R38). -/
def droppedKind : Side → AlertKind
  | .left => .sideLDropped
  | .right => .sideRDropped

/-- The level R169 gives a port's ALERT line: asserted while the in-service flag is clear and an enabled kind is pending. -/
def lineLevel (mask : AlertSet) (p : PortState) : Bool :=
  !p.inService && (p.pendingSet &&& mask) != 0#16

/-- A port with its line at the level R169 gives it. -/
def PortState.reline (mask : AlertSet) (p : PortState) : PortState := { p with line := lineLevel mask p }

/-- A port on which a kind is raised (R169). -/
def PortState.raised (mask : AlertSet) (k : AlertKind) (p : PortState) : PortState :=
  { p with pendingSet := p.pendingSet ||| k.set }.reline mask

/-- A kind raised on the ports that `on` picks, one event at each of them (R169). -/
def raiseOn (on : Port → Bool) (k : AlertKind) (s : State) : State :=
  s.withPorts (s.ports.map fun q p => if on q then p.raised (s.settings.masks.get q) k else p)

/-- A kind raised on all four ports. -/
def raiseAll (k : AlertKind) (s : State) : State := raiseOn (fun _ => true) k s

/-- A kind raised on the three ports other than `p`. -/
def raiseOthers (p : Port) (k : AlertKind) (s : State) : State := raiseOn (fun q => q != p) k s

/-- A kind raised when a condition holds. -/
def raiseAllIf (c : Bool) (k : AlertKind) (s : State) : State := if c then raiseAll k s else s

/-- A report taken by the open record; with no record open it is not kept (R121). -/
def report (f : OpenRecord → OpenRecord) (s : State) : State :=
  match s.record.current with
  | none => s
  | some r => s.withRecord { s.record with current := some (f r) }

/-- The report of a condition that sets flags of the open record. -/
def reportFlags (f : RecordFlags → RecordFlags) (s : State) : State := report (fun r => { r with flags := f r.flags }) s

/-- The report of starved zones. -/
def reportStarved (z : ZoneSet) (s : State) : State := report (fun r => { r with starved := r.starved ||| z }) s

/-- The report of zones that entered FAULT_OPEN, FAULT_WELDED or SENSOR_LOST. -/
def reportFaulted (z : ZoneSet) (s : State) : State := report (fun r => { r with faulted := r.faulted ||| z }) s

/-- The report of a trip: the count saturates at 15. -/
def reportTrip (s : State) : State := report (fun r => { r with trips := min 15 (r.trips + 1) }) s

end Sys2Proof.Machine
end

