-- ==== Sys2Proof/Machine/Operands.lean ====
section
/-! DEFINITION. The operands of commands and items: the units an item byte names (R175), the codes of enumerated values
(R176), the item map (R176), and for every setting its group, its writers, its range and its place in the settings table
(R147, R151). -/

namespace Sys2Proof.Machine

/-! ## Units -/

/-- The station of a side (R42). -/
def stationOfSide : Side → Port
  | .left => .l
  | .right => .r

/-- The side of a drive (chapter 4). -/
def sideOfDrive : Drive → Side
  | .convL => .left
  | .convR => .right
  | .augL => .left
  | .augR => .right

/-- The number of a drive in item bytes, and its place in the channel rows (R175, chapter 4). -/
def driveIndex : Drive → Fin 4
  | .convL => 0
  | .convR => 1
  | .augL => 2
  | .augR => 3

/-- The drive of a number 0..3. -/
def driveOfIndex : Fin 4 → Drive
  | 0 => .convL
  | 1 => .convR
  | 2 => .augL
  | 3 => .augR

/-- The side a side request's item byte names: 0 left, 1 right (R175). -/
def sideOfByte (b : Byte) : Option Side :=
  if b = 0#8 then some .left else if b = 1#8 then some .right else none

/-- The drive an item byte names: 0..3 (R175). -/
def driveOfByte (b : Byte) : Option Drive :=
  if h : b.toNat < 4 then some (driveOfIndex ⟨b.toNat, h⟩) else none

/-- The zone an item byte of CLEAR-FAULT names: 16..27 (R175). -/
def zoneOfByte (b : Byte) : Option (Fin 12) :=
  if h : 16 ≤ b.toNat ∧ b.toNat < 28 then some ⟨b.toNat - 16, by omega⟩ else none

/-- The direction a JOG's direction byte names: 0 RAISE, 1 LOWER (R175). -/
def directionOfByte (b : Byte) : Option Direction :=
  if b = 0#8 then some .raise else if b = 1#8 then some .lower else none

/-- The class of a channel (R19). -/
def classOf (c : Fin 34) : SampleClass :=
  if c.val ≤ 8 then .fast else if c.val ≤ 18 then .medium else .slow

/-- The channel of a head of a side, heads 1 to 4 as 0 to 3 (R50). -/
def headChannel (sd : Side) (h : Fin 4) : Fin 34 :=
  match sd with
  | .left => ⟨h.val, by omega⟩
  | .right => ⟨4 + h.val, by omega⟩

/-- The material height channel of a drive (R62). -/
def heightChannel (d : Drive) : Fin 34 := ⟨11 + (driveIndex d).val, by omega⟩

/-- The current channel of a drive (R62). -/
def currentChannel (d : Drive) : Fin 34 := ⟨15 + (driveIndex d).val, by omega⟩

/-- The temperature channel of a zone (R100). -/
def zoneChannel (k : Fin 12) : Fin 34 := ⟨19 + k.val, by omega⟩

/-! ## Codes (R176) -/

def Mode.code : Mode → Nat
  | .standby => 0
  | .pave => 1
  | .travel => 2

def Mode.ofCode? : Nat → Option Mode
  | 0 => some .standby
  | 1 => some .pave
  | 2 => some .travel
  | _ => none

def RefMode.code : RefMode → Nat
  | .beam => 0
  | .single => 1
  | .slope => 2

def RefMode.ofCode? : Nat → Option RefMode
  | 0 => some .beam
  | 1 => some .single
  | 2 => some .slope
  | _ => none

def FeedRequest.code : FeedRequest → Nat
  | .off => 0
  | .manual => 1
  | .auto => 2

def FeedRequest.ofCode? : Nat → Option FeedRequest
  | 0 => some .off
  | 1 => some .manual
  | 2 => some .auto
  | _ => none

def DriveState.code : DriveState → Nat
  | .off => 0
  | .manual => 1
  | .auto => 2
  | .prefill => 3
  | .fault => 4

def FaultCause.code : FaultCause → Nat
  | .none => 0
  | .overcurrent => 1
  | .notRunning => 2
  | .runaway => 3

def SideState.code : SideState → Nat
  | .manual => 0
  | .auto => 1
  | .lost => 2

def ZoneState.code : ZoneState → Nat
  | .off => 0
  | .idle => 1
  | .heating => 2
  | .faultOpen => 3
  | .faultWelded => 4
  | .sensorLost => 5

def Quality.code : Quality → Nat
  | .good => 0
  | .suspect => 1
  | .short => 2
  | .broken => 3

def HeldSlot.code : HeldSlot → Nat
  | .empty => 0
  | .copying _ _ => 1
  | .ready _ _ => 2

/-- Marks, flags and levels: 0 and 1. -/
def boolCode (b : Bool) : Nat := if b then 1 else 0

/-- The answer codes (R175). -/
def AnswerCode.code : AnswerCode → Byte
  | .ok => 0x00#8
  | .accepted => 0x01#8
  | .clamped => 0x02#8
  | .retry => 0x03#8
  | .full => 0x04#8
  | .noItem => 0x05#8
  | .notAllowed => 0x06#8
  | .guarded => 0x07#8
  | .locked => 0x08#8
  | .refused => 0x09#8
  | .notNow => 0x0A#8
  | .empty => 0x0B#8
  | .order => 0x0C#8
  | .gone => 0x0D#8
  | .badFrame => 0x0E#8

/-- The bytes of an answer on the port: code, length, data, check byte (R160, R175). -/
def Answer.frame (a : Answer) : List Byte :=
  withCheckByte (a.code.code :: BitVec.ofNat 8 a.data.length :: a.data)

/-! ## The item map (R176): settings -/

def SideItem.index : SideItem → Nat
  | .refMode => 0
  | .heads => 1
  | .offset => 2
  | .deadBand => 3
  | .propBand => 4
  | .minDuty => 5
  | .maxDuty => 6
  | .slopeTarget => 7

def SideItem.ofIndex? : Nat → Option SideItem
  | 0 => some .refMode
  | 1 => some .heads
  | 2 => some .offset
  | 3 => some .deadBand
  | 4 => some .propBand
  | 5 => some .minDuty
  | 6 => some .maxDuty
  | 7 => some .slopeTarget
  | _ => none

def ZoneItem.index : ZoneItem → Nat
  | .setpoint => 0
  | .band => 1
  | .rated => 2
  | .enable => 3

def ZoneItem.ofIndex? : Nat → Option ZoneItem
  | 0 => some .setpoint
  | 1 => some .band
  | 2 => some .rated
  | 3 => some .enable
  | _ => none

def DriveItem.index : DriveItem → Nat
  | .request => 0
  | .manual => 1
  | .target => 2
  | .ratio => 3
  | .gain => 4
  | .currentLimit => 5
  | .rampStep => 6

def DriveItem.ofIndex? : Nat → Option DriveItem
  | 0 => some .request
  | 1 => some .manual
  | 2 => some .target
  | 3 => some .ratio
  | 4 => some .gain
  | 5 => some .currentLimit
  | 6 => some .rampStep
  | _ => none

def RecordItem.index : RecordItem → Nat
  | .stepLength => 0
  | .coldLimit => 1
  | .origin => 2
  | .pitch => 3

def RecordItem.ofIndex? : Nat → Option RecordItem
  | 0 => some .stepLength
  | 1 => some .coldLimit
  | 2 => some .origin
  | 3 => some .pitch
  | _ => none

def CalItem.index : CalItem → Nat
  | .zeroCount => 0
  | .fullCount => 1
  | .zeroValue => 2
  | .fullValue => 3

def CalItem.ofIndex? : Nat → Option CalItem
  | 0 => some .zeroCount
  | 1 => some .fullCount
  | 2 => some .zeroValue
  | 3 => some .fullValue
  | _ => none

/-- The place of a port in item runs: M, L, R, D. -/
def portIndex : Port → Nat
  | .m => 0
  | .l => 1
  | .r => 2
  | .d => 3

def portOfIndex? : Nat → Option Port
  | 0 => some .m
  | 1 => some .l
  | 2 => some .r
  | 3 => some .d
  | _ => none

/-- The first item number of a drive's seven items: 96 and 112, the side's conveyor first. -/
def driveItemBase : Drive → Nat
  | .convL => 96
  | .augL => 103
  | .convR => 112
  | .augR => 119

/-- The item number of a setting (R176). -/
def Setting.number : Setting → Nat
  | .machineMode => 0
  | .writtenCapacity => 1
  | .reserve => 2
  | .busVoltage => 3
  | .alertMask p => 4 + portIndex p
  | .calLock => 8
  | .guardMask => 10
  | .side .left i => 16 + i.index
  | .side .right i => 32 + i.index
  | .zone k i => 48 + 4 * k.val + i.index
  | .drive d i => driveItemBase d + i.index
  | .record i => 128 + i.index
  | .calibration c i => 256 + 4 * c.val + i.index
  | .travelPulse => 380
  | .radarPulse => 381

/-- The setting an item number names, or none (R176). -/
def settingAt (n : Nat) : Option Setting :=
  if n = 0 then some .machineMode
  else if n = 1 then some .writtenCapacity
  else if n = 2 then some .reserve
  else if n = 3 then some .busVoltage
  else if 4 ≤ n ∧ n < 8 then (portOfIndex? (n - 4)).map .alertMask
  else if n = 8 then some .calLock
  else if n = 10 then some .guardMask
  else if 16 ≤ n ∧ n < 24 then (SideItem.ofIndex? (n - 16)).map (.side .left)
  else if 32 ≤ n ∧ n < 40 then (SideItem.ofIndex? (n - 32)).map (.side .right)
  else if h : 48 ≤ n ∧ n < 96 then
    (ZoneItem.ofIndex? ((n - 48) % 4)).map (.zone ⟨(n - 48) / 4, by omega⟩)
  else if 96 ≤ n ∧ n < 103 then (DriveItem.ofIndex? (n - 96)).map (.drive .convL)
  else if 103 ≤ n ∧ n < 110 then (DriveItem.ofIndex? (n - 103)).map (.drive .augL)
  else if 112 ≤ n ∧ n < 119 then (DriveItem.ofIndex? (n - 112)).map (.drive .convR)
  else if 119 ≤ n ∧ n < 126 then (DriveItem.ofIndex? (n - 119)).map (.drive .augR)
  else if 128 ≤ n ∧ n < 132 then (RecordItem.ofIndex? (n - 128)).map .record
  else if h : 256 ≤ n ∧ n < 380 then
    (CalItem.ofIndex? ((n - 256) % 4)).map (.calibration ⟨(n - 256) / 4, by omega⟩)
  else if n = 380 then some .travelPulse
  else if n = 381 then some .radarPulse
  else none

/-! ## Authority (R147, R148) -/

/-- The group of a setting: 0 to 10 (9.1). -/
def Setting.group : Setting → Nat
  | .machineMode | .writtenCapacity | .reserve | .busVoltage | .alertMask _ | .calLock => 0
  | .side .left _ => 1
  | .side .right _ => 2
  | .zone k _ => if k.val < 4 then 3 else if k.val < 8 then 4 else 5
  | .drive d _ =>
    match sideOfDrive d with
    | .left => 6
    | .right => 7
  | .record _ => 8
  | .calibration _ _ | .travelPulse | .radarPulse => 9
  | .guardMask => 10

/-- Whether a station may write a zone's heating group (R147, and R109 for CLEAR-FAULT). -/
def mayWriteZone (p : Port) (k : Fin 12) : Bool :=
  match p with
  | .m => true
  | .l => k.val < 8
  | .r => k.val < 4 || 8 ≤ k.val
  | .d => false

/-- Whether a station may write a setting (R147). -/
def mayWrite (p : Port) : Setting → Bool
  | .alertMask q => p = q
  | .side sd _ => p = .m || p = stationOfSide sd
  | .zone k _ => mayWriteZone p k
  | .drive d _ => p = .m || p = stationOfSide (sideOfDrive d)
  | .record _ => p = .m || p = .d
  | .machineMode | .writtenCapacity | .reserve | .busVoltage | .calLock | .guardMask | .calibration _ _ | .travelPulse
  | .radarPulse => p = .m

/-- Whether the guard mask closes a setting to a station: L, R and D, groups 1 to 8 (R148). -/
def guarded (guard : Word) (p : Port) (st : Setting) : Bool :=
  p != .m && 1 ≤ st.group && st.group ≤ 8 && guard.getLsbD st.group

/-! ## Ranges (R151) -/

/-- The range of a numeric setting; none for an enumerated or set-valued one. maxDuty's lower bound is the stored minDuty. -/
def Setting.range (t : Settings) : Setting → Option (Int × Int)
  | .machineMode | .alertMask _ | .calLock | .guardMask => none
  | .writtenCapacity => some (0, 6000)
  | .reserve => some (0, 1000)
  | .busVoltage => some (100, 800)
  | .side sd i =>
    match i with
    | .refMode | .heads => none
    | .offset => some (-500, 500)
    | .deadBand => some (0, 50)
    | .propBand => some (10, 200)
    | .minDuty => some (0, 400)
    | .maxDuty => some ((t.sides.get sd).minDuty, 1000)
    | .slopeTarget => some (-1000, 1000)
  | .zone _ i =>
    match i with
    | .setpoint => some (0, 1800)
    | .band => some (10, 500)
    | .rated => some (10, 500)
    | .enable => none
  | .drive _ i =>
    match i with
    | .request => none
    | .manual => some (0, 1000)
    | .target => some (0, 600)
    | .ratio => some (0, 500)
    | .gain => some (0, 200)
    | .currentLimit => some (10, 1000)
    | .rampStep => some (10, 200)
  | .record i =>
    match i with
    | .stepLength => some (250, 5000)
    | .coldLimit => some (0, 3000)
    | .origin => some (-6000, 6000)
    | .pitch => some (10, 300)
  | .calibration _ i =>
    match i with
    | .zeroCount | .fullCount => some (0, 4095)
    | .zeroValue | .fullValue => some (-32768, 32767)
  | .travelPulse | .radarPulse => some (1, 2000)

/-- Whether a value of an enumerated or set-valued setting is defined (R151); true for the numeric ones. -/
def Setting.defined (st : Setting) (v : Word) : Bool :=
  match st with
  | .machineMode => (Mode.ofCode? v.toNat).isSome
  | .calLock => v.toNat ≤ 1
  | .guardMask => v &&& 0xFE01#16 = 0#16
  | .side _ .refMode => (RefMode.ofCode? v.toNat).isSome
  | .side _ .heads => v != 0#16 && v &&& 0xFFF0#16 = 0#16
  | .zone _ .enable => v.toNat ≤ 1
  | .drive _ .request => (FeedRequest.ofCode? v.toNat).isSome
  | .alertMask _ => true
  | _ => true

/-- The number a 16-bit value stands for in a range: unsigned where the range lies in 0..65535, signed otherwise (R175, log
entry 10). -/
def rawNumber (range : Int × Int) (v : Word) : Int := if 0 ≤ range.1 then v.toNat else v.toInt

/-- The value a WRITE posts, after the clamp of R150's check 7, and its clamped mark. -/
def clampValue (t : Settings) (st : Setting) (v : Word) : Word × Bool :=
  match st.range t with
  | none => (v, false)
  | some range =>
    let x := rawNumber range v
    let y := clampInt range.1 range.2 x
    (BitVec.ofInt 16 y, x != y)

/-! ## The settings table -/

/-- A side's items as 16-bit values. -/
def SideSettings.read (t : SideSettings) : SideItem → Word
  | .refMode => BitVec.ofNat 16 t.refMode.code
  | .heads => t.heads.setWidth 16
  | .offset => BitVec.ofInt 16 t.offset
  | .deadBand => BitVec.ofNat 16 t.deadBand
  | .propBand => BitVec.ofNat 16 t.propBand
  | .minDuty => BitVec.ofNat 16 t.minDuty
  | .maxDuty => BitVec.ofNat 16 t.maxDuty
  | .slopeTarget => BitVec.ofInt 16 t.slopeTarget

/-- A side's item replaced. -/
def SideSettings.write (t : SideSettings) (i : SideItem) (v : Word) : SideSettings :=
  match i with
  | .refMode => { t with refMode := (RefMode.ofCode? v.toNat).getD t.refMode }
  | .heads => { t with heads := v.setWidth 4 }
  | .offset => { t with offset := v.toInt }
  | .deadBand => { t with deadBand := v.toNat }
  | .propBand => { t with propBand := v.toNat }
  | .minDuty => { t with minDuty := v.toNat, maxDuty := max t.maxDuty v.toNat }
  | .maxDuty => { t with maxDuty := max v.toNat t.minDuty }
  | .slopeTarget => { t with slopeTarget := v.toInt }

/-- A zone's items as 16-bit values. -/
def ZoneSettings.read (t : ZoneSettings) : ZoneItem → Word
  | .setpoint => BitVec.ofNat 16 t.setpoint
  | .band => BitVec.ofNat 16 t.band
  | .rated => BitVec.ofNat 16 t.rated
  | .enable => BitVec.ofNat 16 (boolCode t.enabled)

/-- A zone's item replaced. -/
def ZoneSettings.write (t : ZoneSettings) (i : ZoneItem) (v : Word) : ZoneSettings :=
  match i with
  | .setpoint => { t with setpoint := v.toNat }
  | .band => { t with band := v.toNat }
  | .rated => { t with rated := v.toNat }
  | .enable => { t with enabled := v != 0#16 }

/-- A drive's items as 16-bit values. -/
def DriveSettings.read (t : DriveSettings) : DriveItem → Word
  | .request => BitVec.ofNat 16 t.request.code
  | .manual => BitVec.ofNat 16 t.manual
  | .target => BitVec.ofNat 16 t.target
  | .ratio => BitVec.ofNat 16 t.ratio
  | .gain => BitVec.ofNat 16 t.gain
  | .currentLimit => BitVec.ofNat 16 t.currentLimit
  | .rampStep => BitVec.ofNat 16 t.rampStep

/-- A drive's item replaced. -/
def DriveSettings.write (t : DriveSettings) (i : DriveItem) (v : Word) : DriveSettings :=
  match i with
  | .request => { t with request := (FeedRequest.ofCode? v.toNat).getD t.request }
  | .manual => { t with manual := v.toNat }
  | .target => { t with target := v.toNat }
  | .ratio => { t with ratio := v.toNat }
  | .gain => { t with gain := v.toNat }
  | .currentLimit => { t with currentLimit := v.toNat }
  | .rampStep => { t with rampStep := v.toNat }

/-- The items of group 8 as 16-bit values. -/
def RecordSettings.read (t : RecordSettings) : RecordItem → Word
  | .stepLength => BitVec.ofNat 16 t.stepLength
  | .coldLimit => BitVec.ofNat 16 t.coldLimit
  | .origin => BitVec.ofInt 16 t.origin
  | .pitch => BitVec.ofNat 16 t.pitch

/-- An item of group 8 replaced. -/
def RecordSettings.write (t : RecordSettings) (i : RecordItem) (v : Word) : RecordSettings :=
  match i with
  | .stepLength => { t with stepLength := v.toNat }
  | .coldLimit => { t with coldLimit := v.toNat }
  | .origin => { t with origin := v.toInt }
  | .pitch => { t with pitch := v.toNat }

/-- A channel's calibration items as 16-bit values. -/
def Calibration.read (t : Calibration) : CalItem → Word
  | .zeroCount => BitVec.ofNat 16 t.zeroCount
  | .fullCount => BitVec.ofNat 16 t.fullCount
  | .zeroValue => BitVec.ofInt 16 t.zeroValue
  | .fullValue => BitVec.ofInt 16 t.fullValue

/-- A calibration item replaced. -/
def Calibration.write (t : Calibration) (i : CalItem) (v : Word) : Calibration :=
  match i with
  | .zeroCount => { t with zeroCount := v.toNat }
  | .fullCount => { t with fullCount := v.toNat }
  | .zeroValue => { t with zeroValue := v.toInt }
  | .fullValue => { t with fullValue := v.toInt }

/-- The value of a setting as a READ gives it (R158). -/
def Settings.read (t : Settings) : Setting → Word
  | .machineMode => BitVec.ofNat 16 t.mode.code
  | .writtenCapacity => BitVec.ofNat 16 t.capacity
  | .reserve => BitVec.ofNat 16 t.reserve
  | .busVoltage => BitVec.ofNat 16 t.busVoltage
  | .alertMask p => t.masks.get p
  | .calLock => BitVec.ofNat 16 (boolCode t.calLock)
  | .guardMask => t.guard
  | .side sd i => (t.sides.get sd).read i
  | .zone k i => t.zones[k].read i
  | .drive d i => (t.drives.get d).read i
  | .record i => t.record.read i
  | .calibration c i => t.cals[c].read i
  | .travelPulse => BitVec.ofNat 16 t.travelPulse
  | .radarPulse => BitVec.ofNat 16 t.radarPulse

/-- The settings table after a value is stored. A minDuty raises a smaller maxDuty and a maxDuty is kept at or above minDuty
(R36); a CLEAR does not clear a SET calibration lock (R149). -/
def Settings.write (t : Settings) (st : Setting) (v : Word) : Settings :=
  match st with
  | .machineMode => { t with mode := (Mode.ofCode? v.toNat).getD t.mode }
  | .writtenCapacity => { t with capacity := v.toNat }
  | .reserve => { t with reserve := v.toNat }
  | .busVoltage => { t with busVoltage := v.toNat }
  | .alertMask p => { t with masks := t.masks.set p v }
  | .calLock => { t with calLock := t.calLock || v != 0#16 }
  | .guardMask => { t with guard := v }
  | .side sd i => { t with sides := t.sides.set sd ((t.sides.get sd).write i v) }
  | .zone k i => { t with zones := t.zones.set k (t.zones[k].write i v) }
  | .drive d i => { t with drives := t.drives.set d ((t.drives.get d).write i v) }
  | .record i => { t with record := t.record.write i v }
  | .calibration c i => { t with cals := t.cals.set c (t.cals[c].write i v) }
  | .travelPulse => { t with travelPulse := v.toNat }
  | .radarPulse => { t with radarPulse := v.toNat }

end Sys2Proof.Machine
end

