-- ==== Sys2Proof/Machine/Ops.lean ====
section
/-! DEFINITION. Operations that several commands share: the time base at an expiry, the take of a request and its answer, the
valves of a side, the drop of a side, a drive's entry to OFF, the geometry of the mat. -/

namespace Sys2Proof.Machine

/-! ## Time -/

/-- The time base when an expiry is taken: an expiry happens at its deadline, so the time stands there at least (log entry
3). A time base already past the deadline stays: such an expiry happens at its take, and what it starts counts from there (log
entry 30, DESIGN CHOICE). -/
def State.reach (s : State) (due : Nat) : State := s.withNow (max s.now due)

/-- The same for a timer that may not run. -/
def State.reachOpt (s : State) : Option Nat → State
  | none => s
  | some due => s.reach due

/-! ## Exchanges (R160, R163, R167) -/

/-- One port changed. -/
def State.modifyPort (s : State) (p : Port) (f : PortState → PortState) : State :=
  s.withPorts (s.ports.set p (f (s.ports.get p)))

/-- A frame whose check byte passed: the port is PRESENT and its presence timer restarts, before the request is judged
(R167). -/
def heard (p : Port) (s : State) : State :=
  s.modifyPort p fun t => { t with present := true, presenceDue := some (s.now + Config.presenceTime) }

/-- A request taken: heard, and the page cleared once it has been used (R163). -/
def takeRequest (p : Port) (s : State) : State :=
  (heard p s).modifyPort p fun t => { t with page := none }

/-- An answer given on a port. -/
def answer (p : Port) (a : Answer) (s : State) : State := s.modifyPort p fun t => { t with answer := some a }

/-- An answer without data. -/
def answerCode (p : Port) (c : AnswerCode) (s : State) : State := answer p { code := c, data := [] } s

/-- The item number a request forms with its port's page, taken as 0 while absent (R163). -/
def itemNumber (s : State) (p : Port) (item : Byte) : Nat :=
  (match (s.ports.get p).page with
    | none => 0
    | some g => g.val) * 256 + item.toNat

/-! ## Sides -/

/-- One side changed. -/
def State.modifySide (s : State) (sd : Side) (f : SideUnit → SideUnit) : State :=
  s.withLev (s.lev.set sd (f (s.lev.get sd)))

/-- Both valves at 0. -/
def SideUnit.valvesZero (u : SideUnit) : SideUnit := { u with raise := 0, lower := 0 }

/-- The valves set at the end of a sample or by a jog: the valve of the direction gets the duty, the other 0 (R47, R55). -/
def SideUnit.drive (u : SideUnit) (dir : Direction) (duty : Nat) : SideUnit :=
  match dir with
  | .raise => { u with raise := duty, lower := 0 }
  | .lower => { u with raise := 0, lower := duty }

/-- The end of a running jog pulse, with both valves at 0; a side without a pulse is unchanged (R48). -/
def SideUnit.endJog (u : SideUnit) : SideUnit := if u.jog.isSome then { u.valvesZero with jog := none } else u

/-- The entry to MANUAL from AUTO or LOST: valves 0, run 0 (R38). -/
def SideUnit.toManual (u : SideUnit) : SideUnit := { u.valvesZero with state := .manual, goodRun := 0 }

/-- A side in AUTO or LOST. -/
def SideUnit.engaged (u : SideUnit) : Bool := u.state != .manual

/-- A side that leaves AUTO or LOST without its operator asking: MANUAL, and SIDE_x_DROPPED on all four ports; a side in
MANUAL is unchanged (R38). -/
def dropSide (sd : Side) (s : State) : State :=
  if (s.lev.get sd).engaged then raiseAll (droppedKind sd) (s.modifySide sd SideUnit.toManual) else s

/-- As `dropSide`, and a running jog pulse of a side in MANUAL ends (R14, R41, R59). -/
def dropSideAndJog (sd : Side) (s : State) : State :=
  if (s.lev.get sd).engaged then dropSide sd s else s.modifySide sd SideUnit.endJog

/-- Both valves of a side in AUTO at 0; other sides unchanged (R6, R16, R56). -/
def SideUnit.autoValvesZero (u : SideUnit) : SideUnit := if u.state = .auto then u.valvesZero else u

/-- Both valves of every side in AUTO at 0. -/
def autoValvesZero (s : State) : State := s.withLev (s.lev.map fun _ u => u.autoValvesZero)

/-! ## Drives -/

/-- One drive changed. -/
def State.modifyDrive (s : State) (d : Drive) (f : DriveUnit → DriveUnit) : State :=
  s.withFeed (s.feed.set d (f (s.feed.get d)))

/-- The entry of a drive to OFF: command 0, the command held becomes the previous one, OPEN_LOOP cleared, the prefill timer
stopped (R61, R67, R72). -/
def DriveUnit.enterOff (u : DriveUnit) : DriveUnit :=
  { u with state := .off, command := 0, previous := u.command, openLoop := false, prefillDue := none }

/-- The end of a prefill run with the return to its return state (R72). -/
def DriveUnit.endPrefill (u : DriveUnit) : DriveUnit :=
  if u.state = .prefill then
    if u.returnAuto then { u with state := .auto, prefillDue := none } else u.enterOff
  else u

/-! ## Geometry of the mat (R11, R12) -/

/-- The exposure e_k of extension zone k = 1..4 of a side (R11). -/
def exposure (ext k : Nat) : Nat := min 750 (ext - (k - 1) * 750)

/-- The band of a zone: its lower end, included, and its upper end, excluded (R11). -/
def zoneBand (extL extR : Nat) (z : Fin 12) : Int × Int :=
  if z.val < 4 then (-1500 + 750 * z.val, -750 + 750 * z.val)
  else if z.val < 8 then
    let lo : Int := -1500 - extL + (z.val - 4) * 750
    (lo, lo + exposure extL (z.val - 3))
  else
    let hi : Int := 1500 + extR - (z.val - 8) * 750
    (hi - exposure extR (z.val - 7), hi)

/-- The zone activity map: the main zones, and the extension zones exposed by 375 mm or more (R11). -/
def activityMap (extL extR : Nat) : ZoneSet :=
  setOf fun z =>
    if z.val < 4 then true
    else if z.val < 8 then 375 ≤ exposure extL (z.val - 3)
    else 375 ≤ exposure extR (z.val - 7)

/-- The zone whose band contains x, if any (R12). -/
def zoneAt (extL extR : Nat) (x : Int) : Option (Fin 12) :=
  (List.finRange 12).find? fun z => (zoneBand extL extR z).1 ≤ x && x < (zoneBand extL extR z).2

/-- The left edge of the mat (R12). -/
def matLeft (t : Travel) : Int := -1500 - t.extL

/-- The column count of the mat (R12). -/
def columnCount (t : Travel) : Nat := t.width / 250

end Sys2Proof.Machine
end

