-- ==== Sys2Proof/Machine/Feed.lean ====
section
/-! DEFINITION. The feed unit (chapter 4): the feed tick with its faults, base, correction and ramp, the feed load, state
requests, PREFILL and its timer, CLEAR-FAULT on a drive. -/

namespace Sys2Proof.Machine

/-! ## Base, correction, ramp (R63 to R66) -/

/-- The base of a drive in AUTO (R64): a conveyor by speed and ratio, an auger also by the extension of its side. -/
def feedBase (d : Drive) (speed ratio extL extR : Nat) : Nat :=
  match d with
  | .convL | .convR => speed * ratio / 100
  | .augL => speed * ratio * (1500 + extL) / 150000
  | .augR => speed * ratio * (1500 + extR) / 150000

/-- The correction of a GOOD height (R65). R65 also says that c lies in −12 000..+12 000, which holds for a height of 0..600 mm;
where a calibration of the channel (R18) gives a height beyond that, the formula stands as it is, without a limit: DESIGN
CHOICE (log entry 28). -/
def feedCorrection (t : DriveSettings) (height : Int) : Int := divHalfAway (t.gain * (t.target - height)) 10

/-- A raw command clamped to 0..1000. -/
def clampCommand (x : Int) : Nat := (clampInt 0 1000 x).toNat

/-- The raw command of a tick and the OPEN_LOOP mark it leaves (R63, R65). `base` is the drive's base, `metering` whether the
mode is PAVE and the paver moves. -/
def rawCommand (u : DriveUnit) (t : DriveSettings) (mode : Mode) (metering : Bool) (base : Nat) (height : ResultEntry) :
    Nat × Bool :=
  if mode = .travel then (0, u.openLoop)
  else
    match u.state with
    | .off | .fault => (0, u.openLoop)
    | .manual => (t.manual, u.openLoop)
    | .auto =>
      if metering then
        if height.quality = .good then (clampCommand (base + feedCorrection t height.value), false)
        else (clampCommand base, true)
      else (0, u.openLoop)
    | .prefill =>
      if height.quality = .good then (clampCommand (feedCorrection t height.value), false) else (0, true)

/-- The command a raw command becomes through the ramp (R66). -/
def ramp (step held raw : Nat) : Nat :=
  if raw = 0 then 0
  else if held + step < raw then held + step
  else if raw + step < held then held - step
  else raw

/-! ## Faults (R68, R69) -/

/-- The fault counts judged at a tick, against the command held and the inputs at the tick (R68). -/
def DriveUnit.judgeFaults (u : DriveUnit) (t : DriveSettings) (current : ResultEntry) (running : Bool) : DriveUnit :=
  { u with
    overcurrentCount :=
      if current.quality = .good then
        if (t.currentLimit : Int) < current.value then u.overcurrentCount + 1 else 0
      else u.overcurrentCount
    notRunningCount := if 0 < u.command && !running then u.notRunningCount + 1 else 0
    runawayCount := if u.command = 0 && running then u.runawayCount + 1 else 0 }

/-- The cause of a fault: the first of the three whose count reached 3 (R69); none while no count has. -/
def DriveUnit.faultDue (u : DriveUnit) : FaultCause :=
  if 3 ≤ u.overcurrentCount then .overcurrent
  else if 3 ≤ u.notRunningCount then .notRunning
  else if 3 ≤ u.runawayCount then .runaway
  else .none

/-- The entry to FAULT (R69): command 0, the command held becomes the previous one (R67), counts 0, OPEN_LOOP cleared, a
prefill run ended without return. -/
def DriveUnit.enterFault (u : DriveUnit) (cause : FaultCause) : DriveUnit :=
  { u with state := .fault, command := 0, previous := u.command, openLoop := false, overcurrentCount := 0,
           notRunningCount := 0, runawayCount := 0, cause := cause, prefillDue := none }

/-! ## The feed tick (R62) -/

/-- One drive's tick: a drive not in FAULT is judged first and may enter FAULT; otherwise its raw command is ramped and
becomes the command, the command held the previous one. -/
def DriveUnit.tick (u : DriveUnit) (t : DriveSettings) (mode : Mode) (metering : Bool) (base : Nat)
    (height current : ResultEntry) (running : Bool) : DriveUnit :=
  let v := if u.state = .fault then u else u.judgeFaults t current running
  if u.state ≠ .fault ∧ v.faultDue ≠ .none then v.enterFault v.faultDue
  else
    let raw := rawCommand v t mode metering base height
    { v with command := ramp t.rampStep u.command raw.1, previous := u.command, openLoop := raw.2 }

/-- The tick of a drive as the state stands. -/
def tickDrive (s : State) (d : Drive) (u : DriveUnit) : DriveUnit :=
  let t := s.settings.drives.get d
  u.tick t s.settings.mode (s.settings.mode = .pave && s.travel.moving)
    (feedBase d s.travel.speed t.ratio s.travel.extL s.travel.extR) s.seq.results[heightChannel d]
    s.seq.results[currentChannel d] (s.pins.running.getLsbD (driveIndex d).val)

/-- The feed tick of all four drives, with FEED_FAULT when one enters FAULT (R62, R69). -/
def feedTick (s : State) : State :=
  let after := s.feed.map (tickDrive s)
  let faulted := fun d => (s.feed.get d).state != .fault && (after.get d).state = .fault
  raiseAllIf (faulted .convL || faulted .convR || faulted .augL || faulted .augR) .feedFault (s.withFeed after)

/-! ## The feed load (R73) -/

/-- The current a drive counts with: the entry's value clamped to 0..1000 when GOOD, the last good one otherwise. -/
def loadCurrent (e : ResultEntry) (u : DriveUnit) : Nat :=
  if e.quality = .good then (clampInt 0 1000 e.value).toNat else u.lastGoodCurrent

/-- A drive's term of the feed load: the current kept by the drive times the bus voltage (R73). -/
def loadTerm (bus : Nat) (u : DriveUnit) : Nat := u.lastGoodCurrent * bus / 1000

/-- The feed load F formed and written into the heat grant unit (R73). -/
def feedLoad (s : State) : State :=
  let after := s.feed.map fun d u => { u with lastGoodCurrent := loadCurrent s.seq.results[currentChannel d] u }
  let bus := s.settings.busVoltage
  let f := loadTerm bus after.convL + loadTerm bus after.convR + loadTerm bus after.augL + loadTerm bus after.augR
  (s.withFeed after).withHeat { s.heat with feedLoad := f }

/-- A MEDIUM round completion at the feed unit: the ticks, then the feed load. -/
def feedRound (s : State) : State := feedLoad (feedTick s)

/-! ## State requests (R61) -/

/-- The state a request names. -/
def FeedRequest.state : FeedRequest → DriveState
  | .off => .off
  | .manual => .manual
  | .auto => .auto

/-- The entry into a requested state other than the drive's own (R61): to OFF with command 0, to MANUAL or AUTO with the
command as it stands; OPEN_LOOP is cleared but for AUTO. -/
def DriveUnit.enterRequested (u : DriveUnit) : FeedRequest → DriveUnit
  | .off => u.enterOff
  | .manual => { u with state := .manual, openLoop := false, prefillDue := none }
  | .auto => { u with state := .auto, prefillDue := none }

/-- The application of a state request to a drive (R61). -/
def DriveUnit.applyRequest (u : DriveUnit) (mode : Mode) (r : FeedRequest) : DriveUnit :=
  if mode = .travel ∨ u.state = .fault ∨ u.state = r.state then u else u.enterRequested r

/-! ## PREFILL (R71, R72) -/

/-- Whether a station may make a drive's requests: M, or its side's (R70, R71). -/
def mayCommandDrive (p : Port) (d : Drive) : Bool := p = .m || p = stationOfSide (sideOfDrive d)

/-- The state checks of PREFILL: mode STANDBY or PAVE, the drive in OFF or AUTO, the paver not moving (R71). -/
def prefillAllowed (s : State) (d : Drive) : Bool :=
  s.settings.mode != .travel && ((s.feed.get d).state = .off || (s.feed.get d).state = .auto) && !s.travel.moving

/-- The start of a prefill run (R71). -/
def DriveUnit.startPrefill (u : DriveUnit) (due : Nat) : DriveUnit :=
  { u with state := .prefill, returnAuto := u.state = .auto, prefillDue := some due }

/-- PREFILL (R71). -/
def execPrefill (p : Port) (item : Byte) (s : State) : Host.Outcome State Fault Refusal :=
  let t := takeRequest p s
  .next
    (match driveOfByte item with
     | none => answerCode p .refused t
     | some d =>
       if mayCommandDrive p d then
         if prefillAllowed t d then
           answerCode p .ok (t.modifyDrive d fun u => u.startPrefill (t.now + Config.prefillTime))
         else answerCode p .notNow t
       else answerCode p .notAllowed t)

/-- PREFILL_TIMER_EXPIRY (R72): the run ends with the return; a drive without a run is left as it is. -/
def execPrefillTimerExpiry (d : Drive) (s : State) : Host.Outcome State Fault Refusal :=
  .next
    (if (s.feed.get d).state = .prefill then
      (s.reachOpt (s.feed.get d).prefillDue).modifyDrive d DriveUnit.endPrefill
    else s)

/-! ## CLEAR-FAULT on a drive (R70) -/

/-- A drive in FAULT put in OFF (R70); its counts are 0 in FAULT and stay so. -/
def DriveUnit.clearFault (u : DriveUnit) : DriveUnit :=
  { u.enterOff with overcurrentCount := 0, notRunningCount := 0, runawayCount := 0 }

/-- CLEAR-FAULT with an item byte that names a drive (R70). -/
def clearDrive (p : Port) (d : Drive) (s : State) : State :=
  if mayCommandDrive p d then
    if (s.feed.get d).state = .fault then answerCode p .ok (s.modifyDrive d DriveUnit.clearFault)
    else answerCode p .notNow s
  else answerCode p .notAllowed s

/-- A drive at a change of the mode to TRAVEL: OFF with command 0; a drive in FAULT leaves it as on CLEAR-FAULT; a drive in OFF
is there already (R14, log entry 19). -/
def DriveUnit.toTravel (u : DriveUnit) : DriveUnit :=
  match u.state with
  | .off => u
  | .fault => u.clearFault
  | .manual | .auto | .prefill => u.enterOff

/-- A drive at RESTART (R75): OFF with command 0, the command held becomes the previous one, the fault cause and the last good
current kept. -/
def DriveUnit.restarted (u : DriveUnit) : DriveUnit :=
  { u.enterOff with overcurrentCount := 0, notRunningCount := 0, runawayCount := 0, returnAuto := false }

end Sys2Proof.Machine
end

