-- ==== Sys2Proof/Machine/Zones.lean ====
section
/-! DEFINITION. The zone unit (chapter 6): the cycle start with its close, temperatures, states and demands, the switching of
the outputs at a slice start, readback, CLEAR-FAULT. -/

namespace Sys2Proof.Machine

/-- All zones mapped. -/
def State.mapZones (s : State) (f : Fin 12 → ZoneUnit → ZoneUnit) : State :=
  s.withZones (Vector.ofFn fun k => f k s.zones[k])

/-! ## The cycle start (R99 to R102) -/

/-- The temperature of a zone taken at a cycle start (R100). -/
def ZoneUnit.takeTemperature (z : ZoneUnit) (e : ResultEntry) : ZoneUnit :=
  if e.quality = .good then { z with usable := some e.value, lastGood := some e.value, missed := 0 }
  else if e.round = 0 then { z with usable := z.lastGood }
  else { z with usable := z.lastGood, missed := satAdd 255 z.missed 1 }

/-- The demand of a zone evaluated by line 4 of R101 (R102). -/
def zoneDemand (t : ZoneSettings) (active : Bool) (usable : Option Int) : Nat :=
  match usable with
  | none => 0
  | some temp =>
    if !t.enabled || t.setpoint = 0 || !active then 0
    else if temp ≤ (t.setpoint : Int) - t.band then 32
    else if (t.setpoint : Int) ≤ temp then 0
    else divHalfUp (32 * ((t.setpoint : Int) - temp).toNat) t.band

/-- The state a cycle start gives a zone, and its demand (R101). -/
def evaluateZone (z : ZoneUnit) (demand : Nat) : ZoneState × Nat :=
  match z.state with
  | .faultOpen => (.faultOpen, 0)
  | .faultWelded => (.faultWelded, 0)
  | .sensorLost => if 3 ≤ z.missed then (.sensorLost, 0) else (.idle, 0)
  | .off | .idle | .heating =>
    if 3 ≤ z.missed then (.sensorLost, 0) else if 0 < demand then (.heating, demand) else (.idle, 0)

/-- A zone at a cycle start, its temperature already taken: state and demand, remaining, granted 0, the boost counted down,
the output of a zone not HEATING commanded off (R101, R102). -/
def ZoneUnit.startCycle (z : ZoneUnit) (demand : Nat) : ZoneUnit :=
  let e := evaluateZone z demand
  { z with
    state := e.1
    demand := e.2
    remaining := e.2
    granted := 0
    boost := z.boost - 1
    output := z.output && e.1 = .heating }

/-- Zone k at a cycle start as the state stands. -/
def cycleZone (s : State) (k : Fin 12) (z : ZoneUnit) : ZoneUnit :=
  let v := z.takeTemperature s.seq.results[zoneChannel k]
  v.startCycle (zoneDemand s.settings.zones[k] (s.travel.activity.getLsbD k.val) v.usable)

/-- The close of a cycle that ran to its end: the starved counts, STARVING and the report (R99). -/
def closeCycle (s : State) : State :=
  let starved : ZoneSet := setOf fun k => 0 < s.zones[k].remaining
  reportStarved starved (raiseAllIf (starved != 0#12) .starving (s.mapZones fun _ z => { z with starved := z.remaining }))

/-- The cycle start at the zone unit; `closes` says whether there is a cycle to close (R99 to R102). A zone that enters
SENSOR_LOST raises ZONE_FAULT and is reported (R101, R112). -/
def cycleStart (closes : Bool) (s : State) : State :=
  let t := if closes then closeCycle s else s
  let u := t.mapZones (cycleZone t)
  let lost : ZoneSet := setOf fun k => t.zones[k].state != .sensorLost && u.zones[k].state = .sensorLost
  reportFaulted lost (raiseAllIf (lost != 0#12) .zoneFault u)

/-! ## Slice start and outputs (R87, R104, R105) -/

/-- A zone at a slice start: granted or not (R87), and the slice-start command kept (R105). A zone in OFF takes no part in
slices (R98). -/
def ZoneUnit.startSlice (z : ZoneUnit) (granted : Bool) : ZoneUnit :=
  if granted then { z with remaining := z.remaining - 1, granted := z.granted + 1, output := true, sliceCommand := true }
  else { z with output := false, sliceCommand := false }

/-- Every heater output commanded off (R89, R96). -/
def outputsOff (s : State) : State := s.mapZones fun _ z => { z with output := false }

/-- A zone put in OFF at a change to TRAVEL: output off, mismatch counts 0, the other facts kept (R98). -/
def ZoneUnit.toOff (z : ZoneUnit) : ZoneUnit := { z with state := .off, output := false, openCount := 0, weldCount := 0 }

/-- A zone at RESTART, before the cycle start: outputs off, faults cleared to IDLE, mismatch counts and boosts 0 (R115). -/
def ZoneUnit.restarted (z : ZoneUnit) : ZoneUnit :=
  { z with
    state := if z.state = .faultOpen ∨ z.state = .faultWelded then .idle else z.state
    output := false
    sliceCommand := false
    boost := 0
    openCount := 0
    weldCount := 0 }

/-- The application of DISABLED to a zone: a zone in HEATING goes to IDLE with its output off (R97). -/
def ZoneUnit.disable (z : ZoneUnit) : ZoneUnit :=
  if z.state = .heating then { z with state := .idle, output := false } else z

/-! ## Readback (R106 to R108) -/

/-- The check of a zone commanded off (R108): two welded mismatches in a row put it in FAULT_WELDED; a zone in that state or
in OFF is not changed. -/
def ZoneUnit.offCheck (z : ZoneUnit) (sense : Bool) : ZoneUnit :=
  match z.state with
  | .off | .faultWelded => z
  | .idle | .heating | .sensorLost | .faultOpen =>
    if sense then
      if z.weldCount = 0 then { z with weldCount := 1 }
      else { z with state := .faultWelded, openCount := 0, weldCount := 0 }
    else { z with weldCount := 0 }

/-- The check of a zone commanded on (R107): two open mismatches in a row put a zone in HEATING in FAULT_OPEN, its output
off. -/
def ZoneUnit.onCheck (z : ZoneUnit) (sense : Bool) : ZoneUnit :=
  if z.state = .heating then
    if sense then { z with openCount := 0 }
    else if z.openCount = 0 then { z with openCount := 1 }
    else { z with state := .faultOpen, openCount := 0, output := false }
  else z

/-- A zone at a readback (R106): not judged when its command changed since the slice start. -/
def ZoneUnit.readback (z : ZoneUnit) (sense : Bool) : ZoneUnit :=
  if z.output ≠ z.sliceCommand then z else if z.output then z.onCheck sense else z.offCheck sense

/-- READBACK (R106 to R108): while the heating state is RUNNING; otherwise the timer does not run and nothing happens (log
entry 1). -/
def execReadback (pins : Pins) (s : State) : Host.Outcome State Fault Refusal :=
  .next
    (if s.heat.running then
      let t := (s.reachOpt s.timers.readback).withPins pins
      let u := t.mapZones fun k z => z.readback (pins.sense.getLsbD k.val)
      let entered : ZoneSet :=
        setOf fun k =>
          t.zones[k].state != u.zones[k].state && (u.zones[k].state = .faultOpen || u.zones[k].state = .faultWelded)
      reportFaulted entered
        (raiseAllIf (entered != 0#12) .zoneFault (u.withTimers { u.timers with readback := none }))
    else s)

/-! ## CLEAR-FAULT (R70, R109) -/

/-- Whether CLEAR-FAULT can clear a zone: FAULT_OPEN, or FAULT_WELDED with its sense reading off (R109). -/
def zoneClearable (z : ZoneUnit) (sense : Bool) : Bool :=
  z.state = .faultOpen || (z.state = .faultWelded && !sense)

/-- A zone cleared: IDLE, mismatch counts 0, its output commanded off as it was (R109). -/
def ZoneUnit.clearFault (z : ZoneUnit) : ZoneUnit :=
  { z with state := .idle, openCount := 0, weldCount := 0, output := false }

/-- CLEAR-FAULT with an item byte that names a zone (R109). -/
def clearZone (p : Port) (k : Fin 12) (s : State) : State :=
  if mayWriteZone p k then
    if zoneClearable s.zones[k] (s.pins.sense.getLsbD k.val) then
      answerCode p .ok (s.withZones (s.zones.set k s.zones[k].clearFault))
    else answerCode p .notNow s
  else answerCode p .notAllowed s

/-- CLEAR_FAULT (R70, R109): of a drive or of a zone. -/
def execClearFault (p : Port) (item : Byte) (pins : Pins) (s : State) : Host.Outcome State Fault Refusal :=
  let t := (takeRequest p s).withPins pins
  .next
    (match driveOfByte item with
     | some d => clearDrive p d t
     | none =>
       match zoneOfByte item with
       | some k => clearZone p k t
       | none => answerCode p .refused t)

end Sys2Proof.Machine
end

