-- ==== Sys2Proof/Machine/Heat.lean ====
section
/-! DEFINITION. The heat grant unit (chapter 5): the slice budget, the grant order and the grant pass, slices and cycle
boundaries, trips and derating, the start and stop of the heating. -/

namespace Sys2Proof.Machine

/-! ## The slice budget (R80 to R82) -/

/-- The effective capacity of a written capacity at a derate step (R80). -/
def effectiveCapacity (capacity derate : Nat) : Nat := capacity * derate / 100

/-- The heating budget H = max(0, C_eff − F − reserve) (R81). -/
def sliceBudget (effective feedLoad reserve : Nat) : Nat := effective - feedLoad - reserve

/-- The sum of the rated powers of the zones a predicate picks. -/
def ratedSum (s : State) (f : Fin 12 → Bool) : Nat :=
  (((List.finRange 12).filter f).map fun k => s.settings.zones[k].rated).sum

/-- The welded power P_w (R82). -/
def weldedPower (s : State) : Nat := ratedSum s fun k => s.zones[k].state = .faultWelded

/-! ## Candidates and grants (R84 to R86) -/

/-- Whether a zone is a candidate (R84). -/
def candidate (s : State) (k : Fin 12) : Bool :=
  !s.heat.tripped && s.zones[k].state = .heating && s.travel.activity.getLsbD k.val && 0 < s.zones[k].remaining

/-- Grant order (R85): boosted zones first, then the larger remaining demand, then the lower zone number. -/
def grantBefore (s : State) (a b : Fin 12) : Bool :=
  let boostA := 0 < s.zones[a].boost
  let boostB := 0 < s.zones[b].boost
  if boostA ≠ boostB then boostA
  else if s.zones[a].remaining ≠ s.zones[b].remaining then s.zones[b].remaining < s.zones[a].remaining
  else a < b

/-- A zone placed in a list that stands in grant order. -/
def insertGrant (s : State) (a : Fin 12) : List (Fin 12) → List (Fin 12)
  | [] => [a]
  | b :: rest => if grantBefore s a b then a :: b :: rest else b :: insertGrant s a rest

/-- The candidates in grant order. -/
def grantOrder (s : State) : List (Fin 12) :=
  ((List.finRange 12).filter (candidate s)).foldr (insertGrant s) []

/-- The grant pass (R86): each candidate in turn is granted if its rated power still fits within A. Answers the zones granted
and the granted power. -/
def grantPass (rated : Fin 12 → Nat) (available : Int) : List (Fin 12) → List (Fin 12) × Nat → List (Fin 12) × Nat
  | [], acc => acc
  | k :: rest, acc =>
    if (acc.2 + rated k : Int) ≤ available then grantPass rated available rest (k :: acc.1, acc.2 + rated k)
    else grantPass rated available rest acc

/-- The heat grant unit with the budget of a slice start formed (R81). -/
def formBudget (s : State) : HeatUnit :=
  let h := sliceBudget s.heat.effective s.heat.feedLoad s.settings.reserve
  let w := weldedPower s
  { s.heat with budget := h, welded := w, available := (h : Int) - w }

/-- A slice start (R81 to R87, R106): the budget, the grants, the outputs, the slice and readback timers. The slice number is
the caller's. -/
def startSlice (s : State) : State :=
  let heat := formBudget s
  let pass := grantPass (fun k => s.settings.zones[k].rated) heat.available (grantOrder s) ([], 0)
  let grants : ZoneSet := setOf fun k => pass.1.contains k
  ((s.withHeat { heat with grants := grants, grantedPower := pass.2 }).mapZones fun k z =>
      z.startSlice (grants.getLsbD k.val)).withTimers
    { s.timers with slice := some (s.now + Config.sliceTime), readback := some (s.now + Config.readbackTime) }

/-! ## Cycle boundaries (R76, R77) -/

/-- Phase 1 of a boundary: the next cycle number, the tripped mark clear, the history aged by entries ten or more behind
(R77). -/
def HeatUnit.nextCycle (h : HeatUnit) : HeatUnit :=
  let cycle := (h.cycle + 1) % 65536
  { h with
    cycle := cycle
    tripped := false
    history := h.history.filter fun e => (cycle + 65536 - e) % 65536 < 10 }

/-- A cycle boundary in its three phases; `closes` says whether a cycle that ran to its end is closed (R77). -/
def cycleBoundary (closes : Bool) (s : State) : State :=
  let t := cycleStart closes (s.withHeat s.heat.nextCycle)
  startSlice (t.withHeat { t.heat with slice := 0 })

/-- The heating made RUNNING with a boundary at once, with no cycle to close (R78, R96). -/
def startHeating (s : State) : State := cycleBoundary false (s.withHeat { s.heat with running := true })

/-- SLICE_START (R76): the slice timer expiry. While STOPPED the timer does not run and nothing happens (log entry 1). An expiry
taken past its deadline starts its slice at the take, and the rest of the cycle counts from there (log entry 30, DESIGN
CHOICE). -/
def execSliceStart (s : State) : Host.Outcome State Fault Refusal :=
  .next
    (if s.heat.running then
      let t := s.reachOpt s.timers.slice
      if t.heat.slice < 31 then startSlice (t.withHeat { t.heat with slice := t.heat.slice + 1 })
      else cycleBoundary true t
    else s)

/-- HEATING_WAIT_END (R78): RUNNING and a boundary, unless the mode is TRAVEL; without a wait nothing happens (log entry
1). -/
def execHeatingWaitEnd (s : State) : Host.Outcome State Fault Refusal :=
  .next
    (match s.timers.heatingWait with
     | none => s
     | some due =>
       let t := s.reach due
       let u := t.withTimers { t.timers with heatingWait := none }
       if u.settings.mode = .travel then u else startHeating u)

/-! ## Grants emptied, heating stopped (R78, R89, R96) -/

/-- The grant set emptied and every output commanded off. -/
def cutGrants (s : State) : State :=
  outputsOff (s.withHeat { s.heat with grants := 0#12, grantedPower := 0 })

/-- The heating stopped at a change to TRAVEL: STOPPED, the wait cancelled, slice and readback timing stopped, every zone OFF
(R14, R78, R98). -/
def stopHeating (s : State) : State :=
  let t := cutGrants s
  ((t.withHeat { t.heat with running := false }).withTimers
    { t.timers with slice := none, readback := none, heatingWait := none }).mapZones fun _ z => z.toOff

/-- The heating at RESTART (R96, R115): the cycle ended without a close, the wait cancelled, faults and boosts cleared, and a
boundary at once unless the mode is TRAVEL. -/
def restartHeating (s : State) : State :=
  let t := cutGrants s
  let u :=
    ((t.withHeat { t.heat with tripped := false }).withTimers
      { t.timers with slice := none, readback := none, heatingWait := none }).mapZones fun _ z => z.restarted
  if u.settings.mode = .travel then u else startHeating u

/-! ## Trips and derating (R89 to R93) -/

/-- The heat grant unit when the first trip of a cycle enters the history (R91, R92): the third entry makes a derating trip
and empties the history. -/
def HeatUnit.enterTrip (capacity : Nat) (h : HeatUnit) : HeatUnit :=
  if h.history.contains h.cycle then { h with tripped := true }
  else if h.history.length < 2 then { h with tripped := true, history := h.history ++ [h.cycle] }
  else
    let derate := if 50 < h.derate then h.derate - 10 else h.derate
    { h with tripped := true, history := [], derate := derate, effective := effectiveCapacity capacity derate }

/-- A trip while RUNNING, after HEAT_TRIP and the report: the outputs off, the grants emptied, and the history when the mark
was clear, with DERATED when the step fell (R89, R92). -/
def tripRunning (s : State) : State :=
  let t := cutGrants s
  if t.heat.tripped then t
  else
    let u := t.withHeat (t.heat.enterTrip t.settings.capacity)
    raiseAllIf (u.heat.derate < t.heat.derate) .derated u

/-- TRIP (R89, R93): a rise of one trip input that has stayed high for 1 ms. -/
def execTrip (phase : Fin 3) (s : State) : Host.Outcome State Fault Refusal :=
  let t := s.withPins { s.pins with trip := s.pins.trip ||| (1#3 <<< phase.val) }
  let u := reportTrip (raiseAll .heatTrip t)
  .next (if u.heat.running then tripRunning u else u)

end Sys2Proof.Machine
end

