-- ==== Sys2Proof/Machine/Store.lean ====
section
/-! DEFINITION. The record store and its drain (chapter 8): room and drops, storing, and the commands FETCH, RELEASE, REWIND,
COPY_COMPLETION and HELD_ANSWER_EXPIRY. -/

namespace Sys2Proof.Machine

/-! ## The ring and its records (R134) -/

/-- The used words: the sum of the lengths of the records held. -/
def Store.used (st : Store) : Nat := (st.records.map fun r => r.words.length).sum

/-- The free words. -/
def Store.freeWords (st : Store) : Nat := Config.ringWords - st.used

/-- The word of the ring at address `a`, while a held record occupies it: the records lie one after another from word
ringBase on, word 0 after word 8191 (R134). -/
def Store.wordAt (st : Store) (a : Nat) : Option Word :=
  if a < Config.ringWords then
    (st.records.flatMap StoredRecord.words)[(a + Config.ringWords - st.ringBase) % Config.ringWords]?
  else none

/-- The fetch cursor raised to base if it lies behind it (R136, R142). -/
def Store.raiseCursor (st : Store) : Store :=
  { st with cursor := if seqBehind st.base st.cursor then st.base else st.cursor }

/-- The base record freed: its words free, base at the number after it, the cursor raised (R136, R142). An empty store is
unchanged. -/
def Store.freeBase (st : Store) : Store :=
  match st.records with
  | [] => st
  | r :: rest =>
    ({ st with records := rest, ringBase := (st.ringBase + r.words.length) % Config.ringWords,
               base := seqNext st.base } : Store).raiseCursor

/-- A drop: the base record freed and counted (R136). -/
def Store.drop (st : Store) : Store :=
  { st.freeBase with eventDrops := st.eventDrops + 1, droppedTotal := satAdd 65535 st.droppedTotal 1 }

/-- The required length of a record handed over with `len` words: its check word, and a drop count word while there are drops
(R136). -/
def Store.required (st : Store) (len : Nat) : Nat := len + 1 + if 0 < st.eventDrops then 1 else 0

/-- Base records dropped while the free space is less than the required length (R136), `fuel` at most. -/
def Store.dropWhile (len : Nat) : Nat → Store → Store
  | 0, st => st
  | fuel + 1, st => if st.freeWords < st.required len then Store.dropWhile len fuel st.drop else st

/-- Room made for a record handed over with `len` words, from drops 0 (R136). -/
def Store.makeRoom (st : Store) (len : Nat) : Store :=
  Store.dropWhile len st.records.length { st with eventDrops := 0 }

/-- A finished record written after newest; the drops of the store event return to 0 (R136). -/
def Store.push (st : Store) (r : StoredRecord) : Store :=
  { st with records := st.records ++ [r], newest := r.sequence, eventDrops := 0 }

/-- The held record at the fetch cursor, or none when the cursor lies past newest (R135, R138). -/
def Store.atCursor (st : Store) : Option StoredRecord := st.records[seqDistance st.base st.cursor]?

/-! ## FETCH (R138 to R140) -/

/-- The words of a record as answer data, each most significant byte first (R175). -/
def recordBytes (r : StoredRecord) : List Byte := r.words.flatMap wordBytes

/-- Whether the store holds the record of a number: it lies at base or ahead of it, not beyond newest (R135). -/
def Store.holds (st : Store) (n : Nat) : Bool := seqDistance st.base n < st.records.length

/-- The delivery of a copied record: the cursor set after it when it lies at the record or behind it, the slot EMPTY (R140). A
cursor that drops have raised lies beyond: they raise it to base, and the records they free are no longer held (R136). -/
def Store.deliver (st : Store) (r : StoredRecord) : Store :=
  { st with
    cursor :=
      if st.holds r.sequence && seqDistance st.cursor r.sequence ≤ 2147483647 then seqNext r.sequence else st.cursor
    slot := .empty }

/-- FETCH from D, by the held slot and the cursor (R138). -/
def fetchFromD (s : State) : State :=
  match s.store.slot with
  | .ready r _ => answer .d { code := .ok, data := recordBytes r } (s.withStore (s.store.deliver r))
  | .copying _ _ => answerCode .d .retry s
  | .empty =>
    match s.store.atCursor with
    | none => answerCode .d .empty s
    | some r =>
      answerCode .d .retry
        (s.withStore { s.store with slot := .copying r (s.now + Config.copyTimePerWord * r.words.length) })

/-- FETCH (R138): taken from D, NOT_ALLOWED from the others. -/
def execFetch (p : Port) (s : State) : Host.Outcome State Fault Refusal :=
  let t := takeRequest p s
  .next (if p = .d then fetchFromD t else answerCode p .notAllowed t)

/-! ## RELEASE and REWIND (R142, R143) -/

/-- The held slot made EMPTY. -/
def Store.emptySlot (st : Store) : Store := { st with slot := .empty }

/-- RELEASE of a number other than 0, from D, placed against base (R135, R142). -/
def releaseFromD (n : Nat) (s : State) : State :=
  if seqDistance s.store.base n = 0 then
    if s.store.records.isEmpty then answerCode .d .order (s.withStore s.store.emptySlot)
    else answerCode .d .ok (s.withStore s.store.freeBase.emptySlot)
  else if seqBehind s.store.base n then answerCode .d .gone (s.withStore s.store.emptySlot)
  else answerCode .d .order (s.withStore s.store.emptySlot)

/-- RELEASE (R142). -/
def execRelease (p : Port) (sequence : DWord) (s : State) : Host.Outcome State Fault Refusal :=
  let t := takeRequest p s
  .next
    (if p ≠ .d then answerCode p .notAllowed t
     else if sequence = 0#32 then answerCode p .refused t
     else releaseFromD sequence.toNat t)

/-- REWIND (R143). -/
def execRewind (p : Port) (s : State) : Host.Outcome State Fault Refusal :=
  let t := takeRequest p s
  .next
    (if p ≠ .d then answerCode p .notAllowed t
     else answerCode p .ok (t.withStore { t.store.emptySlot with cursor := t.store.base }))

/-! ## The copy's own events (R139, R140) -/

/-- COPY_COMPLETION (R139): COPYING becomes READY with its 2 s; otherwise no copy runs and nothing happens (log entry 1). -/
def execCopyCompletion (s : State) : Host.Outcome State Fault Refusal :=
  .next
    (match s.store.slot with
     | .copying r due =>
       let t := s.reach due
       t.withStore { t.store with slot := .ready r (t.now + Config.heldTime) }
     | .empty => s
     | .ready _ _ => s)

/-- HELD_ANSWER_EXPIRY (R140): a READY copy is discarded; otherwise nothing happens (log entry 1). -/
def execHeldAnswerExpiry (s : State) : Host.Outcome State Fault Refusal :=
  .next
    (match s.store.slot with
     | .ready _ due => (s.reach due).withStore s.store.emptySlot
     | .empty => s
     | .copying _ _ => s)

end Sys2Proof.Machine
end

