-- ==== Sys2Proof/Machine/Record.lean ====
section
/-! DEFINITION. Strip records (chapter 7): the open, the column section, the assembled words (R177), the close with its
storing, alerts, boosts and summary. -/

namespace Sys2Proof.Machine

/-! ## Open (R120) -/

/-- The zones in FAULT_OPEN, FAULT_WELDED or SENSOR_LOST (R112). -/
def faultedZones (s : State) : ZoneSet :=
  setOf fun k =>
    match s.zones[k].state with
    | .faultOpen | .faultWelded | .sensorLost => true
    | .off | .idle | .heating => false

/-- The record an open begins (R120). -/
def newRecord (s : State) : OpenRecord :=
  { sequence := s.record.nextSequence
    start := s.travel.distance
    openTime := s.travel.seconds
    openedAt := s.now
    width := s.travel.width
    x0 := matLeft s.travel
    columns := columnCount s.travel
    speedMin := s.travel.speed
    speedMax := s.travel.speed
    pauseWindows := 0
    flags :=
      { scannerLost := s.scan.lost
        converterSuspect := s.seq.conditionSuspect
        travelSuspect := s.travel.suspect
        widthHeld := s.travel.widthHeld }
    starved := 0#12
    faulted := faultedZones s
    trips := 0 }

/-- The accumulators and line counts of the step cleared for `n` columns (R120). -/
def Scan.clearStep (n : Nat) (c : Scan) : Scan :=
  { c with columns := List.replicate n { sum := 0, count := 0 }, minimum := none, linesBinned := 0, linesRejected := 0 }

/-- A strip record opens (R120). -/
def openRecord (s : State) : State :=
  ((s.withRecord
      { s.record with current := some (newRecord s), nextSequence := seqNext s.record.nextSequence }).withScan
    (s.scan.clearStep (columnCount s.travel))).withLev (s.lev.map fun _ u => { u with stepMax := 0 })

/-! ## The column section (R126) -/

/-- The mean of a column: 0 for a GAP. -/
def Column.mean (c : Column) : Nat := if c.count = 0 then 0 else divHalfUp c.sum c.count

/-- COLD: pixels were binned and their mean lies below the cold limit. -/
def Column.cold (limit : Nat) (c : Column) : Bool := c.count != 0 && c.mean < limit

/-- A column word: GAP in bit 13, COLD in bit 12, the mean in bits 11..0 (R177). -/
def Column.word (limit : Nat) (c : Column) : Word :=
  BitVec.ofNat 16 ((if c.count = 0 then 8192 else 0) + (if c.cold limit then 4096 else 0) + c.mean)

/-- The pause time in tenths of a second (R126). -/
def OpenRecord.pause (r : OpenRecord) : Nat := min 65535 (r.pauseWindows * 25 / 10)

/-! ## The assembled record (R127, R177) -/

/-- The fixed header of the closing record (R127), with its DROPS flag still clear. -/
def assembleHeader (s : State) (r : OpenRecord) (partialClose restartClose : Bool) : Header :=
  { sequence := r.sequence
    start := r.start
    length := min 65535 (s.travel.distance - r.start)
    openTime := r.openTime
    duration := min 65535 ((s.now - r.openedAt) / Config.ticksPerMs / 100)
    width := r.width
    partialClose := partialClose
    restartClose := restartClose
    pauseFlag := 0 < r.pause
    dropsFlag := false
    flags := r.flags
    linesBinned := s.scan.linesBinned
    speedMin := min 1020 r.speedMin
    speedMax := min 1020 r.speedMax
    leftState := s.lev.left.state
    leftMax := s.lev.left.stepMax
    rightState := s.lev.right.state
    rightMax := s.lev.right.stepMax
    starved := r.starved
    faulted := r.faulted
    trips := r.trips
    minimum := s.scan.minimum.getD 0
    linesRejected := s.scan.linesRejected }

/-- The flags in bits 15..8 of word 9 (R177). -/
def Header.flagBits (h : Header) : Nat :=
  boolCode h.partialClose * 32768 + boolCode h.restartClose * 16384 + boolCode h.pauseFlag * 8192
    + boolCode h.dropsFlag * 4096 + boolCode h.flags.scannerLost * 2048 + boolCode h.flags.converterSuspect * 1024
    + boolCode h.flags.travelSuspect * 512 + boolCode h.flags.widthHeld * 256

/-- The sixteen words of the fixed header (R177). -/
def Header.words (h : Header) : List Word :=
  dwordWords h.sequence ++ dwordWords h.start ++ [BitVec.ofNat 16 h.length] ++ dwordWords h.openTime
    ++ [BitVec.ofNat 16 h.duration, BitVec.ofNat 16 h.width, BitVec.ofNat 16 (h.flagBits + h.linesBinned),
      BitVec.ofNat 16 (h.speedMin / 4 * 256 + h.speedMax / 4),
      BitVec.ofNat 16 (h.leftState.code * 16384 + h.leftMax), BitVec.ofNat 16 (h.rightState.code * 16384 + h.rightMax),
      h.starved.setWidth 16, BitVec.ofNat 16 (h.trips * 4096 + h.faulted.toNat),
      BitVec.ofNat 16 (h.linesRejected * 4096 + h.minimum)]

/-- The words of a record before its check word: header, pause, drop count, columns (R127, R177). -/
def recordBody (h : Header) (pause drops : Nat) (columns : List Word) : List Word :=
  h.words ++ (if h.pauseFlag then [BitVec.ofNat 16 pause] else []) ++ (if h.dropsFlag then [BitVec.ofNat 16 drops] else [])
    ++ columns

/-- A record with its check word over every word before it (R128). -/
def withCheckWord (ws : List Word) : List Word := ws ++ [checkWord ws]

/-! ## Boosts (R110, R129) -/

/-- The zones whose bands contain the centres of a record's COLD columns, as the mat stands now (R129). -/
def coldZones (s : State) (r : OpenRecord) : ZoneSet :=
  setOf fun z =>
    (s.scan.columns.zipIdx).any fun (c, i) =>
      c.cold s.settings.record.coldLimit && zoneAt s.travel.extL s.travel.extR (r.x0 + 250 * i + 125) == some z

/-- Each zone of the set gets the boost countdown 2 (R110). -/
def boostZones (z : ZoneSet) (s : State) : State :=
  s.withZones (Vector.ofFn fun k : Fin 12 => if z.getLsbD k.val then { s.zones[k] with boost := 2 } else s.zones[k])

/-! ## Storing and close -/

/-- A storing event (R128, R136, R137): room is made, the drop count settled, the finished record written, RECORDS_DROPPED and
STORE_NEAR_FULL raised. Answers the header as stored beside the state. -/
def storeRecord (h : Header) (pause : Nat) (columns : List Word) (s : State) : State × Header :=
  let before := s.store.used
  let st := s.store.makeRoom (recordBody h pause 0 columns).length
  let drops := st.eventDrops
  let h' := { h with dropsFlag := 0 < drops }
  let st' := st.push { sequence := h.sequence, words := withCheckWord (recordBody h' pause drops columns) }
  let s1 := raiseAllIf (0 < drops) .recordsDropped (s.withStore st')
  (raiseAllIf (before < Config.nearFullWords && Config.nearFullWords ≤ st'.used) .storeNearFull s1, h')

/-- A close of the open record (R126 to R129): the record assembled and stored, RECORD_CLOSED raised, its cold columns
returned as boosts except after RESTART, the summary replaced, no record open. Without an open record nothing happens. -/
def closeRecord (partialClose restartClose : Bool) (s : State) : State :=
  match s.record.current with
  | none => s
  | some r =>
    let h := assembleHeader s r partialClose restartClose
    let stored := storeRecord h r.pause (s.scan.columns.map (Column.word s.settings.record.coldLimit)) s
    let s1 := raiseAll .recordClosed stored.1
    let s2 := if restartClose then s1 else boostZones (coldZones s r) s1
    s2.withRecord { s2.record with current := none, summary := some stored.2 }

/-- The close at a carry: when the distance travelled reaches the step length the record closes and the next one opens
(R123). -/
def closeByStep (s : State) : State :=
  match s.record.current with
  | none => s
  | some r =>
    if s.settings.record.stepLength ≤ s.travel.distance - r.start then openRecord (closeRecord false false s) else s

/-! ## Speed windows (R122) -/

/-- The window taken by a record that was open before it. -/
def OpenRecord.window (speed : Nat) (moving : Bool) (r : OpenRecord) : OpenRecord :=
  { r with
    speedMin := min r.speedMin speed
    speedMax := max r.speedMax speed
    pauseWindows := if moving then r.pauseWindows else satAdd 65535 r.pauseWindows 1 }

/-- What the record unit does at a speed window expiry: it takes the window into the open record, or opens a record when the
paver moves in PAVE (R6, R120, R122). -/
def recordWindow (s : State) : State :=
  match s.record.current with
  | some r => s.withRecord { s.record with current := some (r.window s.travel.speed s.travel.moving) }
  | none => if s.travel.moving && s.settings.mode = .pave then openRecord s else s

end Sys2Proof.Machine
end

