-- ==== Sys2Proof/Machine/SettingsTable.lean ====
section
/-! DEFINITION. The settings table (chapter 9): the take of a WRITE, the application of a posted write, and what an applied
value does at once in the blocks it concerns (R155). -/

namespace Sys2Proof.Machine

/-! ## Take time (R150) -/

/-- A WRITE of CLEAR to a SET calibration lock, or any WRITE to group 9 while the lock is SET (R149). -/
def lockedOut (t : Settings) (st : Setting) (v : Word) : Bool :=
  t.calLock && (st.group = 9 || (st = .calLock && v = 0#16))

/-- A WRITE of a setting judged by checks 3 to 8 of R150: the answer, and the entry posted when it passes. The entry's 2 ms
count from the end of the exchange (R152, R165), a free time after its take (log entry 5). -/
def judgeWrite (s : State) (p : Port) (st : Setting) (v : Word) : Answer × Option PostEntry :=
  let t := s.settings
  if !mayWrite p st then ({ code := .notAllowed, data := [] }, none)
  else if guarded t.guard p st then ({ code := .guarded, data := [] }, none)
  else if lockedOut t st v then ({ code := .locked, data := [] }, none)
  else if !st.defined v then ({ code := .refused, data := [] }, none)
  else if 4 ≤ (s.ports.get p).queue.length then ({ code := .full, data := [] }, none)
  else
    let c := clampValue t st v
    ({ code := if c.2 then .clamped else .accepted, data := wordBytes c.1 },
      some { item := st, value := c.1, clamped := c.2, due := s.now + Config.exchangeTail s.free + Config.applicationTime })

/-- An entry placed at the tail of a port's post queue; the free time to the end of its exchange is taken. -/
def postEntry (p : Port) (e : PostEntry) (s : State) : State :=
  (s.modifyPort p fun t => { t with queue := t.queue ++ [e] }).withFree (s.free + 1)

/-! ## Effects of applied values (R155) -/

/-- A reference mode applied (R37): a change drops a side in AUTO or LOST to MANUAL. -/
def refModeApplied (sd : Side) (old : RefMode) (s : State) : State :=
  if (s.settings.sides.get sd).refMode = old then s else dropSide sd s

/-- A non-zero duty clamped to minDuty..maxDuty (R36). -/
def clampDuty (t : SideSettings) (duty : Nat) : Nat := if duty = 0 then 0 else clampNat t.minDuty t.maxDuty duty

/-- minDuty or maxDuty applied: the duty held by a side in AUTO is clamped to the new pair (R36). -/
def dutyApplied (sd : Side) (s : State) : State :=
  s.modifySide sd fun u =>
    if u.state = .auto then
      { u with
        raise := clampDuty (s.settings.sides.get sd) u.raise
        lower := clampDuty (s.settings.sides.get sd) u.lower }
    else u

/-- The written capacity applied: derate step 100, history emptied, the effective capacity formed anew (R79, R80). -/
def capacityApplied (s : State) : State :=
  s.withHeat
    { s.heat with derate := 100, history := [], effective := effectiveCapacity s.settings.capacity 100 }

/-- A change of the machine mode to TRAVEL (R14): sides to MANUAL, drives to OFF, the heating stopped, and an open record
closed PARTIAL when the previous mode was PAVE. The sides come first, so that the record carries MANUAL (R57). -/
def changeToTravel (old : Mode) (s : State) : State :=
  let t := dropSideAndJog .right (dropSideAndJog .left s)
  let u := stopHeating (t.withFeed (t.feed.map fun _ d => d.toTravel))
  if old = .pave then closeRecord true false u else u

/-- A change from PAVE to STANDBY (R16): an open record closed PARTIAL, the valves of sides in AUTO at 0. -/
def leavePave (s : State) : State := autoValvesZero (closeRecord true false s)

/-- A change of the machine mode (R14 to R16); `s` holds the new mode. -/
def modeChanged (old : Mode) (s : State) : State :=
  match s.settings.mode, old with
  | .travel, _ => changeToTravel old s
  | .standby, .travel => startHeating s
  | .pave, .travel => startHeating s
  | .standby, .pave => leavePave s
  | .standby, .standby => s
  | .pave, .standby => s
  | .pave, .pave => s

/-- The machine mode applied: a value it already holds is not a change (R13). -/
def modeApplied (old : Mode) (s : State) : State := if s.settings.mode = old then s else modeChanged old s

/-- What an applied value does at once (R155); `old` is the settings table before it, `s` holds the new one. -/
def settingApplied (st : Setting) (old : Settings) (s : State) : State :=
  match st with
  | .machineMode => modeApplied old.mode s
  | .writtenCapacity => capacityApplied s
  | .alertMask q => s.modifyPort q fun t => t.reline (s.settings.masks.get q)
  | .side sd .refMode => refModeApplied sd (old.sides.get sd).refMode s
  | .side sd .minDuty => dutyApplied sd s
  | .side sd .maxDuty => dutyApplied sd s
  | .zone k .enable =>
    if s.settings.zones[k].enabled then s else s.withZones (s.zones.set k s.zones[k].disable)
  | .drive d .request =>
    s.modifyDrive d fun u => u.applyRequest s.settings.mode (s.settings.drives.get d).request
  | .reserve | .busVoltage | .calLock | .guardMask | .side _ _ | .zone _ _ | .drive _ _ | .record _ | .calibration _ _
  | .travelPulse | .radarPulse => s

/-- A value stored and its effect started (R153, R155). -/
def storeSetting (st : Setting) (v : Word) (s : State) : State :=
  settingApplied st s.settings (s.withSettings (s.settings.write st v))

/-! ## Application (R152 to R154) -/

/-- The application check: a reference mode SLOPE fails while the other side's stored mode is SLOPE (R154). -/
def applicationPasses (t : Settings) (e : PostEntry) : Bool :=
  match e.item with
  | .side .left .refMode => !(e.value.toNat = RefMode.slope.code && t.sides.right.refMode = .slope)
  | .side .right .refMode => !(e.value.toNat = RefMode.slope.code && t.sides.left.refMode = .slope)
  | _ => true

/-- The entry of a port that is applied next: it leaves the queue, and the port's next application falls due 2 ms later at the
earliest (R152). -/
def popEntry (p : Port) (rest : List PostEntry) (s : State) : State :=
  s.modifyPort p fun t => { t with queue := rest, applyAfter := s.now + Config.applicationTime }

/-- An entry that passes: stored, SETTING_CHANGED on the other three ports, the port's last applied item set (R153). -/
def applyEntry (p : Port) (e : PostEntry) (s : State) : State :=
  (raiseOthers p .settingChanged (storeSetting e.item e.value s)).modifyPort p fun t =>
    { t with lastApplied := some e.item, lastClamped := e.clamped }

/-- An entry that fails its check: discarded, the port's last-rejected item set, SETTING_REJECTED on that port (R154). -/
def rejectEntry (p : Port) (e : PostEntry) (s : State) : State :=
  raiseOn (fun q => q = p) .settingRejected (s.modifyPort p fun t => { t with lastRejected := some e.item })

/-- APPLICATION (R153): with an empty queue nothing is applied (log entry 1). -/
def execApplication (p : Port) (s : State) : Host.Outcome State Fault Refusal :=
  .next
    (match (s.ports.get p).queue with
     | [] => s
     | e :: rest =>
       let t := popEntry p rest (s.reach (max e.due (s.ports.get p).applyAfter))
       if applicationPasses t.settings e then applyEntry p e t else rejectEntry p e t)

end Sys2Proof.Machine
end

