-- ==== Sys2Proof/Machine/Ports.lean ====
section
/-! DEFINITION. The station ports (chapter 10) and what stations read: READ with every status item of the item map (R176),
WRITE, PAGE, TAKE-ALERTS, ALERT-DONE, PORT-RESET, BAD_FRAME, presence. -/

namespace Sys2Proof.Machine

/-! ## Status items (R176) -/

/-- The value of an item: 16 bits, or 32 for the items R175 lists. -/
inductive ItemValue where
  | word (w : Word)
  | dword (d : DWord)
deriving DecidableEq, Repr

/-- The bytes of an item's value in an answer (R162, R175). -/
def ItemValue.bytes : ItemValue → List Byte
  | .word w => wordBytes w
  | .dword d => dwordBytes d

/-- A non-negative value of 16 bits. -/
def item16 (n : Nat) : ItemValue := .word (BitVec.ofNat 16 n)

/-- A signed value of 16 bits. -/
def itemInt (x : Int) : ItemValue := .word (BitVec.ofInt 16 x)

/-- A mark, flag or level. -/
def itemBool (b : Bool) : ItemValue := item16 (boolCode b)

/-- A value of 32 bits. -/
def item32 (n : Nat) : ItemValue := .dword (BitVec.ofNat 32 n)

/-- A set. -/
def itemSet {n : Nat} (z : BitVec n) : ItemValue := .word (z.setWidth 16)

/-- The time left of a timer, in tenths of a second, truncated. -/
def tenthsLeft (due now : Nat) : Nat := (due - now) / Config.ms 100

/-- The flags of a record as an item, placed as in word 9 of a stored record (log entry 9). -/
def flagsItem (f : RecordFlags) (partialClose restartClose pause drops : Bool) : ItemValue :=
  item16
    (boolCode partialClose * 32768 + boolCode restartClose * 16384 + boolCode pause * 8192 + boolCode drops * 4096
      + boolCode f.scannerLost * 2048 + boolCode f.converterSuspect * 1024 + boolCode f.travelSuspect * 512
      + boolCode f.widthHeld * 256)

/-- Items 144..162: the latest-record summary, 0 while there is none (R127, R132). -/
def summaryItem (h : Option Header) (i : Nat) : Option ItemValue :=
  let z : Header :=
    h.getD
      { sequence := 0, start := 0, length := 0, openTime := 0, duration := 0, width := 0, partialClose := false,
        restartClose := false, pauseFlag := false, dropsFlag := false,
        flags := { scannerLost := false, converterSuspect := false, travelSuspect := false, widthHeld := false },
        linesBinned := 0, speedMin := 0, speedMax := 0, leftState := .manual, leftMax := 0, rightState := .manual,
        rightMax := 0, starved := 0#12, faulted := 0#12, trips := 0, minimum := 0, linesRejected := 0 }
  match i with
  | 0 => some (item32 z.sequence)
  | 1 => some (item32 z.start)
  | 2 => some (item16 z.length)
  | 3 => some (item32 z.openTime)
  | 4 => some (item16 z.duration)
  | 5 => some (item16 z.width)
  | 6 => some (flagsItem z.flags z.partialClose z.restartClose z.pauseFlag z.dropsFlag)
  | 7 => some (item16 z.linesBinned)
  | 8 => some (item16 (z.speedMin / 4 * 4))
  | 9 => some (item16 (z.speedMax / 4 * 4))
  | 10 => some (item16 z.leftState.code)
  | 11 => some (item16 z.leftMax)
  | 12 => some (item16 z.rightState.code)
  | 13 => some (item16 z.rightMax)
  | 14 => some (itemSet z.starved)
  | 15 => some (itemSet z.faulted)
  | 16 => some (item16 z.trips)
  | 17 => some (item16 z.minimum)
  | 18 => some (item16 z.linesRejected)
  | _ => none

/-- The fields of the open record, 0 while no record is open (R132). -/
def openRecordItem (s : State) (i : Nat) : Option ItemValue :=
  match s.record.current with
  | none =>
    match i with
    | 0 => some (itemBool false)
    | 1 | 2 => some (item32 0)
    | 3 | 4 | 5 | 6 | 7 | 8 | 9 | 10 | 11 => some (item16 0)
    | _ => none
  | some r =>
    match i with
    | 0 => some (itemBool true)
    | 1 => some (item32 r.sequence)
    | 2 => some (item32 r.start)
    | 3 => some (item16 (s.travel.distance - r.start))
    | 4 => some (item16 r.width)
    | 5 => some (item16 r.columns)
    | 6 => some (flagsItem r.flags false false false false)
    | 7 => some (itemSet r.starved)
    | 8 => some (itemSet r.faulted)
    | 9 => some (item16 r.trips)
    | 10 => some (item16 s.scan.linesBinned)
    | 11 => some (item16 s.scan.linesRejected)
    | _ => none

/-- Items 168..184: the scan binning unit, the open record, the next sequence number (R132). -/
def scanItem (s : State) (i : Nat) : Option ItemValue :=
  match i with
  | 0 => some (itemBool s.scan.lost)
  | 1 =>
    some (match s.scan.previousLine with
      | none => itemInt (-1)
      | some n => item16 n.toNat)
  | 2 => some (item16 s.scan.validTotal)
  | 3 => some (item16 s.scan.rejectedTotal)
  | 16 => some (item32 s.record.nextSequence)
  | j => if 4 ≤ j ∧ j < 16 then openRecordItem s (j - 4) else none

/-- Items 192..201: the record store (R145). -/
def storeItem (s : State) (i : Nat) : Option ItemValue :=
  match i with
  | 0 => some (item32 s.store.base)
  | 1 => some (item32 s.store.cursor)
  | 2 => some (item32 s.store.newest)
  | 3 => some (item16 s.store.records.length)
  | 4 => some (item16 s.store.used)
  | 5 => some (item16 s.store.freeWords)
  | 6 => some (item16 s.store.droppedTotal)
  | 7 => some (item16 s.store.slot.code)
  | 8 =>
    some (item32 (match s.store.slot with
      | .empty => 0
      | .copying r _ => r.sequence
      | .ready r _ => r.sequence))
  | 9 =>
    some (item16 (match s.store.slot with
      | .ready _ due => tenthsLeft due s.now
      | .empty => 0
      | .copying _ _ => 0))
  | _ => none

/-- An item number kept by a port, −1 when none (R158). -/
def itemNumberItem : Option Setting → ItemValue
  | none => itemInt (-1)
  | some st => item16 st.number

/-- Eight items of a port (R158, 10.7). The ALERT line item reads 1 while the line is asserted and 0 while it is released, not
the electrical level of the pin, which is low when asserted (log entry 31, DESIGN CHOICE). -/
def portItem (t : PortState) (i : Nat) : Option ItemValue :=
  match i with
  | 0 => some (itemNumberItem t.lastApplied)
  | 1 => some (itemBool t.lastClamped)
  | 2 => some (itemNumberItem t.lastRejected)
  | 3 => some (item16 t.queue.length)
  | 4 => some (itemBool t.present)
  | 5 => some (itemBool t.inService)
  | 6 => some (itemBool t.line)
  | 7 => some (itemSet t.pendingSet)
  | _ => none

/-- Items 384..455: the columns of the open record, count and mean, 0 beyond its column count and while none is open (R132). -/
def columnItem (s : State) (c i : Nat) : Option ItemValue :=
  let k : Column :=
    if s.record.current.isSome then (s.scan.columns[c]?).getD { sum := 0, count := 0 } else { sum := 0, count := 0 }
  match i with
  | 0 => some (item16 k.count)
  | 1 => some (item16 k.mean)
  | _ => none

/-- Items 512..523: travel and width (R4, R5, R9, R10, R12). -/
def travelItem (t : Travel) (i : Nat) : Option ItemValue :=
  match i with
  | 0 => some (item32 t.distance)
  | 1 => some (item32 t.seconds)
  | 2 => some (item16 (min 32767 (t.reversePending / 100)))
  | 3 => some (item16 t.speed)
  | 4 => some (itemBool t.moving)
  | 5 => some (itemBool t.suspect)
  | 6 => some (item16 t.extL)
  | 7 => some (item16 t.extR)
  | 8 => some (item16 t.width)
  | 9 => some (itemBool t.widthHeld)
  | 10 => some (itemSet t.activity)
  | 11 => some (item16 (columnCount t))
  | _ => none

/-- Four items of a result entry (R32). -/
def resultItem (e : ResultEntry) (i : Nat) : Option ItemValue :=
  match i with
  | 0 => some (item16 e.count)
  | 1 => some (itemInt e.value)
  | 2 => some (item16 e.quality.code)
  | 3 => some (item16 e.round)
  | _ => none

/-- Three items of a class, and the converter condition after the three classes (R32). -/
def roundItem (q : Sequencer) (i : Nat) : Option ItemValue :=
  if i = 9 then some (itemBool q.conditionSuspect)
  else
    let r := if i < 3 then q.rounds.fast else if i < 6 then q.rounds.medium else q.rounds.slow
    if i < 9 then
      match i % 3 with
      | 0 => some (item16 r.counter)
      | 1 => some (itemBool r.late)
      | _ => some (item16 r.lateCount)
    else none

/-- Eleven items of a side (R58); an absent target reads 0. -/
def sideItem (u : SideUnit) (i : Nat) : Option ItemValue :=
  match i with
  | 0 => some (item16 u.state.code)
  | 1 => some (item16 (u.target.getD 0))
  | 2 => some (itemInt u.lastReading)
  | 3 => some (item16 u.validHeads)
  | 4 => some (itemInt u.lastDeviation)
  | 5 => some (item16 u.raise)
  | 6 => some (item16 u.lower)
  | 7 => some (itemBool u.jog.isSome)
  | 8 => some (item16 u.goodRun)
  | 9 => some (itemBool u.stale)
  | 10 => some (item16 u.stepMax)
  | _ => none

/-- Twelve items of a drive (R74). The time left of a prefill run reads in tenths of a second, 0 while none runs (log entry 25,
DESIGN CHOICE). -/
def driveItem (u : DriveUnit) (now : Nat) (i : Nat) : Option ItemValue :=
  match i with
  | 0 => some (item16 u.state.code)
  | 1 => some (item16 u.command)
  | 2 => some (item16 u.previous)
  | 3 => some (itemBool u.openLoop)
  | 4 => some (item16 u.overcurrentCount)
  | 5 => some (item16 u.notRunningCount)
  | 6 => some (item16 u.runawayCount)
  | 7 => some (item16 u.cause.code)
  | 8 => some (itemBool (u.state = .prefill))
  | 9 => some (item16 (if u.returnAuto then DriveState.auto.code else DriveState.off.code))
  | 10 =>
    some (item16 (match u.prefillDue with
      | none => 0
      | some due => tenthsLeft due now))
  | 11 => some (item16 u.lastGoodCurrent)
  | _ => none

/-- Items 768..785: the heat grant unit (R94). A history entry that is not there reads a free value (log entry 8). -/
def heatItem (h : HeatUnit) (pins : Pins) (i : Nat) : Option ItemValue :=
  match i with
  | 0 => some (itemBool h.running)
  | 1 => some (item16 h.cycle)
  | 2 => some (item16 h.slice)
  | 3 => some (itemBool h.tripped)
  | 4 => some (item16 h.derate)
  | 5 => some (item16 h.effective)
  | 6 => some (item16 h.history.length)
  | 7 =>
    some (match h.history[0]? with
      | none => .word (Config.absentHistoryEntry 0)
      | some n => item16 n)
  | 8 =>
    some (match h.history[1]? with
      | none => .word (Config.absentHistoryEntry 1)
      | some n => item16 n)
  | 9 => some (itemBool (pins.trip.getLsbD 0))
  | 10 => some (itemBool (pins.trip.getLsbD 1))
  | 11 => some (itemBool (pins.trip.getLsbD 2))
  | 12 => some (item16 h.budget)
  | 13 => some (item16 h.welded)
  | 14 => some (itemInt h.available)
  | 15 => some (itemSet h.grants)
  | 16 => some (item16 h.grantedPower)
  | 17 => some (item16 h.feedLoad)
  | _ => none

/-- A temperature item, −32768 when absent (R113). -/
def temperatureItem (t : Option Int) : ItemValue := itemInt (t.getD (-32768))

/-- Thirteen items of a zone (R113). -/
def zoneItem (z : ZoneUnit) (sense : Bool) (i : Nat) : Option ItemValue :=
  match i with
  | 0 => some (item16 z.state.code)
  | 1 => some (item16 z.demand)
  | 2 => some (item16 z.remaining)
  | 3 => some (item16 z.granted)
  | 4 => some (item16 z.starved)
  | 5 => some (item16 z.boost)
  | 6 => some (temperatureItem z.usable)
  | 7 => some (temperatureItem z.lastGood)
  | 8 => some (item16 z.missed)
  | 9 => some (item16 z.openCount)
  | 10 => some (item16 z.weldCount)
  | 11 => some (itemBool z.output)
  | 12 => some (itemBool sense)
  | _ => none

/-- The value of a read-only item by its number (R176); none for a number that names no read-only item. -/
def statusAt (s : State) (n : Nat) : Option ItemValue :=
  if n = 9 then some (item16 10)
  else if 144 ≤ n ∧ n < 163 then summaryItem s.record.summary (n - 144)
  else if 168 ≤ n ∧ n < 185 then scanItem s (n - 168)
  else if 192 ≤ n ∧ n < 202 then storeItem s (n - 192)
  else if 208 ≤ n ∧ n < 240 then
    (portOfIndex? ((n - 208) / 8)).bind fun p => portItem (s.ports.get p) ((n - 208) % 8)
  else if 384 ≤ n ∧ n < 456 then columnItem s ((n - 384) / 2) ((n - 384) % 2)
  else if 512 ≤ n ∧ n < 524 then travelItem s.travel (n - 512)
  else if h : 528 ≤ n ∧ n < 664 then
    resultItem s.seq.results[(⟨(n - 528) / 4, by omega⟩ : Fin 34)] ((n - 528) % 4)
  else if 664 ≤ n ∧ n < 674 then roundItem s.seq (n - 664)
  else if 680 ≤ n ∧ n < 691 then sideItem s.lev.left (n - 680)
  else if 691 ≤ n ∧ n < 702 then sideItem s.lev.right (n - 691)
  else if h : 704 ≤ n ∧ n < 752 then
    driveItem (s.feed.get (driveOfIndex ⟨(n - 704) / 12, by omega⟩)) s.now ((n - 704) % 12)
  else if n = 752 then some (item16 s.heat.feedLoad)
  else if 768 ≤ n ∧ n < 786 then heatItem s.heat s.pins (n - 768)
  else if h : 800 ≤ n ∧ n < 956 then
    zoneItem s.zones[(⟨(n - 800) / 13, by omega⟩ : Fin 12)] (s.pins.sense.getLsbD ((n - 800) / 13)) ((n - 800) % 13)
  else none

/-- The value of an item, a setting as stored or a status item as its block holds it; none for a number that names no item
(R164, R176). -/
def itemAt (s : State) (n : Nat) : Option ItemValue :=
  match settingAt n with
  | some st => some (.word (s.settings.read st))
  | none => statusAt s n

/-! ## What an exchange sends (R160, R175) -/

/-- The bytes on data-out over an exchange of `clocked` bytes, the first `request` of them the request: 0xFF while the request and
the two turnaround bytes are clocked in, then the answer, then 0x00 until select rises (R160, R175). -/
def exchangeDataOut (request clocked : Nat) (a : Answer) : List Byte :=
  (List.replicate (request + 2) 0xFF#8 ++ a.frame ++ List.replicate clocked 0x00#8).take clocked

/-! ## READ, WRITE, PAGE (R163 to R165) -/

/-- Whether a port's own queue holds a write of an item (R164). -/
def pendingWrite (s : State) (p : Port) (n : Nat) : Bool := (s.ports.get p).queue.any fun e => e.item.number = n

/-- READ (R164): the item number is formed with the page before the take clears it. -/
def execRead (p : Port) (item : Byte) (pins : Pins) (s : State) : Host.Outcome State Fault Refusal :=
  let n := itemNumber s p item
  let t := (takeRequest p s).withPins pins
  .next
    (match itemAt t n with
     | none => answerCode p .noItem t
     | some v => if pendingWrite t p n then answerCode p .retry t else answer p { code := .ok, data := v.bytes } t)

/-- WRITE (R150, R165). -/
def execWrite (p : Port) (item : Byte) (value : Word) (s : State) : Host.Outcome State Fault Refusal :=
  let n := itemNumber s p item
  let t := takeRequest p s
  .next
    (match settingAt n with
     | none => answerCode p (if (statusAt t n).isSome then .notAllowed else .noItem) t
     | some st =>
       match judgeWrite t p st value with
       | (a, none) => answer p a t
       | (a, some e) => answer p a (postEntry p e t))

/-- PAGE (R163): above 3 refused, and the page it found cleared. -/
def execPage (p : Port) (value : Byte) (s : State) : Host.Outcome State Fault Refusal :=
  let t := takeRequest p s
  .next
    (if h : value.toNat < 4 then
      answerCode p .ok (t.modifyPort p fun u => { u with page := some ⟨value.toNat, h⟩ })
    else answerCode p .refused t)

/-! ## Alerts (R170, R171) -/

/-- TAKE_ALERTS (R170): the enabled pending kinds answered and removed, the in-service flag set. -/
def execTakeAlerts (p : Port) (s : State) : Host.Outcome State Fault Refusal :=
  let t := takeRequest p s
  let mask := t.settings.masks.get p
  let taken := (t.ports.get p).pendingSet &&& mask
  .next
    (answer p { code := .ok, data := wordBytes taken }
      (t.modifyPort p fun u =>
        { u with pendingSet := u.pendingSet &&& ~~~mask, inService := true }.reline mask))

/-- ALERT_DONE (R171). -/
def execAlertDone (p : Port) (s : State) : Host.Outcome State Fault Refusal :=
  let t := takeRequest p s
  .next
    (answerCode p .ok (t.modifyPort p fun u => { u with inService := false }.reline (t.settings.masks.get p)))

/-! ## PORT-RESET, BAD_FRAME, presence (R161, R168, R172) -/

/-- A port after its PORT-RESET (R172, R174): presence, presence timer and the answer under way are kept. -/
def PortState.reset (mask : AlertSet) (u : PortState) : PortState :=
  { u with page := none, queue := [], applyAfter := 0, lastApplied := none, lastClamped := false, lastRejected := none,
           pendingSet := 0#16, inService := false }.reline mask

/-- PORT_RESET (R172): on port D the held slot is emptied too. -/
def execPortReset (p : Port) (s : State) : Host.Outcome State Fault Refusal :=
  let t := takeRequest p s
  let u := t.modifyPort p (PortState.reset (t.settings.masks.get p))
  .next (answerCode p .ok (if p = .d then u.withStore u.store.emptySlot else u))

/-- BAD_FRAME (R161, R167): not taken; the presence timer restarts when the check byte passed. -/
def execBadFrame (p : Port) (checkPassed : Bool) (s : State) : Host.Outcome State Fault Refusal :=
  .next (answerCode p .badFrame (if checkPassed then heard p s else s))

/-- The side whose station is at a port (R41). -/
def sideOfStation : Port → Option Side
  | .l => some .left
  | .r => some .right
  | .m => none
  | .d => none

/-- A port's change to ABSENT (R168): STATION_ABSENT on the other three, and the side of port L or R dropped, its jog ended
(R41). -/
def goAbsent (p : Port) (s : State) : State :=
  let t := raiseOthers p .stationAbsent (s.modifyPort p fun u => { u with present := false, presenceDue := none })
  match sideOfStation p with
  | none => t
  | some sd => dropSideAndJog sd t

/-- PRESENCE_TIMEOUT (R167, R168): on a port that is ABSENT already nothing happens (log entry 1). -/
def execPresenceTimeout (p : Port) (s : State) : Host.Outcome State Fault Refusal :=
  .next
    (if (s.ports.get p).present then goAbsent p (s.reachOpt (s.ports.get p).presenceDue) else s)

end Sys2Proof.Machine
end

