-- ==== Sys2Proof/Machine/Resets.lean ====
section
/-! DEFINITION. POWER_ON and RESTART, over every block (R17, R33, R34, R59, R75, R96, R115, R125, R133, R146, R159, R173,
R174). -/

namespace Sys2Proof.Machine

/-- POWER_ON (R33 and the power-on columns of the reset tables): every block in its power-on state. The waiting commands and
the input pins are outside the part; the count of free values taken is the model's own. -/
def execPowerOn (s : State) : Host.Outcome State Fault Refusal :=
  .next (((State.reset.withPending s.pending).withPins s.pins).withFree s.free)

/-- The travel and width unit at RESTART (R17). -/
def Travel.restarted (t : Travel) : Travel :=
  { t with
    speed := 0
    moving := false
    windowMm := 0
    suspect := false
    plausibleRun := 0
    encoderAcc := 0
    radarAcc := 0
    reverseMark := false }

/-- A side at RESTART, after its drop or the end of its jog (R59). -/
def SideUnit.restarted (u : SideUnit) : SideUnit := { u with goodRun := 0, stale := false }

/-- The levelling unit at RESTART (R59): sides to MANUAL, those in AUTO or LOST raised, pulses ended. -/
def restartLevelling (s : State) : State :=
  let t := dropSideAndJog .right (dropSideAndJog .left s)
  t.withLev (t.lev.map fun _ u => u.restarted)

/-- The timers RESTART starts anew (R6, R17, R34, R59); the seconds count and the silence timer run on. -/
def Timers.restarted (now : Nat) (t : Timers) : Timers :=
  { t with
    speed := now + Config.speedWindow
    plausibility := now + Config.plausibilityWindow
    period := Timers.periodsFrom now
    sample := some (now + Config.sampleTime) }

/-- RESTART at every block (R173): the sides first, so that the record it closes carries MANUAL (R57), then the record, and the
heating cycle last. -/
def restartPart (s : State) : State :=
  let s1 := restartLevelling s
  let s2 := s1.withFeed (s1.feed.map fun _ u => u.restarted)
  let s3 := closeRecord false true s2
  let s4 := s3.withTravel s3.travel.restarted
  let s5 := s4.withSeq (Sequencer.started s4.now s4.seq.conditionSuspect)
  restartHeating (s5.withTimers (Timers.restarted s5.now s5.timers))

/-- RESTART (R173): taken from M, NOT_ALLOWED from the others. -/
def execRestart (p : Port) (s : State) : Host.Outcome State Fault Refusal :=
  let t := takeRequest p s
  .next (if p = .m then answerCode p .ok (restartPart t) else answerCode p .notAllowed t)

end Sys2Proof.Machine
end

