-- ==== Sys2Proof/Machine/Scan.lean ====
section
/-! DEFINITION. The scanner link and the binning of lines (R117 to R119, R178). -/

namespace Sys2Proof.Machine

/-- A line as judged at the end of a run: the line number and the 64 pixels of its words. -/
structure ScanLine where
  number : Byte
  pixels : List Word
deriving DecidableEq, Repr

/-- The line a run of bytes carries, when it has 66 words and its check word is right; a run with an odd number of bytes or a
byte without its stop bit counts as a run of another length (R117, R178). -/
def lineOfRun (bytes : List Byte) (framed : Bool) : Option ScanLine :=
  if framed then
    match wordsOfBytes bytes with
    | none => none
    | some ws =>
      if ws.length = 66 && ws.getLast? == some (checkWord (ws.take 65)) then
        match ws with
        | [] => none
        | w :: rest => some { number := w.extractLsb' 0 8, pixels := rest.take 64 }
      else none
  else none

/-- The line of a run that is valid for a previous line number: it does not repeat it (R117). -/
def validLine (previous : Option Byte) (bytes : List Byte) (framed : Bool) : Option ScanLine :=
  match lineOfRun bytes framed with
  | none => none
  | some line => if previous = some line.number then none else some line

/-- A column whose count has reached 65535, which takes no further pixel (R119). -/
def Column.isFull (c : Column) : Bool := 65535 ≤ c.count

/-- A value added to a column (R119). -/
def Column.add (v : Nat) (c : Column) : Column :=
  if c.isFull then c else { sum := c.sum + v, count := c.count + 1 }

/-- One pixel binned: ignored at 65535 or outside the mat of the open record, otherwise limited to 3000 and taken into its
column and the record minimum, unless the column is full (R119, log entry 26). -/
def binPixel (settings : RecordSettings) (x0 : Int) (n : Nat) (c : Scan) (p : Nat) (w : Word) : Scan :=
  let x := settings.origin + p * settings.pitch
  let k := ((x - x0) / 250).toNat
  if w = 0xFFFF#16 ∨ x < x0 ∨ x0 + 250 * n ≤ x then c
  else if (c.columns[k]?).any Column.isFull then c
  else
    let v := min 3000 w.toNat
    { c with
      columns := c.columns.modify k (Column.add v)
      minimum := some (match c.minimum with
        | none => v
        | some m => min m v) }

/-- A line binned whole: lines binned counted, then each pixel in turn (R119). -/
def binLine (settings : RecordSettings) (r : OpenRecord) (line : ScanLine) (c : Scan) : Scan :=
  line.pixels.zipIdx.foldl (fun acc (w, p) => binPixel settings r.x0 r.columns acc p w)
    { c with linesBinned := satAdd 255 c.linesBinned 1 }

/-- The scan binning unit after a rejected line (R117). -/
def rejectLine (isOpen : Bool) (c : Scan) : Scan :=
  { c with
    rejectedTotal := (c.rejectedTotal + 1) % 65536
    linesRejected := if isOpen then satAdd 15 c.linesRejected 1 else c.linesRejected }

/-- The scan binning unit after a valid line, before its binning (R117, R118). -/
def acceptLine (line : ScanLine) (c : Scan) : Scan :=
  { c with validTotal := (c.validTotal + 1) % 65536, previousLine := some line.number, lost := false }

/-- SCANNER_LINE (R117 to R119): the end of a run, judged as a line. A valid line is binned while a record is open and the
paver moves. The command carries the whole run, so it is judged also while the reception is IDLE, with no SCANNER_RUN_START
before it (log entry 32, DESIGN CHOICE). -/
def execScannerLine (bytes : List Byte) (framed : Bool) (s : State) : Host.Outcome State Fault Refusal :=
  let s1 := s.withScan { s.scan with receiving := false }
  .next
    (match validLine s1.scan.previousLine bytes framed with
     | none => s1.withScan (rejectLine s1.record.current.isSome s1.scan)
     | some line =>
       let s2 :=
         (s1.withScan (acceptLine line s1.scan)).withTimers
           { s1.timers with silence := some (s1.now + Config.silenceTime) }
       match s2.record.current with
       | none => s2
       | some r => if s2.travel.moving then s2.withScan (binLine s2.settings.record r line s2.scan) else s2)

/-- SCANNER_RUN_START (R178): the link is RECEIVING. -/
def execScannerRunStart (s : State) : Host.Outcome State Fault Refusal :=
  .next (s.withScan { s.scan with receiving := true })

/-- SCANNER_SILENCE_EXPIRY (R118): scanner-lost set, raised and reported; while it is set the timer does not expire again (log
entry 1). -/
def execScannerSilenceExpiry (s : State) : Host.Outcome State Fault Refusal :=
  .next
    (if s.scan.lost then s
     else
       let t := s.reachOpt s.timers.silence
       reportFlags (fun f => { f with scannerLost := true })
         (raiseAll .scannerLost
           ((t.withScan { t.scan with lost := true }).withTimers { t.timers with silence := none })))

end Sys2Proof.Machine
end

