-- ==== Sys2Proof/Machine/Levelling.lean ====
section
/-! DEFINITION. The levelling unit (chapter 3): the reference and the reading, the sample of a FAST round, the side requests
ENGAGE, DISENGAGE, SET-ZERO and JOG, the jog and sample timers. -/

namespace Sys2Proof.Machine

/-! ## Stage 1: reference and reading (R50 to R52) -/

/-- A head is valid when its entry is GOOD and its value lies in 1..9999 (R50). -/
def validHead (e : ResultEntry) : Bool := e.quality = .good && 1 ≤ e.value && e.value ≤ 9999

/-- The entry of a head of a side. -/
def headEntry (s : State) (sd : Side) (h : Fin 4) : ResultEntry := s.seq.results[headChannel sd h]

/-- The valid selected heads of a side with their values, in order of head number (R50). -/
def validSelected (s : State) (sd : Side) : List (Fin 4 × Nat) :=
  ((List.finRange 4).filter fun h =>
      (s.settings.sides.get sd).heads.getLsbD h.val && validHead (headEntry s sd h)).map
    fun h => (h, (headEntry s sd h).value.toNat)

/-- The scaled deviation |v × h_i − S| of a head value among v values of sum S (R51). -/
def scaledDeviation (v sum h : Nat) : Nat := ((v * h : Int) - sum).natAbs

/-- The head with the largest scaled deviation; of several, the one that stands last, so the higher number (R51). -/
def rejectedHead (v sum : Nat) : List (Fin 4 × Nat) → Option (Fin 4 × Nat)
  | [] => none
  | x :: rest =>
    match rejectedHead v sum rest with
    | none => some x
    | some y => if scaledDeviation v sum y.2 < scaledDeviation v sum x.2 then some x else some y

/-- The heads a BEAM reading averages: with three or four, all but the rejected one (R51). -/
def beamHeads (hs : List (Fin 4 × Nat)) : List (Fin 4 × Nat) :=
  if 3 ≤ hs.length then
    match rejectedHead hs.length (hs.map Prod.snd).sum hs with
    | none => hs
    | some x => hs.filter fun y => y.1 != x.1
  else hs

/-- The BEAM reading of two or more valid heads (R51). -/
def beamReading (hs : List (Fin 4 × Nat)) : Nat :=
  divHalfUp ((beamHeads hs).map Prod.snd).sum (beamHeads hs).length

/-- The lowest-numbered selected head (R50). -/
def lowestHead (heads : BitVec 4) : Option (Fin 4) := (List.finRange 4).find? fun h => heads.getLsbD h.val

/-- What a side's reference gives as the result table stands: the reading, or none when it is unusable, and the number of
valid selected heads found (R50 to R52). -/
def judgeReference (s : State) (sd : Side) : Option Int × Nat :=
  match (s.settings.sides.get sd).refMode with
  | .beam =>
    let hs := validSelected s sd
    (if 2 ≤ hs.length then some (beamReading hs) else none, hs.length)
  | .single =>
    match lowestHead (s.settings.sides.get sd).heads with
    | none => (none, 0)
    | some h => if validHead (headEntry s sd h) then (some (headEntry s sd h).value, 1) else (none, 0)
  | .slope =>
    let e := s.seq.results[(8 : Fin 34)]
    (if e.quality = .good then some (clampInt (-1000) 1000 e.value) else none, 0)

/-! ## Stage 2: the deviation (R53) -/

/-- The deviation e of a reading. A side in BEAM or SINGLE that holds no target counts from 0; no run reaches that (log entry
17). -/
def deviation (s : State) (sd : Side) (reading : Int) : Int :=
  let t := s.settings.sides.get sd
  match t.refMode with
  | .beam | .single => reading - (((s.lev.get sd).target.getD 0 : Nat) + t.offset)
  | .slope =>
    let h := divHalfAway ((reading - t.slopeTarget) * s.travel.width) 1000
    match sd with
    | .left => h
    | .right => -h

/-! ## Stage 3: the duty (R54) -/

/-- The duty of a deviation in AUTO, outside the conditions of mode and movement (R54). -/
def dutyOf (t : SideSettings) (e : Int) : Nat :=
  if e.natAbs ≤ t.deadBand then 0
  else min t.maxDuty (t.minDuty + (e.natAbs - t.deadBand) * (1000 - t.minDuty) / t.propBand)

/-- The direction of a deviation (R54). -/
def directionOf (e : Int) : Direction := if 0 < e then .lower else .raise

/-- The valves set by a sample in AUTO: duty 0 unless the mode is PAVE and the paver moves (R54, R55). -/
def SideUnit.driveFor (u : SideUnit) (t : SideSettings) (levels : Bool) (e : Int) : SideUnit :=
  u.drive (directionOf e) (if levels then dutyOf t e else 0)

/-! ## The sample (R39, R40, R49, R57) -/

/-- The facts every usable sample leaves (R51 to R53, R57). -/
def SideUnit.measured (u : SideUnit) (reading : Int) (heads : Nat) (e : Int) : SideUnit :=
  { u with lastReading := reading, validHeads := heads, lastDeviation := e,
           stepMax := min 16383 (max u.stepMax e.natAbs) }

/-- A sample that finds the reference usable (R40, R54): in LOST the tenth in a row returns the side to AUTO. -/
def SideUnit.usableSample (u : SideUnit) (t : SideSettings) (levels : Bool) (reading : Int) (heads : Nat) (e : Int) :
    SideUnit :=
  let v := u.measured reading heads e
  match u.state with
  | .manual => u
  | .auto => v.driveFor t levels e
  | .lost =>
    if 10 ≤ u.goodRun + 1 then { v with state := .auto, goodRun := 0 }.driveFor t levels e
    else { v with goodRun := u.goodRun + 1 }

/-- A sample that finds the reference unusable (R39, R40, R50). -/
def SideUnit.unusableSample (u : SideUnit) (heads : Nat) : SideUnit :=
  match u.state with
  | .manual => u
  | .auto => { u.valvesZero with state := .lost, goodRun := 0, validHeads := heads }
  | .lost => { u with goodRun := 0, validHeads := heads }

/-- The sample of one side, with SIDE_x_DROPPED when it goes LOST (R39, R49). -/
def sampleSide (sd : Side) (s : State) : State :=
  let u := s.lev.get sd
  match judgeReference s sd with
  | (none, heads) =>
    raiseAllIf (u.state = .auto) (droppedKind sd) (s.modifySide sd fun v => v.unusableSample heads)
  | (some reading, heads) =>
    s.modifySide sd fun v =>
      v.usableSample (s.settings.sides.get sd) (s.settings.mode = .pave && s.travel.moving) reading heads
        (deviation s sd reading)

/-- A FAST round completion at the levelling unit: the sample timer restarts, the stale marks clear, the sides take their
samples (R49, R56). -/
def levellingRound (s : State) : State :=
  let t :=
    (s.withLev (s.lev.map fun _ u => { u with stale := false })).withTimers
      { s.timers with sample := some (s.now + Config.sampleTime) }
  sampleSide .right (sampleSide .left t)

/-- SAMPLE_TIMER_EXPIRY (R56): without a running sample timer nothing happens (log entry 1). -/
def execSampleTimerExpiry (s : State) : Host.Outcome State Fault Refusal :=
  .next
    (match s.timers.sample with
     | none => s
     | some due =>
       let t := autoValvesZero (s.reach due)
       (t.withLev (t.lev.map fun _ u => { u with stale := true })).withTimers { t.timers with sample := none })

/-- JOG_TIMER_EXPIRY (R48): the pulse ends; without a pulse nothing happens. -/
def execJogTimerExpiry (sd : Side) (s : State) : Host.Outcome State Fault Refusal :=
  .next
    (match (s.lev.get sd).jog with
     | none => s
     | some j => (s.reach j.due).modifySide sd SideUnit.endJog)

/-! ## Side requests (R42) -/

/-- Whether a station may make a side's requests: M, or the side's own (R42). -/
def mayCommandSide (p : Port) (sd : Side) : Bool := p = .m || p = stationOfSide sd

/-- A side request taken: the named side must exist, then the station must be one that may make it (R42). -/
def sideRequest (p : Port) (item : Byte) (act : Side → State → State) (s : State) : State :=
  let t := takeRequest p s
  match sideOfByte item with
  | none => answerCode p .refused t
  | some sd => if mayCommandSide p sd then act sd t else answerCode p .notAllowed t

/-- ENGAGE and JOG need the side's own port PRESENT and a mode other than TRAVEL (R43, R47). -/
def sideMayRun (s : State) (sd : Side) : Bool :=
  s.settings.mode != .travel && (s.ports.get (stationOfSide sd)).present

/-- The side after an ENGAGE answered OK, with the reading of its reference (R43). -/
def SideUnit.engage (u : SideUnit) (mode : RefMode) (reading : Int) : SideUnit :=
  match u.state with
  | .manual =>
    { u.valvesZero with
      state := .auto
      jog := none
      stale := false
      goodRun := 0
      target := if mode = .slope then u.target else some (u.target.getD reading.toNat) }
  | .lost => { u.valvesZero with state := .auto, goodRun := 0 }
  | .auto => u

/-- ENGAGE at a side it may name (R43). -/
def engageSide (p : Port) (sd : Side) (s : State) : State :=
  match (judgeReference s sd).1 with
  | none => answerCode p .notNow s
  | some reading =>
    if sideMayRun s sd then
      answerCode p .ok (s.modifySide sd fun u => u.engage (s.settings.sides.get sd).refMode reading)
    else answerCode p .notNow s

/-- ENGAGE (R43). -/
def execEngage (p : Port) (item : Byte) (s : State) : Host.Outcome State Fault Refusal :=
  .next (sideRequest p item (engageSide p) s)

/-- DISENGAGE at a side it may name (R44). -/
def disengageSide (p : Port) (sd : Side) (s : State) : State :=
  answerCode p .ok (s.modifySide sd fun u => if u.engaged then u.toManual else u.endJog)

/-- DISENGAGE (R44). -/
def execDisengage (p : Port) (item : Byte) (s : State) : Host.Outcome State Fault Refusal :=
  .next (sideRequest p item (disengageSide p) s)

/-- The settings after the direct store of SET-ZERO: the slope target in SLOPE, the offset at 0 otherwise (R46). -/
def SideSettings.zeroed (t : SideSettings) (reading : Int) : SideSettings :=
  match t.refMode with
  | .slope => { t with slopeTarget := reading }
  | .beam | .single => { t with offset := 0 }

/-- SET-ZERO at a side it may name (R45, R46): the reading becomes the target, or the slope target; SETTING_CHANGED when the
stored item's value changes. -/
def setZeroSide (p : Port) (sd : Side) (s : State) : State :=
  match (judgeReference s sd).1 with
  | none => answerCode p .notNow s
  | some reading =>
    let t := s.settings.sides.get sd
    let s1 := s.withSettings { s.settings with sides := s.settings.sides.set sd (t.zeroed reading) }
    let s2 := if t.refMode = .slope then s1 else s1.modifySide sd fun u => { u with target := some reading.toNat }
    let s3 := if t.zeroed reading = t then s2 else raiseOthers p .settingChanged s2
    answer p { code := .ok, data := wordBytes (BitVec.ofInt 16 reading) } s3

/-- SET_ZERO (R45, R46). -/
def execSetZero (p : Port) (item : Byte) (s : State) : Host.Outcome State Fault Refusal :=
  .next (sideRequest p item (setZeroSide p) s)

/-- A JOG taken on a side in MANUAL: with duty 0 a running pulse ends, otherwise a pulse of 250 ms starts or is replaced
(R47). -/
def SideUnit.startJog (u : SideUnit) (dir : Direction) (duty due : Nat) : SideUnit :=
  if duty = 0 then { u.valvesZero with jog := none }
  else { u.drive dir duty with jog := some { direction := dir, duty := duty, due := due } }

/-- The duty of a JOG: the signed value clamped to 0..maxDuty as stored (R47, R175). -/
def jogDuty (t : SideSettings) (duty : Word) : Nat := (clampInt 0 t.maxDuty duty.toInt).toNat

/-- JOG at a side it may name (R47). -/
def jogSide (p : Port) (dir : Direction) (duty : Word) (sd : Side) (s : State) : State :=
  if (s.lev.get sd).state = .manual && sideMayRun s sd then
    answerCode p .ok
      (s.modifySide sd fun u => u.startJog dir (jogDuty (s.settings.sides.get sd) duty) (s.now + Config.jogTime))
  else answerCode p .notNow s

/-- JOG (R47): its first check covers the side and the direction. -/
def execJog (p : Port) (item : Byte) (direction : Byte) (duty : Word) (s : State) : Host.Outcome State Fault Refusal :=
  .next
    (match directionOfByte direction with
     | none => answerCode p .refused (takeRequest p s)
     | some dir => sideRequest p item (jogSide p dir duty) s)

end Sys2Proof.Machine
end

