-- ==== Sys2Proof/Machine/Travel.lean ====
section
/-! DEFINITION. The travel and width unit (chapter 1): encoder and radar pulses, the seconds count, the speed and plausibility
windows, the width update of a MEDIUM round. -/

namespace Sys2Proof.Machine

/-! ## Pulses (R2, R3, R7) -/

/-- The hundredths a forward pulse of worth `q` leaves over after paying off the reverse-pending count (R2). -/
def pulseLeft (q reversePending : Nat) : Nat := q - reversePending

/-- The mm a forward pulse carries into the distance count: what the remainder gives, as far as the count takes it before it
saturates (R2, log entry 11). -/
def carriedMm (q : Nat) (t : Travel) : Nat :=
  min Config.max32 (t.distance + (t.remainder + pulseLeft q t.reversePending) / 100) - t.distance

/-- A forward pulse of worth `q` at the travel unit (R2). -/
def Travel.forward (q : Nat) (t : Travel) : Travel :=
  { t with
    reversePending := t.reversePending - q
    remainder := (t.remainder + pulseLeft q t.reversePending) % 100
    distance := t.distance + carriedMm q t
    windowMm := t.windowMm + carriedMm q t
    encoderAcc := satAdd Config.max32 t.encoderAcc q }

/-- FORWARD_PULSE (R2, R123): the pulse, and the close by step length at a carry. -/
def execForwardPulse (s : State) : Host.Outcome State Fault Refusal :=
  let q := s.settings.travelPulse
  let t := s.withTravel (s.travel.forward q)
  .next (if 0 < carriedMm q s.travel then closeByStep t else t)

/-- REVERSE_PULSE (R3). -/
def execReversePulse (s : State) : Host.Outcome State Fault Refusal :=
  .next
    (s.withTravel
      { s.travel with
        reversePending := satAdd Config.max32 s.travel.reversePending s.settings.travelPulse
        reverseMark := true })

/-- RADAR_PULSE (R7). -/
def execRadarPulse (s : State) : Host.Outcome State Fault Refusal :=
  .next
    (s.withTravel { s.travel with radarAcc := satAdd Config.max32 s.travel.radarAcc s.settings.radarPulse })

/-! ## Seconds count (R4) -/

/-- SECONDS_COUNT_TICK (R4): from 4 294 967 295 the count wraps to 0. The next second counts from the tick, also from one taken
past its deadline (log entry 30, DESIGN CHOICE). -/
def execSecondsCountTick (s : State) : Host.Outcome State Fault Refusal :=
  let t := s.reach s.timers.second
  .next
    ((t.withTravel { t.travel with seconds := (t.travel.seconds + 1) % (Config.max32 + 1) }).withTimers
      { t.timers with second := t.now + Config.ms 1000 })

/-! ## Speed window (R5, R6) -/

/-- The speed of a window that carried `mm` (R5). -/
def windowSpeed (mm : Nat) : Nat := min 32767 (4 * mm)

/-- The travel unit at a speed window expiry (R5). -/
def Travel.endWindow (t : Travel) : Travel :=
  { t with speed := windowSpeed t.windowMm, moving := 5 ≤ windowSpeed t.windowMm, windowMm := 0 }

/-- What the feed unit does at a window that leaves the paver moving: every prefill run ends (R72). -/
def prefillWindow (s : State) : State :=
  if s.travel.moving then s.withFeed (s.feed.map fun _ u => u.endPrefill) else s

/-- What the levelling unit does at a window that leaves the paver not moving (R6). -/
def valvesWindow (s : State) : State := if s.travel.moving then s else autoValvesZero s

/-- SPEED_WINDOW_EXPIRY (R5, R6). -/
def execSpeedWindowExpiry (s : State) : Host.Outcome State Fault Refusal :=
  let t := s.reach s.timers.speed
  let u :=
    (t.withTravel t.travel.endWindow).withTimers { t.timers with speed := t.now + Config.speedWindow }
  .next (valvesWindow (prefillWindow (recordWindow u)))

/-! ## Plausibility window (R8, R9) -/

/-- The three outcomes of a plausibility window (R8). -/
inductive Plausibility where
  | notJudged
  | implausible
  | plausible
deriving DecidableEq, Repr

/-- The judgement of a window with encoder distance `de` and radar distance `dr`, in whole mm (R8). -/
def judgeWindow (reverseMark : Bool) (de dr : Nat) : Plausibility :=
  if reverseMark || max de dr < 50 then .notJudged
  else if 15 * max de dr < ((de : Int) - dr).natAbs * 100 then .implausible
  else .plausible

/-- The flag and the plausible run after an outcome (R9). -/
def Travel.judged (t : Travel) : Plausibility → Travel
  | .notJudged => t
  | .implausible => { t with plausibleRun := 0, suspect := true }
  | .plausible =>
    if t.suspect then
      if 3 ≤ t.plausibleRun + 1 then { t with plausibleRun := 0, suspect := false }
      else { t with plausibleRun := t.plausibleRun + 1 }
    else t

/-- PLAUSIBILITY_WINDOW_EXPIRY (R8, R9): the accumulators keep the remainders, the mark clears, a flag newly set is raised and
reported. -/
def execPlausibilityWindowExpiry (s : State) : Host.Outcome State Fault Refusal :=
  let t := s.reach s.timers.plausibility
  let outcome := judgeWindow t.travel.reverseMark (t.travel.encoderAcc / 100) (t.travel.radarAcc / 100)
  let next : Travel :=
    { t.travel with
      encoderAcc := t.travel.encoderAcc % 100
      radarAcc := t.travel.radarAcc % 100
      reverseMark := false }
  let u :=
    (t.withTravel (next.judged outcome)).withTimers
      { t.timers with plausibility := t.now + Config.plausibilityWindow }
  .next
    (if outcome = .implausible && !s.travel.suspect then
      reportFlags (fun f => { f with travelSuspect := true }) (raiseAll .travelSuspect u)
    else u)

/-! ## Width (R10) -/

/-- The extension a result entry gives: its value clamped to 0..3000 when GOOD, the last good one otherwise (R10). -/
def extensionOf (e : ResultEntry) (held : Nat) : Nat :=
  if e.quality = .good then (clampInt 0 3000 e.value).toNat else held

/-- The travel unit after it takes the entries of channels 9 and 10 (R10). -/
def Travel.updateWidth (left right : ResultEntry) (t : Travel) : Travel :=
  let extL := extensionOf left t.extL
  let extR := extensionOf right t.extR
  { t with
    extL := extL
    extR := extR
    heldL := left.quality != .good
    heldR := right.quality != .good
    widthHeld := left.quality != .good || right.quality != .good
    width := 3000 + extL + extR
    activity := activityMap extL extR }

/-- The width update of a MEDIUM round completion, with its report to the record unit (R10, R121). -/
def widthUpdate (s : State) : State :=
  let t := s.withTravel (s.travel.updateWidth s.seq.results[(9 : Fin 34)] s.seq.results[(10 : Fin 34)])
  if t.travel.widthHeld then reportFlags (fun f => { f with widthHeld := true }) t else t

end Sys2Proof.Machine
end

