-- ==== Sys2Proof/Machine/Sequencer.lean ====
section
/-! DEFINITION. The measurement sequencer (chapter 2): rounds and the conversion queue, the converter, result entries, round
completions and their consumers, the reference check. -/

namespace Sys2Proof.Machine

/-! ## Rounds and the queue (R19, R20) -/

/-- The queue after every channel of a class has joined it. Queue order is increasing channel number, since the classes take
the channels in that order, and no channel stands twice (R20). -/
def joinClass (queue : List (Fin 34)) (cls : SampleClass) : List (Fin 34) :=
  (List.finRange 34).filter fun c => queue.contains c || classOf c = cls

/-- The channel a converter settles or converts (R19). -/
def Converter.held : Converter → Option (Fin 34)
  | .idle => none
  | .settling c _ _ => some c
  | .converting c _ _ => some c
  | .recovering _ => none

/-- Whether a channel of the class is queued, settling or converting (R19). -/
def classBusy (q : Sequencer) (cls : SampleClass) : Bool :=
  q.queue.any (fun c => classOf c = cls) || q.converter.held.any (fun c => classOf c = cls)

/-- The round number after: from 65535 to 1 (R19). -/
def nextRound (n : Nat) : Nat := if n = 65535 then 1 else n + 1

/-- The round state of a class at its period expiry (R19). -/
def RoundState.begin (busy : Bool) (r : RoundState) : RoundState :=
  { counter := nextRound r.counter, late := busy, lateCount := if busy then satAdd 65535 r.lateCount 1 else r.lateCount }

/-- CLASS_PERIOD_EXPIRY (R19). The next period counts from the expiry. An expiry taken when the time base is already past its
deadline happens at the take, so the next period then leaves the 20, 100 or 1000 ms grid of its reset (log entry 30, DESIGN
CHOICE). -/
def execClassPeriodExpiry (cls : SampleClass) (s : State) : Host.Outcome State Fault Refusal :=
  let t := s.reach (s.timers.period.get cls)
  .next
    ((t.withSeq
        { t.seq with
          rounds := t.seq.rounds.set cls ((t.seq.rounds.get cls).begin (classBusy t.seq cls))
          queue := joinClass t.seq.queue cls }).withTimers
      { t.timers with period := t.timers.period.set cls (t.now + Config.classPeriod cls) })

/-! ## The converter (R21, R22) -/

/-- CONVERTER_TAKE (R21): an IDLE converter takes the head of the queue; otherwise nothing happens (log entry 1). -/
def execConverterTake (s : State) : Host.Outcome State Fault Refusal :=
  .next
    (match s.seq.converter, s.seq.queue with
     | .idle, c :: rest =>
       s.withSeq
         { s.seq with
           queue := rest
           converter :=
             .settling c (s.seq.rounds.get (classOf c)).counter (s.now + Config.settleTime (classOf c)) }
     | .idle, [] => s
     | .settling _ _ _, _ => s
     | .converting _ _ _, _ => s
     | .recovering _, _ => s)

/-- SETTLE_END (R21): SETTLING becomes CONVERTING for 20 µs; otherwise nothing happens (log entry 1). -/
def execSettleEnd (s : State) : Host.Outcome State Fault Refusal :=
  .next
    (match s.seq.converter with
     | .settling c tag due =>
       let t := s.reach due
       t.withSeq { t.seq with converter := .converting c tag (t.now + Config.convertTime) }
     | .idle => s
     | .converting _ _ _ => s
     | .recovering _ => s)

/-- OVERLOAD_RECOVERY_END (R22): RECOVERING becomes IDLE; otherwise nothing happens (log entry 1). -/
def execOverloadRecoveryEnd (s : State) : Host.Outcome State Fault Refusal :=
  .next
    (match s.seq.converter with
     | .recovering due => (s.reach due).withSeq { s.seq with converter := .idle }
     | .idle => s
     | .settling _ _ _ => s
     | .converting _ _ _ => s)

/-! ## Result entries (R26, R28, R29) -/

/-- The engineering value of a count (R26): Zv when the two counts are equal, otherwise the scaled count added to Zv and
clamped to the range of Zv and Fv. -/
def engineeringValue (cal : Calibration) (count : Nat) : Int :=
  if cal.fullCount = cal.zeroCount then cal.zeroValue
  else
    clampInt (min cal.zeroValue cal.fullValue) (max cal.zeroValue cal.fullValue)
      (cal.zeroValue
        + divHalfAway (((count : Int) - cal.zeroCount) * (cal.fullValue - cal.zeroValue))
            ((cal.fullCount : Int) - cal.zeroCount))

/-- The quality of a machine channel's count: the first of BROKEN, SHORT, SUSPECT that holds, else GOOD (R28). -/
def machineQuality (cal : Calibration) (conditionSuspect : Bool) (count : Nat) : Quality :=
  if count < 590 || cal.zeroCount = cal.fullCount then .broken
  else if 3440 < count then .short
  else if conditionSuspect then .suspect
  else .good

/-- Whether a reference channel's count meets its limit: zero 31, full 32, mid 33 (R29, R30). -/
def referenceMeets (c : Fin 34) (count : Nat) : Bool :=
  if c.val = 31 then count ≤ 20
  else if c.val = 32 then 4075 ≤ count
  else 2032 ≤ count && count ≤ 2064

/-- The result entry a completion writes (R23): value and quality by R26 and R28 for channels 0 to 30, value 0 and quality by
R29 for the references. -/
def resultEntry (s : State) (c : Fin 34) (tag count : Nat) : ResultEntry :=
  if h : c.val < 31 then
    let cal := s.settings.cals[(⟨c.val, h⟩ : Fin 31)]
    { count := count, value := engineeringValue cal count, quality := machineQuality cal s.seq.conditionSuspect count,
      round := tag }
  else { count := count, value := 0, quality := if referenceMeets c count then .good else .suspect, round := tag }

/-! ## The reference check (R30, R31) -/

/-- Whether the check passes on the entries of channels 31 to 33 (R30). -/
def referenceCheck (q : Sequencer) : Bool :=
  referenceMeets 31 q.results[(31 : Fin 34)].count && referenceMeets 32 q.results[(32 : Fin 34)].count
    && referenceMeets 33 q.results[(33 : Fin 34)].count

/-- The reference check of a SLOW round completion: the condition set, raised and reported when it turns SUSPECT (R31). -/
def slowRound (s : State) : State :=
  let pass := referenceCheck s.seq
  let t := s.withSeq { s.seq with conditionSuspect := !pass }
  if !pass && !s.seq.conditionSuspect then
    reportFlags (fun f => { f with converterSuspect := true }) (raiseAll .converterSuspect t)
  else t

/-! ## Round completions (R24, R25) -/

/-- A MEDIUM round completion at its two consumers, in either order (R25): which is first is a free value (log entry 6). -/
def mediumRound (s : State) : State :=
  let t := s.withFree (s.free + 1)
  if Config.widthUpdateFirst s.free then feedRound (widthUpdate t) else widthUpdate (feedRound t)

/-- A round completion handed to the blocks that consume the class (R25). -/
def roundCompletion (cls : SampleClass) (s : State) : State :=
  match cls with
  | .fast => levellingRound s
  | .medium => mediumRound s
  | .slow => slowRound s

/-- Whether a completion with this channel and tag completes its class's current round (R24). -/
def completesRound (q : Sequencer) (c : Fin 34) (tag : Nat) : Bool :=
  !(q.queue.any fun d => classOf d = classOf c) && tag = (q.rounds.get (classOf c)).counter

/-- The converter after a completion: RECOVERING above 3440, IDLE otherwise (R22). -/
def afterConversion (count now : Nat) : Converter :=
  if 3440 < count then .recovering (now + Config.recoveryTime) else .idle

/-- The state after the entry of a completed conversion is written and the converter's hold ended (R22, R23). -/
def writeResult (s : State) (c : Fin 34) (tag count : Nat) : State :=
  s.withSeq
    { s.seq with results := s.seq.results.set c (resultEntry s c tag count), converter := afterConversion count s.now }

/-- CONVERSION_COMPLETION (R22 to R25): without a conversion in hand nothing happens (log entry 1). -/
def execConversionCompletion (count : BitVec 12) (pins : Pins) (s : State) : Host.Outcome State Fault Refusal :=
  .next
    (match s.seq.converter with
     | .converting c tag due =>
       let t := writeResult ((s.reach due).withPins pins) c tag count.toNat
       if completesRound t.seq c tag then roundCompletion (classOf c) t else t
     | .idle => s
     | .settling _ _ _ => s
     | .recovering _ => s)

end Sys2Proof.Machine
end

