-- ==== Sys2Proof/Machine/Dispatch.lean ====
section
/-! DEFINITION. The meaning of each command: one arm per row of spec/opcode_table.json. -/

namespace Sys2Proof.Machine

def exec (i : Instr) (s : State) : Host.Outcome State Fault Refusal :=
  match i with
  | .powerOn => Sys2Proof.Machine.execPowerOn s
  | .forwardPulse => Sys2Proof.Machine.execForwardPulse s
  | .reversePulse => Sys2Proof.Machine.execReversePulse s
  | .radarPulse => Sys2Proof.Machine.execRadarPulse s
  | .secondsCountTick => Sys2Proof.Machine.execSecondsCountTick s
  | .speedWindowExpiry => Sys2Proof.Machine.execSpeedWindowExpiry s
  | .plausibilityWindowExpiry => Sys2Proof.Machine.execPlausibilityWindowExpiry s
  | .classPeriodExpiry cls => Sys2Proof.Machine.execClassPeriodExpiry cls s
  | .converterTake => Sys2Proof.Machine.execConverterTake s
  | .settleEnd => Sys2Proof.Machine.execSettleEnd s
  | .conversionCompletion count pins => Sys2Proof.Machine.execConversionCompletion count pins s
  | .overloadRecoveryEnd => Sys2Proof.Machine.execOverloadRecoveryEnd s
  | .sampleTimerExpiry => Sys2Proof.Machine.execSampleTimerExpiry s
  | .jogTimerExpiry side => Sys2Proof.Machine.execJogTimerExpiry side s
  | .prefillTimerExpiry drive => Sys2Proof.Machine.execPrefillTimerExpiry drive s
  | .scannerLine bytes framed => Sys2Proof.Machine.execScannerLine bytes framed s
  | .scannerSilenceExpiry => Sys2Proof.Machine.execScannerSilenceExpiry s
  | .sliceStart => Sys2Proof.Machine.execSliceStart s
  | .heatingWaitEnd => Sys2Proof.Machine.execHeatingWaitEnd s
  | .readback pins => Sys2Proof.Machine.execReadback pins s
  | .trip phase => Sys2Proof.Machine.execTrip phase s
  | .read port item pins => Sys2Proof.Machine.execRead port item pins s
  | .write port item value => Sys2Proof.Machine.execWrite port item value s
  | .page port value => Sys2Proof.Machine.execPage port value s
  | .takeAlerts port => Sys2Proof.Machine.execTakeAlerts port s
  | .alertDone port => Sys2Proof.Machine.execAlertDone port s
  | .engage port item => Sys2Proof.Machine.execEngage port item s
  | .disengage port item => Sys2Proof.Machine.execDisengage port item s
  | .setZero port item => Sys2Proof.Machine.execSetZero port item s
  | .jog port item direction duty => Sys2Proof.Machine.execJog port item direction duty s
  | .prefill port item => Sys2Proof.Machine.execPrefill port item s
  | .clearFault port item pins => Sys2Proof.Machine.execClearFault port item pins s
  | .fetch port => Sys2Proof.Machine.execFetch port s
  | .release port sequence => Sys2Proof.Machine.execRelease port sequence s
  | .rewind port => Sys2Proof.Machine.execRewind port s
  | .restart port => Sys2Proof.Machine.execRestart port s
  | .portReset port => Sys2Proof.Machine.execPortReset port s
  | .badFrame port checkPassed => Sys2Proof.Machine.execBadFrame port checkPassed s
  | .copyCompletion => Sys2Proof.Machine.execCopyCompletion s
  | .heldAnswerExpiry => Sys2Proof.Machine.execHeldAnswerExpiry s
  | .application port => Sys2Proof.Machine.execApplication port s
  | .presenceTimeout port => Sys2Proof.Machine.execPresenceTimeout port s
  | .scannerRunStart => Sys2Proof.Machine.execScannerRunStart s

end Sys2Proof.Machine
end

