-- ==== Sys2Proof/Machine/Timing.lean ====
section
/-! DEFINITION. The part's own events while no command waits: which timer of the internal time base has run out, and what the
passing of one tick does (0.5.3; log entries 2, 4 and 7). -/

namespace Sys2Proof.Machine

/-- The event the converter makes next, with its time (R21, R22): an IDLE converter takes the head of a queue that is not
empty at once. -/
def converterEvent (s : State) : Option (Nat × Instr) :=
  match s.seq.converter with
  | .idle => if s.seq.queue.isEmpty then none else some (s.now, .converterTake)
  | .settling _ _ due => some (due, .settleEnd)
  | .converting _ _ due => some (due, .conversionCompletion (Config.sampledCount s.free) (Config.sampledPins s.free))
  | .recovering due => some (due, .overloadRecoveryEnd)

/-- The event of the held slot, with its time (R139). -/
def slotEvent (s : State) : Option (Nat × Instr) :=
  match s.store.slot with
  | .empty => none
  | .copying _ due => some (due, .copyCompletion)
  | .ready _ due => some (due, .heldAnswerExpiry)

/-- The application of a port's head entry, with its time (R152). -/
def applicationEvent (s : State) (p : Port) : Option (Nat × Instr) :=
  match (s.ports.get p).queue with
  | [] => none
  | e :: _ => some (max e.due (s.ports.get p).applyAfter, .application p)

/-- A timer's expiry, with its time, while it runs. -/
def timerEvent (due : Option Nat) (c : Instr) : Option (Nat × Instr) := due.map fun t => (t, c)

/-- The part's own events that are to come, each with its time. Of several that fall together the first of this list is taken
first: the spec leaves the order open (log entry 2). -/
def ownEvents (s : State) : List (Option (Nat × Instr)) :=
  [ converterEvent s,
    some (s.timers.period.fast, .classPeriodExpiry .fast),
    some (s.timers.period.medium, .classPeriodExpiry .medium),
    some (s.timers.period.slow, .classPeriodExpiry .slow),
    some (s.timers.second, .secondsCountTick),
    some (s.timers.speed, .speedWindowExpiry),
    some (s.timers.plausibility, .plausibilityWindowExpiry),
    timerEvent s.timers.sample .sampleTimerExpiry,
    timerEvent (s.lev.left.jog.map JogPulse.due) (.jogTimerExpiry .left),
    timerEvent (s.lev.right.jog.map JogPulse.due) (.jogTimerExpiry .right),
    timerEvent s.feed.convL.prefillDue (.prefillTimerExpiry .convL),
    timerEvent s.feed.convR.prefillDue (.prefillTimerExpiry .convR),
    timerEvent s.feed.augL.prefillDue (.prefillTimerExpiry .augL),
    timerEvent s.feed.augR.prefillDue (.prefillTimerExpiry .augR),
    timerEvent s.timers.silence .scannerSilenceExpiry,
    timerEvent s.timers.slice .sliceStart,
    timerEvent s.timers.heatingWait .heatingWaitEnd,
    timerEvent s.timers.readback (.readback (Config.sampledPins s.free)),
    timerEvent s.ports.m.presenceDue (.presenceTimeout .m),
    timerEvent s.ports.l.presenceDue (.presenceTimeout .l),
    timerEvent s.ports.r.presenceDue (.presenceTimeout .r),
    timerEvent s.ports.d.presenceDue (.presenceTimeout .d),
    slotEvent s,
    applicationEvent s .m,
    applicationEvent s .l,
    applicationEvent s .r,
    applicationEvent s .d ]

/-- An event whose time has come. -/
def dueNow (now : Nat) : Option (Nat × Instr) → Option Instr
  | none => none
  | some (t, c) => if t ≤ now then some c else none

/-- The next of the part's own events that is due, if any. -/
def dueCommand (s : State) : Option Instr := (ownEvents s).findSome? (dueNow s.now)

/-- One tick of 10 µs passes. -/
def passTick (s : State) : State := s.withNow (s.now + 1)

end Sys2Proof.Machine
end

