-- ==== Sys2Proof/Machine/Step.lean ====
section
/-! DEFINITION. One step: the command at the front of the queue; on an empty queue the part's own next event, or one tick of
the time base (log entry 2). -/

namespace Sys2Proof.Machine

/-- The step on an empty queue: the part's own event that is due, with a fresh free value for the inputs it samples, or one tick
of time. -/
def idleStep (s : State) : Host.Outcome State Fault Refusal :=
  match dueCommand s with
  | some c => exec c (s.withFree (s.free + 1))
  | none => .next (passTick s)

/-- One step of the machine. -/
def step (s : State) : Host.Outcome State Fault Refusal :=
  match s.pending with
  | c :: rest => exec c (s.withPending rest)
  | [] => idleStep s

/-- The state with the command a table word spells put at the front of its queue; unchanged where the word spells none (log
entry 16). -/
def State.withFetchWord (s : State) (nbits w : Nat) : State :=
  match decodeTableWord nbits w with
  | some c => s.withPending (c :: s.pending)
  | none => s

end Sys2Proof.Machine
end

