-- ==== Sys2Proof/Safety.lean ====
section
/-! DEFINITION. What counts as a safe run: which parts of the state a step may touch, and the laws that every step keeps. Each
law gathers what the chapters state of one block whatever its history; together they are `Lawful`. -/

namespace Sys2Proof.Machine

/-! ## Frames -/

/-- The parts of the state, one for each field of `State`. -/
inductive Part where
  | travel
  | seq
  | lev
  | feed
  | heat
  | zones
  | scan
  | record
  | store
  | settings
  | ports
  | timers
  | pins
  | now
  | free
  | pending
deriving DecidableEq, Repr

/-- A part stands in `t` as it stood in `s`. -/
def Part.kept (s t : State) : Part → Prop
  | .travel => t.travel = s.travel
  | .seq => t.seq = s.seq
  | .lev => t.lev = s.lev
  | .feed => t.feed = s.feed
  | .heat => t.heat = s.heat
  | .zones => t.zones = s.zones
  | .scan => t.scan = s.scan
  | .record => t.record = s.record
  | .store => t.store = s.store
  | .settings => t.settings = s.settings
  | .ports => t.ports = s.ports
  | .timers => t.timers = s.timers
  | .pins => t.pins = s.pins
  | .now => t.now = s.now
  | .free => t.free = s.free
  | .pending => t.pending = s.pending

/-- From `s` to `t` nothing changes but, at most, the parts listed. -/
def changesOnly (parts : List Part) (s t : State) : Prop := ∀ part, part ∉ parts → part.kept s t

/-- The port of a station as a taken request leaves it that does nothing to the port but answer: the page cleared, the port
PRESENT with its presence timer at 1.0 s, the answer given (R163, R167). -/
def portAnswered (s : State) (p : Port) (a : Answer) : PortState :=
  { s.ports.get p with page := none, present := true, presenceDue := some (s.now + 100000), answer := some a }

/-- From `s` to `t` the request taken on port `p` is answered `a`, and no port is touched beyond that. -/
def answeredOnly (s t : State) (p : Port) (a : Answer) : Prop := t.ports = s.ports.set p (portAnswered s p a)

/-- The bit of an alert kind in a pending set or a mask (R176). -/
def alertBit (k : AlertKind) : AlertSet := BitVec.ofNat 16 (2 ^ k.bit)

/-- A port after a kind was raised on it: the kind pending, the ALERT line asserted while the port is not in service and an
enabled kind is pending (R169). -/
def portRaised (mask : AlertSet) (k : AlertKind) (p : PortState) : PortState :=
  { p with
    pendingSet := p.pendingSet ||| alertBit k
    line := !p.inService && decide ((p.pendingSet ||| alertBit k) &&& mask ≠ 0#16) }

/-- From `s` to `t` a kind is raised on the ports that `on` picks, and no port is touched beyond that. -/
def raisedOnly (s t : State) (on : Port → Prop) (k : AlertKind) : Prop :=
  ∀ q, (on q → t.ports.get q = portRaised (s.settings.masks.get q) k (s.ports.get q)) ∧
    (¬on q → t.ports.get q = s.ports.get q)

/-! ## Time (0.5.3) -/

/-- The deadline of one of the part's own events while its timer runs, as the chapters time it: the class periods (R19), the
seconds count (R4), the speed and plausibility windows (R5, R8), the converter's settle time, conversion and recovery (R21,
R22), the sample timer (R56), a jog pulse (R48), a prefill run (R72), the scanner silence (R118), the slices (R76), the
power-on wait (R78), the readback (R106), the presence timer of a PRESENT port (R167), the copy and the held answer (R139,
R140), and the head entry of a post queue (R152). A command without a timer of its own, and one whose timer does not run, has
none. -/
def ownDeadline (s : State) : Instr → Option Nat
  | .classPeriodExpiry cls => some (s.timers.period.get cls)
  | .secondsCountTick => some s.timers.second
  | .speedWindowExpiry => some s.timers.speed
  | .plausibilityWindowExpiry => some s.timers.plausibility
  | .settleEnd =>
    match s.seq.converter with
    | .settling _ _ due => some due
    | .idle | .converting _ _ _ | .recovering _ => none
  | .conversionCompletion _ _ =>
    match s.seq.converter with
    | .converting _ _ due => some due
    | .idle | .settling _ _ _ | .recovering _ => none
  | .overloadRecoveryEnd =>
    match s.seq.converter with
    | .recovering due => some due
    | .idle | .settling _ _ _ | .converting _ _ _ => none
  | .sampleTimerExpiry => s.timers.sample
  | .jogTimerExpiry sd => (s.lev.get sd).jog.map JogPulse.due
  | .prefillTimerExpiry d => if (s.feed.get d).state = .prefill then (s.feed.get d).prefillDue else none
  | .scannerSilenceExpiry => if s.scan.lost = true then none else s.timers.silence
  | .sliceStart => if s.heat.running = true then s.timers.slice else none
  | .heatingWaitEnd => s.timers.heatingWait
  | .readback _ => if s.heat.running = true then s.timers.readback else none
  | .copyCompletion =>
    match s.store.slot with
    | .copying _ due => some due
    | .empty | .ready _ _ => none
  | .heldAnswerExpiry =>
    match s.store.slot with
    | .ready _ due => some due
    | .empty | .copying _ _ => none
  | .application p =>
    match (s.ports.get p).queue with
    | [] => none
    | e :: _ => some (max e.due (s.ports.get p).applyAfter)
  | .presenceTimeout p => if (s.ports.get p).present = true then (s.ports.get p).presenceDue else none
  | .powerOn | .forwardPulse | .reversePulse | .radarPulse | .converterTake | .scannerLine _ _ | .trip _ | .read _ _ _
  | .write _ _ _ | .page _ _ | .takeAlerts _ | .alertDone _ | .engage _ _ | .disengage _ _ | .setZero _ _ | .jog _ _ _ _
  | .prefill _ _ | .clearFault _ _ _ | .fetch _ | .release _ _ | .rewind _ | .restart _ | .portReset _ | .badFrame _ _
  | .scannerRunStart => none

/-! ## Ports (chapter 10) -/

/-- Every port: its line is asserted exactly while it is not in service and an enabled kind is pending (R169), its presence
timer runs exactly while it is PRESENT (R166, R167), its post queue holds at most four entries (R152). -/
def PortLaw (s : State) : Prop :=
  ∀ p, (s.ports.get p).line = (!(s.ports.get p).inService
        && decide ((s.ports.get p).pendingSet &&& s.settings.masks.get p ≠ 0#16))
    ∧ (s.ports.get p).present = (s.ports.get p).presenceDue.isSome
    ∧ (s.ports.get p).queue.length ≤ 4

/-! ## Settings (chapter 9) -/

/-- The items of a side in their ranges (3.1); maxDuty is never below minDuty (R36). -/
def SideSettings.inRange (t : SideSettings) : Prop :=
  t.heads ≠ 0#4 ∧ (-500 ≤ t.offset ∧ t.offset ≤ 500) ∧ t.deadBand ≤ 50 ∧ (10 ≤ t.propBand ∧ t.propBand ≤ 200)
    ∧ t.minDuty ≤ 400 ∧ (t.minDuty ≤ t.maxDuty ∧ t.maxDuty ≤ 1000) ∧ (-1000 ≤ t.slopeTarget ∧ t.slopeTarget ≤ 1000)

/-- The items of a zone in their ranges (6.1). -/
def ZoneSettings.inRange (t : ZoneSettings) : Prop :=
  t.setpoint ≤ 1800 ∧ (10 ≤ t.band ∧ t.band ≤ 500) ∧ (10 ≤ t.rated ∧ t.rated ≤ 500)

/-- The items of a drive in their ranges (4.1). -/
def DriveSettings.inRange (t : DriveSettings) : Prop :=
  t.manual ≤ 1000 ∧ t.target ≤ 600 ∧ t.ratio ≤ 500 ∧ t.gain ≤ 200 ∧ (10 ≤ t.currentLimit ∧ t.currentLimit ≤ 1000)
    ∧ (10 ≤ t.rampStep ∧ t.rampStep ≤ 200)

/-- The items of group 8 in their ranges (7.6). -/
def RecordSettings.inRange (t : RecordSettings) : Prop :=
  (250 ≤ t.stepLength ∧ t.stepLength ≤ 5000) ∧ t.coldLimit ≤ 3000 ∧ (-6000 ≤ t.origin ∧ t.origin ≤ 6000)
    ∧ (10 ≤ t.pitch ∧ t.pitch ≤ 300)

/-- A channel's calibration items in their ranges (R18). -/
def Calibration.inRange (t : Calibration) : Prop :=
  t.zeroCount ≤ 4095 ∧ t.fullCount ≤ 4095 ∧ (-32768 ≤ t.zeroValue ∧ t.zeroValue ≤ 32767)
    ∧ (-32768 ≤ t.fullValue ∧ t.fullValue ≤ 32767)

/-- A posted entry carries a value its item can hold: a defined one, and within the item's range; the lower bound of maxDuty
is settled at the application (R36, R150, R151). -/
def PostEntry.valid (e : PostEntry) : Prop :=
  e.item.defined e.value = true ∧
    ∀ range, e.item.range Settings.powerOn = some range →
      rawNumber range e.value ≤ range.2 ∧ ((∃ sd, e.item = .side sd .maxDuty) ∨ range.1 ≤ rawNumber range e.value)

/-- Every setting lies in its range (R151), the posted ones too, and no more than one side has reference mode SLOPE (R37). -/
def SettingsLaw (s : State) : Prop :=
  s.settings.capacity ≤ 6000 ∧ s.settings.reserve ≤ 1000
    ∧ (100 ≤ s.settings.busVoltage ∧ s.settings.busVoltage ≤ 800)
    ∧ s.settings.guard &&& 0xFE01#16 = 0#16
    ∧ (∀ sd, (s.settings.sides.get sd).inRange)
    ∧ (∀ k : Fin 12, s.settings.zones[k].inRange)
    ∧ (∀ d, (s.settings.drives.get d).inRange)
    ∧ s.settings.record.inRange
    ∧ (∀ c : Fin 31, s.settings.cals[c].inRange)
    ∧ (1 ≤ s.settings.travelPulse ∧ s.settings.travelPulse ≤ 2000)
    ∧ (1 ≤ s.settings.radarPulse ∧ s.settings.radarPulse ≤ 2000)
    ∧ ¬(s.settings.sides.left.refMode = .slope ∧ s.settings.sides.right.refMode = .slope)
    ∧ ∀ p, ∀ e ∈ (s.ports.get p).queue, e.valid

/-! ## Travel and width (chapter 1) -/

/-- The counts in their ranges, the moving flag as the speed gives it (R5), the width and the activity map as the extensions
give them (R10, R11). -/
def TravelLaw (s : State) : Prop :=
  s.travel.distance ≤ 4294967295 ∧ s.travel.remainder < 100 ∧ s.travel.reversePending ≤ 4294967295
    ∧ s.travel.encoderAcc ≤ 4294967295 ∧ s.travel.radarAcc ≤ 4294967295 ∧ s.travel.seconds ≤ 4294967295
    ∧ s.travel.speed ≤ 32767 ∧ s.travel.moving = decide (5 ≤ s.travel.speed)
    ∧ s.travel.plausibleRun < 3 ∧ (s.travel.suspect = false → s.travel.plausibleRun = 0)
    ∧ s.travel.extL ≤ 3000 ∧ s.travel.extR ≤ 3000 ∧ s.travel.width = 3000 + s.travel.extL + s.travel.extR
    ∧ s.travel.widthHeld = (s.travel.heldL || s.travel.heldR)
    ∧ s.travel.activity = activityMap s.travel.extL s.travel.extR

/-! ## Measurement sequencer (chapter 2) -/

/-- A channel has been, or will yet be, converted in the current round of its class: it waits, or the converter holds it with
the current round's tag, or its entry carries the current round (R19, R20, R24). -/
def Sequencer.served (q : Sequencer) (c : Fin 34) : Prop :=
  c ∈ q.queue
    ∨ (∃ due, q.converter = .settling c (q.rounds.get (classOf c)).counter due
        ∨ q.converter = .converting c (q.rounds.get (classOf c)).counter due)
    ∨ (q.converter.held ≠ some c ∧ q.results[c].round = (q.rounds.get (classOf c)).counter)

/-- The queue stands in increasing channel number without a repeat (R20), round numbers lie in 1..65535 and LATE counts in
0..65535 (R19), counts in 0..4095, and no channel is forgotten by its class's current round. -/
def SequencerLaw (s : State) : Prop :=
  s.seq.queue.Pairwise (· < ·)
    ∧ (∀ cls, 1 ≤ (s.seq.rounds.get cls).counter ∧ (s.seq.rounds.get cls).counter ≤ 65535
        ∧ (s.seq.rounds.get cls).lateCount ≤ 65535)
    ∧ (∀ c : Fin 34, s.seq.results[c].count ≤ 4095)
    ∧ ∀ c, s.seq.served c

/-! ## Levelling (chapter 3) -/

/-- The valves of a side (R55): never both driven; 0 in LOST; in AUTO a duty within minDuty..maxDuty, and 0 unless the mode is
PAVE and the paver moves; in MANUAL 0 but for a running jog pulse, which drives its own valve; a jog pulse in MANUAL only. -/
def SideUnit.valvesLawful (u : SideUnit) (t : SideSettings) (levels : Bool) : Prop :=
  (u.raise = 0 ∨ u.lower = 0) ∧ u.raise ≤ 1000 ∧ u.lower ≤ 1000
    ∧ (u.state = .lost → u.raise = 0 ∧ u.lower = 0 ∧ u.jog = none)
    ∧ (u.state = .auto → u.jog = none
        ∧ (u.raise ≠ 0 → levels = true ∧ t.minDuty ≤ u.raise ∧ u.raise ≤ t.maxDuty)
        ∧ (u.lower ≠ 0 → levels = true ∧ t.minDuty ≤ u.lower ∧ u.lower ≤ t.maxDuty))
    ∧ (u.state = .manual →
        match u.jog with
        | none => u.raise = 0 ∧ u.lower = 0
        | some j =>
          match j.direction with
          | .raise => u.raise = j.duty ∧ u.lower = 0
          | .lower => u.raise = 0 ∧ u.lower = j.duty)

/-- Both sides: the valves as R55 has them, the good-sample run below 10, the step maximum within 14 bits (R57). -/
def LevellingLaw (s : State) : Prop :=
  ∀ sd, (s.lev.get sd).valvesLawful (s.settings.sides.get sd) (s.settings.mode = .pave && s.travel.moving)
    ∧ (s.lev.get sd).goodRun < 10 ∧ (s.lev.get sd).stepMax ≤ 16383

/-- Both sides, what they measured (3.2.1): a target lies in 1..9999, and a side in AUTO or LOST in BEAM or SINGLE has one (R53);
valid heads, last reading and last deviation lie in the ranges the samples can give (R50 to R53). -/
def ReadingLaw (s : State) : Prop :=
  ∀ sd, (∀ n, (s.lev.get sd).target = some n → 1 ≤ n ∧ n ≤ 9999)
    ∧ ((s.lev.get sd).state ≠ .manual → (s.settings.sides.get sd).refMode ≠ .slope → (s.lev.get sd).target ≠ none)
    ∧ (s.lev.get sd).validHeads ≤ 4
    ∧ (-1000 ≤ (s.lev.get sd).lastReading ∧ (s.lev.get sd).lastReading ≤ 9999)
    ∧ (-18000 ≤ (s.lev.get sd).lastDeviation ∧ (s.lev.get sd).lastDeviation ≤ 18000)

/-! ## Feed (chapter 4) -/

/-- Every drive: its command in 0..1000, 0 in OFF, in FAULT and in TRAVEL (R66); fault counts below 3, and 0 in FAULT (R68,
R69); the prefill timer runs in PREFILL only (R72). -/
def FeedLaw (s : State) : Prop :=
  (∀ d, (s.feed.get d).command ≤ 1000 ∧ (s.feed.get d).previous ≤ 1000 ∧ (s.feed.get d).lastGoodCurrent ≤ 1000
    ∧ ((s.feed.get d).state = .off ∨ (s.feed.get d).state = .fault → (s.feed.get d).command = 0)
    ∧ (s.settings.mode = .travel → (s.feed.get d).state = .off ∨ (s.feed.get d).state = .fault)
    ∧ (s.feed.get d).overcurrentCount < 3 ∧ (s.feed.get d).notRunningCount < 3 ∧ (s.feed.get d).runawayCount < 3
    ∧ ((s.feed.get d).state = .fault → (s.feed.get d).overcurrentCount = 0 ∧ (s.feed.get d).notRunningCount = 0
        ∧ (s.feed.get d).runawayCount = 0)
    ∧ (s.feed.get d).prefillDue.isSome = decide ((s.feed.get d).state = .prefill))
    ∧ s.heat.feedLoad ≤ 3200

/-! ## Heating (chapters 5 and 6) -/

/-- The capacity and its derating: the step one of six values, the effective capacity formed from it (R80); the trip history
holds at most two cycles, none twice, none ten or more behind (R77, R91); cycle and slice numbers in range (R76). -/
def CapacityLaw (s : State) : Prop :=
  s.heat.derate ∈ [100, 90, 80, 70, 60, 50]
    ∧ s.heat.effective = s.settings.capacity * s.heat.derate / 100
    ∧ s.heat.history.length ≤ 2 ∧ s.heat.history.Nodup
    ∧ (∀ e ∈ s.heat.history, e < 65536 ∧ (s.heat.cycle + 65536 - e) % 65536 < 10)
    ∧ s.heat.cycle < 65536 ∧ s.heat.slice < 32

/-- The grants and the outputs: a zone is in OFF exactly while the heating is STOPPED (R98); no grants while STOPPED or in a
tripped cycle (R78, R90); an output is on only for a zone granted and in HEATING (R105); the granted power and the welded power
stay within the budget unless nothing is granted (R86). -/
def GrantLaw (s : State) : Prop :=
  (∀ k : Fin 12, s.zones[k].state = .off ↔ s.heat.running = false)
    ∧ (s.heat.running = false → s.heat.grants = 0#12)
    ∧ (s.heat.tripped = true → s.heat.grants = 0#12)
    ∧ (∀ k : Fin 12, s.zones[k].output = true → s.heat.grants.getLsbD k.val = true ∧ s.zones[k].state = .heating)
    ∧ (s.heat.grants = 0#12 → s.heat.grantedPower = 0)
    ∧ (s.heat.grants ≠ 0#12 → s.heat.grantedPower + s.heat.welded ≤ s.heat.budget)

/-- Every zone: granted and remaining slices make up its demand (R103), and its counts lie in their ranges (6.2.1). -/
def DemandLaw (s : State) : Prop :=
  ∀ k : Fin 12, s.zones[k].granted + s.zones[k].remaining = s.zones[k].demand ∧ s.zones[k].demand ≤ 32
    ∧ s.zones[k].starved ≤ 32 ∧ s.zones[k].boost ≤ 2 ∧ s.zones[k].missed ≤ 255
    ∧ s.zones[k].openCount ≤ 1 ∧ s.zones[k].weldCount ≤ 1

/-! ## Records and the record store (chapters 7 and 8) -/

/-- The accumulators stay within what their pixels can sum to, the line counts and the record minimum in their ranges; an open
record stands in PAVE only (R120), with one accumulator for each of its 12 to 36 columns and a start not beyond the distance. -/
def RecordLaw (s : State) : Prop :=
  (∀ c ∈ s.scan.columns, c.count ≤ 65535 ∧ c.sum ≤ 3000 * c.count)
    ∧ (∀ m, s.scan.minimum = some m → m ≤ 3000)
    ∧ s.scan.linesBinned ≤ 255 ∧ s.scan.linesRejected ≤ 15
    ∧ (1 ≤ s.record.nextSequence ∧ s.record.nextSequence ≤ 4294967295)
    ∧ ∀ r, s.record.current = some r →
        s.settings.mode = .pave ∧ s.scan.columns.length = r.columns ∧ r.columns = r.width / 250
          ∧ 12 ≤ r.columns ∧ r.columns ≤ 36 ∧ r.start ≤ s.travel.distance ∧ r.speedMin ≤ r.speedMax
          ∧ r.trips ≤ 15 ∧ (1 ≤ r.sequence ∧ r.sequence ≤ 4294967295) ∧ s.record.nextSequence = seqNext r.sequence

/-- The sequence number the next stored record will carry: the open record's, or the next open's. -/
def nextStored (s : State) : Nat :=
  match s.record.current with
  | none => s.record.nextSequence
  | some r => r.sequence

/-- The records held carry consecutive numbers from base on (R134). -/
def consecutiveFrom : Nat → List StoredRecord → Prop
  | _, [] => True
  | n, r :: rest => r.sequence = n ∧ consecutiveFrom (seqNext n) rest

/-- The number reached from `n` after `k` steps along the numbering (R135). -/
def seqAfter (n : Nat) : Nat → Nat
  | 0 => n
  | k + 1 => seqNext (seqAfter n k)

/-- The record store (R134, R136): the records held carry consecutive numbers from base, each of 29 to 55 words, in at most 8192
words; the number after the last of them is the number after newest and the next to be stored; the fetch cursor stands at one
of them or past newest; no drop of a store event is left over; a copied record carries a number of the numbering. -/
def StoreLaw (s : State) : Prop :=
  consecutiveFrom s.store.base s.store.records
    ∧ (∀ r ∈ s.store.records, 29 ≤ r.words.length ∧ r.words.length ≤ 55)
    ∧ s.store.used ≤ 8192
    ∧ (1 ≤ s.store.base ∧ s.store.base ≤ 4294967295)
    ∧ s.store.newest ≤ 4294967295
    ∧ seqNext s.store.newest = seqAfter s.store.base s.store.records.length
    ∧ nextStored s = seqNext s.store.newest
    ∧ (∃ k, k ≤ s.store.records.length ∧ s.store.cursor = seqAfter s.store.base k)
    ∧ s.store.droppedTotal ≤ 65535 ∧ s.store.eventDrops = 0
    ∧ (∀ r due, s.store.slot = .copying r due ∨ s.store.slot = .ready r due → 1 ≤ r.sequence ∧ r.sequence ≤ 4294967295)

/-! ## All of them -/

/-- Every law of the part together. -/
def Lawful (s : State) : Prop :=
  PortLaw s ∧ SettingsLaw s ∧ TravelLaw s ∧ SequencerLaw s ∧ LevellingLaw s ∧ ReadingLaw s ∧ FeedLaw s ∧ CapacityLaw s
    ∧ GrantLaw s ∧ DemandLaw s ∧ RecordLaw s ∧ StoreLaw s

end Sys2Proof.Machine
end

