-- ==== Sys2Proof/Certificates/Slice0/Obligations.lean ====
section
/-! DEFINITION. The statements for the provers. "Next" always means the outcome next of `Sys2Proof.Machine.exec` or
`Sys2Proof.Machine.step`; times are in ticks of 10 µs. Each docstring names the rule of spec/ a statement formalises. -/

open Sys2Proof Sys2Proof.Machine

/-! ### Travel and width (chapter 1) -/

/-- R2, R3 and R7. A forward pulse of worth q pays off the reverse-pending count first and carries the rest into the distance
count; where the carry would pass the top of the distance count the mm the speed window takes are the model's own (log entry
11), and so is an encoder accumulator that would pass its top (log entry 12): the two clauses leave these out. A reverse
pulse adds its worth to the reverse-pending count and marks the plausibility window; an applied travel mm-per-pulse leaves
every count as it stands. A radar pulse adds its worth to the radar accumulator and to nothing else. The seconds count goes
up by 1 at each second and wraps at 32 bits (R4); a tick taken past its time is left to ClassPeriod (log entry 30). -/
def Obligations.SensorPulses : Prop :=
  (∀ s : State, s.travel.distance ≤ 4294967295 →
      let q := s.settings.travelPulse
      let p := s.travel.reversePending
      let total := s.travel.remainder + (if q ≤ p then 0 else q - p)
      ∃ t, exec .forwardPulse s = .next t
        ∧ t.travel.reversePending = (if q ≤ p then p - q else 0)
        ∧ t.travel.remainder = total % 100
        ∧ t.travel.distance = min 4294967295 (s.travel.distance + total / 100)
        ∧ (s.travel.distance + total / 100 ≤ 4294967295 → t.travel.windowMm = s.travel.windowMm + total / 100)
        ∧ (s.travel.encoderAcc + q ≤ 4294967295 → t.travel.encoderAcc = s.travel.encoderAcc + q)
        ∧ t.travel =
            { s.travel with
              reversePending := t.travel.reversePending, remainder := t.travel.remainder, distance := t.travel.distance,
              windowMm := t.travel.windowMm, encoderAcc := t.travel.encoderAcc }
        ∧ changesOnly [.travel, .lev, .zones, .scan, .record, .store, .ports] s t
        ∧ (total < 100 ∨ s.record.current = none → changesOnly [.travel] s t))
    ∧ ((∀ s : State, ∃ t, exec .reversePulse s = .next t
          ∧ t.travel =
              { s.travel with
                reversePending := min 4294967295 (s.travel.reversePending + s.settings.travelPulse), reverseMark := true }
          ∧ changesOnly [.travel] s t)
        ∧ ∀ (s : State) (p : Port) (e : PostEntry) (rest : List PostEntry),
            (s.ports.get p).queue = e :: rest → e.item = .travelPulse →
              ∃ t, exec (.application p) s = .next t ∧ t.settings.travelPulse = e.value.toNat ∧ t.travel = s.travel)
    ∧ (∀ s : State,
        (∃ t, exec .radarPulse s = .next t
          ∧ t.travel = { s.travel with radarAcc := min 4294967295 (s.travel.radarAcc + s.settings.radarPulse) }
          ∧ changesOnly [.travel] s t)
        ∧ (∃ t, exec .forwardPulse s = .next t ∧ t.travel.radarAcc = s.travel.radarAcc
          ∧ (s.travel.encoderAcc + s.settings.travelPulse ≤ 4294967295 →
              t.travel.encoderAcc = s.travel.encoderAcc + s.settings.travelPulse))
        ∧ ∃ t, exec .reversePulse s = .next t ∧ t.travel.reverseMark = true ∧ t.travel.radarAcc = s.travel.radarAcc)
    ∧ (∀ s : State, ∃ t, exec .secondsCountTick s = .next t
        ∧ t.travel = { s.travel with seconds := (s.travel.seconds + 1) % 4294967296 }
        ∧ (s.now ≤ s.timers.second → t.timers.second = s.timers.second + 100000)
        ∧ t.timers = { s.timers with second := t.timers.second }
        ∧ changesOnly [.travel, .timers, .now] s t)

/-- R5, and what the window hands to its neighbours (R6, R72, R120, R122). The speed is four times the mm carried, clamped, the
moving flag follows it, and the next window starts empty at once; a paver that moves ends every prefill run, one that does
not leaves AUTO sides with both valves at 0; an open record takes the window. When none is open and the paver moves in PAVE,
the record is the one that `openRecord` (see `RecordOpen`) opens on the state that already holds the new speed, moving flag and
window (R120), and nothing but the prefill runs changes beyond it. Where the time base stands after the expiry,
`StepOnAnEmptyQueue` says. -/
def Obligations.SpeedWindow : Prop :=
  (∀ s : State, ∃ t, exec .speedWindowExpiry s = .next t
      ∧ t.travel.speed = min 32767 (s.travel.windowMm * 4)
      ∧ (t.travel.moving = true ↔ 5 ≤ t.travel.speed)
      ∧ (t.travel.moving = true ↔ 2 ≤ s.travel.windowMm)
      ∧ t.travel = { s.travel with speed := t.travel.speed, moving := t.travel.moving, windowMm := 0 }
      ∧ t.timers = { s.timers with speed := t.now + 25000 }
      ∧ changesOnly [.travel, .timers, .now, .lev, .feed, .scan, .record] s t)
    ∧ (∀ s : State, ∃ t, exec .speedWindowExpiry s = .next t
        ∧ (∀ d, t.feed.get d =
            if 2 ≤ s.travel.windowMm ∧ (s.feed.get d).state = .prefill then
              if (s.feed.get d).returnAuto then { s.feed.get d with state := .auto, prefillDue := none }
              else { s.feed.get d with
                     state := .off, command := 0, previous := (s.feed.get d).command, openLoop := false, prefillDue := none }
            else s.feed.get d)
        ∧ (∀ sd, (t.lev.get sd).state = (s.lev.get sd).state
            ∧ (2 ≤ s.travel.windowMm → (t.lev.get sd).raise = (s.lev.get sd).raise ∧ (t.lev.get sd).lower = (s.lev.get sd).lower)
            ∧ (s.travel.windowMm < 2 →
                t.lev.get sd =
                  if (s.lev.get sd).state = .auto then { s.lev.get sd with raise := 0, lower := 0 } else s.lev.get sd))
        ∧ (∀ r, s.record.current = some r →
            t.scan = s.scan
              ∧ t.record =
                  { s.record with
                    current :=
                      some
                        { r with
                          speedMin := min r.speedMin t.travel.speed
                          speedMax := max r.speedMax t.travel.speed
                          pauseWindows := if 2 ≤ s.travel.windowMm then r.pauseWindows else min 65535 (r.pauseWindows + 1) } })
        ∧ (s.record.current = none →
            ((2 ≤ s.travel.windowMm ∧ s.settings.mode = .pave) →
              (∃ r, t.record.current = some r ∧ r.sequence = s.record.nextSequence ∧ r.start = s.travel.distance)
                ∧ ∃ u, u.travel = t.travel ∧ u.timers = t.timers ∧ u.now = t.now
                    ∧ changesOnly [.travel, .timers, .now] s u ∧ changesOnly [.feed] (openRecord u) t)
            ∧ (¬(2 ≤ s.travel.windowMm ∧ s.settings.mode = .pave) → t.record = s.record ∧ t.scan = s.scan)))

/-- R8, and what a judged window does to TRAVEL_SUSPECT and the plausible run (R9). The accumulators keep the hundredths, the
reverse mark clears and the next window starts; the third plausible window in a row clears the flag; a flag newly set is
raised on all four ports and reported to the open record, and nothing else is. Where the time base stands after the expiry,
`StepOnAnEmptyQueue` says. -/
def Obligations.Plausibility : Prop :=
  ((∀ (mark : Bool) (de dr : Nat),
        (judgeWindow mark de dr = .notJudged ↔ mark = true ∨ max de dr < 50)
          ∧ (judgeWindow mark de dr = .implausible ↔
              mark = false ∧ 50 ≤ max de dr ∧ 15 * max de dr < ((de : Int) - dr).natAbs * 100)
          ∧ (judgeWindow mark de dr = .plausible ↔
              mark = false ∧ 50 ≤ max de dr ∧ ((de : Int) - dr).natAbs * 100 ≤ 15 * max de dr))
      ∧ ∀ s : State, ∃ t, exec .plausibilityWindowExpiry s = .next t
          ∧ t.travel.encoderAcc = s.travel.encoderAcc % 100 ∧ t.travel.radarAcc = s.travel.radarAcc % 100
          ∧ t.travel.reverseMark = false
          ∧ t.timers = { s.timers with plausibility := t.now + 100000 }
          ∧ t.travel =
              { s.travel with
                encoderAcc := t.travel.encoderAcc, radarAcc := t.travel.radarAcc, reverseMark := false,
                suspect := t.travel.suspect, plausibleRun := t.travel.plausibleRun }
          ∧ changesOnly [.travel, .timers, .now, .ports, .record] s t)
    ∧ (∀ s : State,
        let outcome := judgeWindow s.travel.reverseMark (s.travel.encoderAcc / 100) (s.travel.radarAcc / 100)
        ∃ t, exec .plausibilityWindowExpiry s = .next t
          ∧ (outcome = .notJudged →
              t.travel.suspect = s.travel.suspect ∧ t.travel.plausibleRun = s.travel.plausibleRun)
          ∧ (outcome = .implausible → t.travel.suspect = true ∧ t.travel.plausibleRun = 0)
          ∧ (outcome = .plausible → s.travel.suspect = false →
              t.travel.suspect = false ∧ t.travel.plausibleRun = s.travel.plausibleRun)
          ∧ (outcome = .plausible → s.travel.suspect = true → s.travel.plausibleRun < 2 →
              t.travel.suspect = true ∧ t.travel.plausibleRun = s.travel.plausibleRun + 1)
          ∧ (outcome = .plausible → s.travel.suspect = true → 2 ≤ s.travel.plausibleRun →
              t.travel.suspect = false ∧ t.travel.plausibleRun = 0)
          ∧ (outcome = .implausible → s.travel.suspect = false →
              raisedOnly s t (fun _ => True) .travelSuspect
                ∧ ∀ r, s.record.current = some r →
                    t.record =
                      { s.record with current := some { r with flags := { r.flags with travelSuspect := true } } })
          ∧ (s.record.current = none → t.record = s.record)
          ∧ (¬(outcome = .implausible ∧ s.travel.suspect = false) → t.ports = s.ports ∧ t.record = s.record))

/-- The width update of a MEDIUM round completion (R10, R11): extensions from the GOOD entries of channels 9 and 10, held marks
for the others, the width and the activity map from the extensions; HELD is reported to the open record. -/
def Obligations.WidthUpdate : Prop :=
  ∀ s : State,
    let left := s.seq.results[(9 : Fin 34)]
    let right := s.seq.results[(10 : Fin 34)]
    let t := (widthUpdate s).travel
    t.extL = (if left.quality = .good then (min 3000 (max 0 left.value)).toNat else s.travel.extL)
      ∧ t.extR = (if right.quality = .good then (min 3000 (max 0 right.value)).toNat else s.travel.extR)
      ∧ (t.heldL = true ↔ left.quality ≠ .good) ∧ (t.heldR = true ↔ right.quality ≠ .good)
      ∧ (t.widthHeld = true ↔ t.heldL = true ∨ t.heldR = true)
      ∧ t.width = 3000 + t.extL + t.extR ∧ t.activity = activityMap t.extL t.extR
      ∧ t = { s.travel with
              extL := t.extL, extR := t.extR, heldL := t.heldL, heldR := t.heldR, widthHeld := t.widthHeld, width := t.width,
              activity := t.activity }
      ∧ (s.record.current = none → (widthUpdate s).record = s.record)
      ∧ (∀ r, s.record.current = some r →
          (widthUpdate s).record =
            { s.record with
              current := some { r with flags := { r.flags with widthHeld := r.flags.widthHeld || t.widthHeld } } })
      ∧ changesOnly [.travel, .record] s (widthUpdate s)

/-- R11's exposures, bands and activity for every pair of extensions: each x of the mat lies in the band of exactly one zone,
each x outside it in none, and `zoneAt`, by which columns, boosts and grants of a mat are mapped (R12, R129), gives for every x
the zone whose band contains it. And R12 in every lawful state: 12 to 36 columns of 250 mm from the left mat edge, less than a
column's width left over at the right, each column's centre in the band of one zone. -/
def Obligations.MatGeometry : Prop :=
  (∀ extL extR : Nat, extL ≤ 3000 → extR ≤ 3000 →
      (∀ z : Fin 12, z.val < 4 →
          zoneBand extL extR z = (-1500 + 750 * (z.val : Int), -1500 + 750 * (z.val : Int) + 750)
            ∧ (activityMap extL extR).getLsbD z.val = true)
        ∧ (∀ k : Nat, 1 ≤ k → (hk : k ≤ 4) →
            let eL : Int := max 0 (min 750 ((extL : Int) - ((k : Int) - 1) * 750))
            let eR : Int := max 0 (min 750 ((extR : Int) - ((k : Int) - 1) * 750))
            zoneBand extL extR ⟨3 + k, by omega⟩
                = (-1500 - (extL : Int) + ((k : Int) - 1) * 750, -1500 - (extL : Int) + ((k : Int) - 1) * 750 + eL)
              ∧ zoneBand extL extR ⟨7 + k, by omega⟩
                = (1500 + (extR : Int) - ((k : Int) - 1) * 750 - eR, 1500 + (extR : Int) - ((k : Int) - 1) * 750)
              ∧ ((activityMap extL extR).getLsbD (3 + k) = true ↔ 375 ≤ eL)
              ∧ ((activityMap extL extR).getLsbD (7 + k) = true ↔ 375 ≤ eR))
        ∧ ∀ x : Int,
            (-1500 - (extL : Int) ≤ x ∧ x < 1500 + (extR : Int) →
              ∃ z, ∀ z' : Fin 12, ((zoneBand extL extR z').1 ≤ x ∧ x < (zoneBand extL extR z').2) ↔ z' = z)
            ∧ (¬(-1500 - (extL : Int) ≤ x ∧ x < 1500 + (extR : Int)) →
              ∀ z : Fin 12, ¬((zoneBand extL extR z).1 ≤ x ∧ x < (zoneBand extL extR z).2))
            ∧ ∀ z : Fin 12,
                zoneAt extL extR x = some z ↔ (zoneBand extL extR z).1 ≤ x ∧ x < (zoneBand extL extR z).2)
    ∧ (∀ s : State, TravelLaw s →
        columnCount s.travel = s.travel.width / 250 ∧ 12 ≤ columnCount s.travel ∧ columnCount s.travel ≤ 36
          ∧ matLeft s.travel = -1500 - (s.travel.extL : Int)
          ∧ 250 * columnCount s.travel ≤ s.travel.width ∧ s.travel.width < 250 * columnCount s.travel + 250
          ∧ ∀ c : Nat, c < columnCount s.travel →
              ∃ z, zoneAt s.travel.extL s.travel.extR (matLeft s.travel + 250 * (c : Int) + 125) = some z)

/-- The applications of the machine mode. To TRAVEL (R14): sides MANUAL with their drops raised, drives OFF with the command held
as the previous one (R67; a drive already OFF stands as it is, and the counts are cleared for a drive in FAULT only: log entry
19), heating STOPPED with the cycle, slice, tripped mark and history kept (R78), every zone OFF with its other facts kept (R98)
and no cycle closed, an open record of PAVE closed PARTIAL by the close of `RecordClose`, after the sides, the drives and the
heating (log entry 23). From TRAVEL (R15, R78): the heating starts at once as `startHeating` (see `CycleBoundary`) starts it,
with a cycle start and the first slice, and nothing is engaged. SETTING_CHANGED follows on the three other ports.
Between STANDBY and PAVE (R13, R16): leaving PAVE closes an open record PARTIAL by the close of `RecordClose`, with its store,
boosts and RECORD_CLOSED, and sets AUTO valves to 0; entering PAVE, and writing the mode that is held, change nothing but the
stored value. -/
def Obligations.MachineModes : Prop :=
  (∀ (s : State) (p : Port) (e : PostEntry) (rest : List PostEntry),
      (s.ports.get p).queue = e :: rest → e.item = .machineMode → e.value = 2#16 → s.settings.mode ≠ .travel →
        ∃ t, exec (.application p) s = .next t
          ∧ t.settings = { s.settings with mode := .travel }
          ∧ (∀ sd, (t.lev.get sd).state = .manual)
          ∧ (∀ sd, (s.lev.get sd).state ≠ .manual →
              t.lev.get sd = { s.lev.get sd with state := .manual, raise := 0, lower := 0, goodRun := 0 }
                ∧ ∀ q, (t.ports.get q).pendingSet.getLsbD (droppedKind sd).bit = true)
          ∧ (∀ sd, (s.lev.get sd).state = .manual →
              t.lev.get sd =
                if (s.lev.get sd).jog = none then s.lev.get sd
                else { s.lev.get sd with raise := 0, lower := 0, jog := none })
          ∧ (∀ d, (t.feed.get d).state = .off
              ∧ ((s.feed.get d).state = .off → t.feed.get d = s.feed.get d)
              ∧ ((s.feed.get d).state ≠ .off →
                  (t.feed.get d).command = 0 ∧ (t.feed.get d).openLoop = false ∧ (t.feed.get d).prefillDue = none
                    ∧ (t.feed.get d).previous = (s.feed.get d).command)
              ∧ (t.feed.get d).cause = (s.feed.get d).cause ∧ (t.feed.get d).returnAuto = (s.feed.get d).returnAuto
              ∧ (t.feed.get d).lastGoodCurrent = (s.feed.get d).lastGoodCurrent
              ∧ ((s.feed.get d).state = .fault →
                  (t.feed.get d).overcurrentCount = 0 ∧ (t.feed.get d).notRunningCount = 0
                    ∧ (t.feed.get d).runawayCount = 0))
          ∧ t.heat = { s.heat with running := false, grants := 0#12, grantedPower := 0 }
          ∧ t.timers = { s.timers with slice := none, readback := none, heatingWait := none }
          ∧ (∀ k : Fin 12,
              t.zones[k] = { s.zones[k] with
                state := .off, output := false, openCount := 0, weldCount := 0, boost := t.zones[k].boost }
              ∧ (s.settings.mode ≠ .pave ∨ s.record.current = none → t.zones[k].boost = s.zones[k].boost))
          ∧ (∃ u,
              let stopped := if s.settings.mode = .pave then closeRecord true false u else u
              changesOnly [.settings, .lev, .feed, .heat, .zones, .timers, .ports, .now] s u
                ∧ u.settings = t.settings ∧ u.lev = t.lev ∧ u.feed = t.feed ∧ u.heat = t.heat ∧ u.timers = t.timers ∧ u.now = t.now
                ∧ (∀ k : Fin 12, u.zones[k] = { s.zones[k] with
                    state := .off, output := false, openCount := 0, weldCount := 0 })
                ∧ (∀ q,
                    let mask := s.settings.masks.get q
                    let p0 := if q = p then { s.ports.get p with queue := rest, applyAfter := t.now + 200 } else s.ports.get q
                    let p1 := if (s.lev.get .left).state ≠ .manual then portRaised mask .sideLDropped p0 else p0
                    u.ports.get q = if (s.lev.get .right).state ≠ .manual then portRaised mask .sideRDropped p1 else p1)
                ∧ t.zones = stopped.zones ∧ t.record = stopped.record ∧ t.store = stopped.store
                ∧ ∀ q, t.ports.get q =
                    if q = p then { stopped.ports.get p with lastApplied := some .machineMode, lastClamped := e.clamped }
                    else portRaised (s.settings.masks.get q) .settingChanged (stopped.ports.get q))
          ∧ (s.settings.mode = .pave → ∀ r, s.record.current = some r →
              t.record.current = none
                ∧ ∃ h, t.record.summary = some h ∧ h.sequence = r.sequence ∧ h.partialClose = true
                  ∧ h.restartClose = false ∧ h.leftState = .manual ∧ h.rightState = .manual)
          ∧ (s.settings.mode ≠ .pave ∨ s.record.current = none → t.record = s.record ∧ t.store = s.store)
          ∧ changesOnly [.settings, .lev, .feed, .heat, .zones, .timers, .record, .store, .ports, .now] s t)
    ∧ (∀ (s : State) (p : Port) (e : PostEntry) (rest : List PostEntry),
        (s.ports.get p).queue = e :: rest → e.item = .machineMode → e.value = 0#16 ∨ e.value = 1#16 → s.settings.mode = .travel →
          ∃ t, exec (.application p) s = .next t
            ∧ t.settings = { s.settings with mode := if e.value = 0#16 then .standby else .pave }
            ∧ t.lev = s.lev ∧ t.feed = s.feed ∧ t.record.current.isSome = s.record.current.isSome
            ∧ t.heat.running = true ∧ t.heat.slice = 0 ∧ t.heat.cycle = (s.heat.cycle + 1) % 65536 ∧ t.heat.tripped = false
            ∧ (∀ k : Fin 12, t.zones[k].state ≠ .off)
            ∧ t.timers = { s.timers with slice := some (t.now + 25000), readback := some (t.now + 10000) }
            ∧ (∃ u, u.settings = t.settings ∧ u.now = t.now ∧ changesOnly [.settings, .ports, .now] s u
                ∧ (∀ q, u.ports.get q =
                    if q = p then { s.ports.get p with queue := rest, applyAfter := t.now + 200 } else s.ports.get q)
                ∧ changesOnly [.ports] (startHeating u) t
                ∧ ∀ q, t.ports.get q =
                    if q = p then
                      { (startHeating u).ports.get p with lastApplied := some .machineMode, lastClamped := e.clamped }
                    else portRaised (s.settings.masks.get q) .settingChanged ((startHeating u).ports.get q))
            ∧ changesOnly [.settings, .heat, .zones, .timers, .record, .ports, .now] s t)
    ∧ ((∀ (s : State) (p : Port) (e : PostEntry) (rest : List PostEntry),
          (s.ports.get p).queue = e :: rest → e.item = .machineMode → e.value = 0#16 → s.settings.mode = .pave →
            ∃ t, exec (.application p) s = .next t
              ∧ t.settings = { s.settings with mode := .standby }
              ∧ (∀ sd, t.lev.get sd =
                  if (s.lev.get sd).state = .auto then { s.lev.get sd with raise := 0, lower := 0 } else s.lev.get sd)
              ∧ t.heat = s.heat
              ∧ (∃ u, u.settings = t.settings ∧ u.now = t.now ∧ changesOnly [.settings, .ports, .now] s u
                  ∧ (∀ q, u.ports.get q =
                      if q = p then { s.ports.get p with queue := rest, applyAfter := t.now + 200 } else s.ports.get q)
                  ∧ t.record = (closeRecord true false u).record ∧ t.store = (closeRecord true false u).store
                  ∧ t.zones = (closeRecord true false u).zones
                  ∧ ∀ q, t.ports.get q =
                      if q = p then
                        { (closeRecord true false u).ports.get p with lastApplied := some .machineMode, lastClamped := e.clamped }
                      else portRaised (s.settings.masks.get q) .settingChanged ((closeRecord true false u).ports.get q))
              ∧ (∀ r, s.record.current = some r →
                  t.record.current = none
                    ∧ ∃ h, t.record.summary = some h ∧ h.sequence = r.sequence ∧ h.partialClose = true
                      ∧ h.restartClose = false)
              ∧ (s.record.current = none → t.record = s.record ∧ t.store = s.store ∧ t.zones = s.zones)
              ∧ changesOnly [.settings, .lev, .zones, .record, .store, .ports, .now] s t)
        ∧ ∀ (s : State) (p : Port) (e : PostEntry) (rest : List PostEntry) (m : Mode),
            (s.ports.get p).queue = e :: rest → e.item = .machineMode → e.value = BitVec.ofNat 16 m.code →
              s.settings.mode = m ∨ (s.settings.mode = .standby ∧ m = .pave) →
                ∃ t, exec (.application p) s = .next t
                  ∧ t.settings = { s.settings with mode := m }
                  ∧ (∀ q, t.ports.get q =
                      if q = p then
                        { s.ports.get p with
                          queue := rest, applyAfter := t.now + 200, lastApplied := some .machineMode, lastClamped := e.clamped }
                      else portRaised (s.settings.masks.get q) .settingChanged (s.ports.get q))
                  ∧ changesOnly [.settings, .ports, .now] s t)

/-! ### Measurement sequencer (chapter 2) -/

/-- R19. The classes and their periods; a period expiry begins the class's next round: LATE exactly while a channel of the class
waits or is being converted, every channel of the class in the queue, the old round without completion, an IDLE converter due
to take at once. The next expiry lies a period after this one, which keeps the grid of the reset while an expiry is taken at or
before its deadline. That the time base moves to the deadline is log entry 3, and that an expiry taken past its deadline counts
the next period from the take is log entry 30: these are the model's choices, and so it is for the seconds count (R4). -/
def Obligations.ClassPeriod : Prop :=
  (∀ c : Fin 34, classOf c = if c.val ≤ 8 then .fast else if c.val ≤ 18 then .medium else .slow)
    ∧ ∀ (s : State) (cls : SampleClass),
        let r := s.seq.rounds.get cls
        let busy : Prop :=
          (∃ c, c ∈ s.seq.queue ∧ classOf c = cls)
            ∨ ∃ c tag due, classOf c = cls
                ∧ (s.seq.converter = .settling c tag due ∨ s.seq.converter = .converting c tag due)
        let period : Nat := match cls with
          | .fast => 2000
          | .medium => 10000
          | .slow => 100000
        ∃ t, exec (.classPeriodExpiry cls) s = .next t
          ∧ (t.seq.rounds.get cls).counter = (if r.counter = 65535 then 1 else r.counter + 1)
          ∧ ((t.seq.rounds.get cls).late = true ↔ busy)
          ∧ (busy → (t.seq.rounds.get cls).lateCount = min 65535 (r.lateCount + 1))
          ∧ (¬busy → (t.seq.rounds.get cls).lateCount = r.lateCount)
          ∧ (∀ other, other ≠ cls → t.seq.rounds.get other = s.seq.rounds.get other)
          ∧ (∀ c, c ∈ t.seq.queue ↔ c ∈ s.seq.queue ∨ classOf c = cls)
          ∧ t.seq.converter = s.seq.converter ∧ t.seq.results = s.seq.results
          ∧ t.seq.conditionSuspect = s.seq.conditionSuspect
          ∧ (∀ c tag, classOf c = cls → tag = r.counter → completesRound t.seq c tag = false)
          ∧ (s.seq.converter = .idle → converterEvent t = some (t.now, .converterTake))
          ∧ t.now = max s.now (s.timers.period.get cls)
          ∧ t.timers = { s.timers with period := s.timers.period.set cls (t.now + period) }
          ∧ (s.now ≤ s.timers.period.get cls → t.timers.period.get cls = s.timers.period.get cls + period)
          ∧ changesOnly [.seq, .timers, .now] s t
          ∧ ∃ u, exec .secondsCountTick s = .next u ∧ u.now = max s.now s.timers.second
              ∧ u.timers = { s.timers with second := u.now + 100000 }

/-- R20. The conversion queue over every command: a queue in increasing channel number without a repeat stays one, so it holds at
most 34 channels and the classes stand FAST, MEDIUM, SLOW; a channel joins at its class's period expiry or a reset, and
leaves when the converter takes it or at a reset. -/
def Obligations.ConversionQueue : Prop :=
  (∀ a b : Fin 34, a < b → ¬(classOf a = .slow ∧ classOf b ≠ .slow) ∧ ¬(classOf a = .medium ∧ classOf b = .fast))
    ∧ ∀ (i : Instr) (s t : State), exec i s = .next t →
        (s.seq.queue.Pairwise (· < ·) → t.seq.queue.Pairwise (· < ·) ∧ t.seq.queue.length ≤ 34)
          ∧ (∀ c, c ∈ s.seq.queue → c ∉ t.seq.queue →
              i = .powerOn ∨ (∃ p, i = .restart p)
                ∨ (i = .converterTake ∧ s.seq.converter = .idle ∧ s.seq.queue.head? = some c))
          ∧ (∀ c, c ∉ s.seq.queue → c ∈ t.seq.queue →
              i = .powerOn ∨ (∃ p, i = .restart p) ∨ i = .classPeriodExpiry (classOf c))

/-- R21, and the end of overload recovery (R22). An IDLE converter takes the head of the queue with its class's round counter and
settles for the class's time, then converts for 20 µs; no other command but a completion or a reset takes the channel from
it. Recovery ends with the converter IDLE, and with a channel waiting its take is then due at once. -/
def Obligations.ConverterSteps : Prop :=
  ((∀ (s : State) (c : Fin 34) (rest : List (Fin 34)), s.seq.converter = .idle → s.seq.queue = c :: rest →
        let settle : Nat := match classOf c with
          | .fast => 15
          | .medium => 40
          | .slow => 200
        ∃ t, exec .converterTake s = .next t
          ∧ t.seq =
              { s.seq with
                queue := rest
                converter := .settling c (s.seq.rounds.get (classOf c)).counter (s.now + settle) }
          ∧ changesOnly [.seq] s t)
      ∧ (∀ (s : State) (c : Fin 34) (tag due : Nat), s.seq.converter = .settling c tag due →
          ∃ t, exec .settleEnd s = .next t
            ∧ t.seq = { s.seq with converter := .converting c tag (t.now + 2) }
            ∧ changesOnly [.seq, .now] s t)
      ∧ ∀ (i : Instr) (s t : State) (c : Fin 34), exec i s = .next t → s.seq.converter.held = some c →
          t.seq.converter.held = some c ∨ i = .powerOn ∨ (∃ p, i = .restart p)
            ∨ ∃ count pins, i = .conversionCompletion count pins)
    ∧ (∀ (s : State) (due : Nat), s.seq.converter = .recovering due →
        ∃ t, exec .overloadRecoveryEnd s = .next t
          ∧ t.seq = { s.seq with converter := .idle }
          ∧ (s.seq.queue ≠ [] → converterEvent t = some (t.now, .converterTake))
          ∧ changesOnly [.seq, .now] s t)

/-- A conversion's completion (R22, R23): the whole result entry of the converter's channel with the round tag kept at the take,
no other entry, and the converter RECOVERING for 4 ms above 3440, IDLE otherwise. -/
def Obligations.ConversionCompletion : Prop :=
  ∀ (s : State) (count : BitVec 12) (pins : Pins) (c : Fin 34) (tag due : Nat),
    s.seq.converter = .converting c tag due →
      ∃ t, exec (.conversionCompletion count pins) s = .next t
        ∧ t.seq.results[c].count = count.toNat ∧ t.seq.results[c].round = tag
        ∧ (∀ h : c.val < 31,
            t.seq.results[c].value = engineeringValue s.settings.cals[(⟨c.val, h⟩ : Fin 31)] count.toNat
              ∧ t.seq.results[c].quality
                  = machineQuality s.settings.cals[(⟨c.val, h⟩ : Fin 31)] s.seq.conditionSuspect count.toNat)
        ∧ (31 ≤ c.val →
            t.seq.results[c].value = 0
              ∧ t.seq.results[c].quality = if referenceMeets c count.toNat then .good else .suspect)
        ∧ (∀ d, d ≠ c → t.seq.results[d] = s.seq.results[d])
        ∧ t.seq.converter = (if 3440 < count.toNat then .recovering (t.now + 400) else .idle)
        ∧ t.seq.queue = s.seq.queue ∧ t.seq.rounds = s.seq.rounds
        ∧ t.pins = pins
        ∧ changesOnly [.seq, .travel, .lev, .feed, .heat, .record, .ports, .timers, .pins, .now, .free] s t

/-- R26. The engineering value of a count: the scaled count, rounded half away from zero, added to the zero value and clamped to
the closed range of the two values; the zero value when the two counts are equal, and BROKEN then whatever the count. -/
def Obligations.EngineeringValue : Prop :=
  ∀ (cal : Calibration) (count : Nat),
    (cal.fullCount = cal.zeroCount →
        engineeringValue cal count = cal.zeroValue ∧ ∀ suspect, machineQuality cal suspect count = .broken)
      ∧ (cal.fullCount ≠ cal.zeroCount →
          let n : Int := ((count : Int) - cal.zeroCount) * (cal.fullValue - cal.zeroValue)
          let d : Int := (cal.fullCount : Int) - cal.zeroCount
          let lo := min cal.zeroValue cal.fullValue
          let hi := max cal.zeroValue cal.fullValue
          ∃ q : Int, (q.natAbs : Int) = (2 * (n.natAbs : Int) + d.natAbs) / (2 * (d.natAbs : Int))
            ∧ (0 < q → 0 < n * d) ∧ (q < 0 → n * d < 0)
            ∧ engineeringValue cal count = max lo (min hi (cal.zeroValue + q)))

/-- R28 and R29. The quality of a machine channel's count is the first of BROKEN, SHORT, SUSPECT, GOOD whose condition holds. A
reference channel's is GOOD when the count meets that reference's own limit and SUSPECT otherwise, never BROKEN or SHORT,
whatever the converter condition; its value is 0. -/
def Obligations.ResultQuality : Prop :=
  (∀ (cal : Calibration) (suspect : Bool) (count : Nat),
      (machineQuality cal suspect count = .broken ↔ count < 590 ∨ cal.zeroCount = cal.fullCount)
        ∧ (machineQuality cal suspect count = .short ↔ 3440 < count ∧ cal.zeroCount ≠ cal.fullCount)
        ∧ (machineQuality cal suspect count = .suspect ↔
            590 ≤ count ∧ count ≤ 3440 ∧ cal.zeroCount ≠ cal.fullCount ∧ suspect = true)
        ∧ (machineQuality cal suspect count = .good ↔
            590 ≤ count ∧ count ≤ 3440 ∧ cal.zeroCount ≠ cal.fullCount ∧ suspect = false))
    ∧ (∀ (s : State) (count : BitVec 12) (pins : Pins) (c : Fin 34) (tag due : Nat),
        s.seq.converter = .converting c tag due → 31 ≤ c.val →
          ∃ t, exec (.conversionCompletion count pins) s = .next t
            ∧ t.seq.results[c].value = 0
            ∧ (t.seq.results[c].quality = .good ↔
                (c.val = 31 ∧ count.toNat ≤ 20) ∨ (c.val = 32 ∧ 4075 ≤ count.toNat)
                  ∨ (c.val = 33 ∧ 2032 ≤ count.toNat ∧ count.toNat ≤ 2064))
            ∧ (t.seq.results[c].quality = .good ∨ t.seq.results[c].quality = .suspect))

/-- What a completion that completes its class's round hands on, and to whom (R24, R25): FAST to the levelling unit, MEDIUM to
the travel and width unit and the feed unit in an order that the spec leaves open (log entry 6), SLOW to the reference check.
A completion with an older tag, or while a channel of the class waits, hands nothing on. The state handed on has the channel's
new entry and everything else of the sequencer but the converter as it stood, the converter condition too. -/
def Obligations.RoundCompletion : Prop :=
  ∀ (s : State) (count : BitVec 12) (pins : Pins) (c : Fin 34) (tag due : Nat),
    s.seq.converter = .converting c tag due →
      let completes : Prop := (∀ d ∈ s.seq.queue, classOf d ≠ classOf c) ∧ tag = (s.seq.rounds.get (classOf c)).counter
      ∃ u, u.seq.results[c].round = tag ∧ u.seq.results[c].count = count.toNat
        ∧ (∀ d, d ≠ c → u.seq.results[d] = s.seq.results[d]) ∧ u.seq.conditionSuspect = s.seq.conditionSuspect
        ∧ (∀ h : c.val < 31,
            u.seq.results[c].value = engineeringValue s.settings.cals[(⟨c.val, h⟩ : Fin 31)] count.toNat
              ∧ u.seq.results[c].quality
                  = machineQuality s.settings.cals[(⟨c.val, h⟩ : Fin 31)] s.seq.conditionSuspect count.toNat)
        ∧ u.seq.queue = s.seq.queue ∧ u.seq.rounds = s.seq.rounds ∧ u.pins = pins
        ∧ changesOnly [.seq, .pins, .now] s u
        ∧ (¬completes → exec (.conversionCompletion count pins) s = .next u)
        ∧ (completes → classOf c = .fast → exec (.conversionCompletion count pins) s = .next (levellingRound u))
        ∧ (completes → classOf c = .medium →
            ∃ n, exec (.conversionCompletion count pins) s = .next (feedRound (widthUpdate (u.withFree n)))
              ∨ exec (.conversionCompletion count pins) s = .next (widthUpdate (feedRound (u.withFree n))))
        ∧ (completes → classOf c = .slow → exec (.conversionCompletion count pins) s = .next (slowRound u))

/-- The reference check of a SLOW round completion (R30, R31): the condition as the three counts give it; CONVERTER_SUSPECT
raised on all ports and reported exactly when the condition turns SUSPECT. The condition over every command (R34, R35):
besides power-on, which sets it to SUSPECT, only the completion of a SLOW channel's conversion changes it; RESTART and PORT-
RESET leave it. -/
def Obligations.ReferenceCheck : Prop :=
  (∀ s : State,
      let pass : Prop :=
        s.seq.results[(31 : Fin 34)].count ≤ 20 ∧ 4075 ≤ s.seq.results[(32 : Fin 34)].count
          ∧ 2032 ≤ s.seq.results[(33 : Fin 34)].count ∧ s.seq.results[(33 : Fin 34)].count ≤ 2064
      ((slowRound s).seq.conditionSuspect = true ↔ ¬pass)
        ∧ (slowRound s).seq = { s.seq with conditionSuspect := (slowRound s).seq.conditionSuspect }
        ∧ (¬pass ∧ s.seq.conditionSuspect = false →
            raisedOnly s (slowRound s) (fun _ => True) .converterSuspect
              ∧ ∀ r, s.record.current = some r →
                  (slowRound s).record =
                    { s.record with current := some { r with flags := { r.flags with converterSuspect := true } } })
        ∧ (pass ∨ s.seq.conditionSuspect = true → (slowRound s).ports = s.ports ∧ (slowRound s).record = s.record)
        ∧ changesOnly [.seq, .ports, .record] s (slowRound s))
    ∧ (∀ (i : Instr) (s t : State), exec i s = .next t → t.seq.conditionSuspect ≠ s.seq.conditionSuspect →
        (i = .powerOn ∧ t.seq.conditionSuspect = true)
          ∨ ∃ count pins c tag due, i = .conversionCompletion count pins ∧ s.seq.converter = .converting c tag due
              ∧ classOf c = .slow)

/-! ### Levelling (chapter 3) -/

/-- R51 and R52. BEAM: the valid selected heads in order of number; of three or four the one with the largest scaled deviation,
the higher number at a tie, is left out; the rest is averaged rounding half up. SINGLE: the lowest-numbered selected head
alone. SLOPE: channel 8 clamped. A sample makes the reading the last reading and stores the valid-head count. -/
def Obligations.ReferenceReading : Prop :=
  (∀ (s : State) (sd : Side), (s.settings.sides.get sd).refMode = .beam →
      let hs := validSelected s sd
      let sum := (hs.map Prod.snd).sum
      let v := hs.length
      (∀ h x, (h, x) ∈ hs ↔
          (s.settings.sides.get sd).heads.getLsbD h.val = true ∧ (headEntry s sd h).quality = .good
            ∧ 1 ≤ (headEntry s sd h).value ∧ (headEntry s sd h).value ≤ 9999 ∧ (x : Int) = (headEntry s sd h).value)
        ∧ hs.Pairwise (fun a b => a.1 < b.1)
        ∧ (judgeReference s sd).2 = v
        ∧ (v < 2 → (judgeReference s sd).1 = none)
        ∧ (v = 2 → (judgeReference s sd).1 = some (((sum + 1) / 2 : Nat) : Int))
        ∧ (3 ≤ v → ∃ a ∈ hs,
            (∀ b ∈ hs, ((v * b.2 : Nat) - sum : Int).natAbs ≤ ((v * a.2 : Nat) - sum : Int).natAbs
              ∧ (((v * b.2 : Nat) - sum : Int).natAbs = ((v * a.2 : Nat) - sum : Int).natAbs → b.1 ≤ a.1))
            ∧ (judgeReference s sd).1 = some (((sum - a.2 + (v - 1) / 2) / (v - 1) : Nat) : Int))
        ∧ (∀ x, (judgeReference s sd).1 = some x → 1 ≤ x ∧ x ≤ 9999
            ∧ ((s.lev.get sd).state ≠ .manual →
                ((sampleSide sd s).lev.get sd).lastReading = x ∧ ((sampleSide sd s).lev.get sd).validHeads = v)))
    ∧ (∀ (s : State) (sd : Side),
        ((s.settings.sides.get sd).refMode = .single → ∀ h : Fin 4,
            (s.settings.sides.get sd).heads.getLsbD h.val = true →
              (∀ k : Fin 4, k < h → (s.settings.sides.get sd).heads.getLsbD k.val = false) →
                (validHead (headEntry s sd h) = true → judgeReference s sd = (some (headEntry s sd h).value, 1))
                  ∧ (validHead (headEntry s sd h) = false → (judgeReference s sd).1 = none))
          ∧ ((s.settings.sides.get sd).refMode = .slope →
              let e := s.seq.results[(8 : Fin 34)]
              (e.quality = .good → judgeReference s sd = (some (max (-1000) (min 1000 e.value)), 0))
                ∧ (e.quality ≠ .good → (judgeReference s sd).1 = none))
          ∧ ∀ x n, judgeReference s sd = (some x, n) → (s.lev.get sd).state ≠ .manual →
              ((sampleSide sd s).lev.get sd).lastReading = x ∧ ((sampleSide sd s).lev.get sd).validHeads = n)

/-- R53. The deviation of a reading in each reference mode; a sample makes it the last deviation. In a lawful state a side in
AUTO or LOST in BEAM or SINGLE holds a target, and the deviation of its reading stays within 10 498, or 18 000 in SLOPE. -/
def Obligations.Deviation : Prop :=
  ∀ (s : State) (sd : Side) (x : Int),
    let t := s.settings.sides.get sd
    (t.refMode ≠ .slope → ∀ n, (s.lev.get sd).target = some n → deviation s sd x = x - ((n : Int) + t.offset))
      ∧ (t.refMode = .slope →
          let h := divHalfAway ((x - t.slopeTarget) * s.travel.width) 1000
          deviation s sd x = match sd with
            | .left => h
            | .right => -h)
      ∧ (∀ n, judgeReference s sd = (some x, n) → (s.lev.get sd).state ≠ .manual →
          ((sampleSide sd s).lev.get sd).lastDeviation = deviation s sd x)
      ∧ (SettingsLaw s → TravelLaw s → ReadingLaw s → (s.lev.get sd).state ≠ .manual →
          (t.refMode ≠ .slope → ∃ n, (s.lev.get sd).target = some n)
            ∧ ∀ n, judgeReference s sd = (some x, n) →
                (t.refMode ≠ .slope → (deviation s sd x).natAbs ≤ 10498)
                  ∧ (t.refMode = .slope → (deviation s sd x).natAbs ≤ 18000))

/-- R54. The valves a sample sets on a side in AUTO: 0 outside PAVE, while the paver stands, or within the dead band; otherwise
the duty of the proportional band, which is at least minDuty + 3 before the clamp, on the valve of the deviation's direction.
A side in LOST that does not return computes no duty. -/
def Obligations.Duty : Prop :=
  ∀ (s : State) (sd : Side) (x : Int) (n : Nat), judgeReference s sd = (some x, n) →
    let t := s.settings.sides.get sd
    let e := deviation s sd x
    let formula := t.minDuty + (e.natAbs - t.deadBand) * (1000 - t.minDuty) / t.propBand
    let u := (sampleSide sd s).lev.get sd
    ((s.lev.get sd).state = .auto →
        u.state = .auto
          ∧ (s.settings.mode ≠ .pave ∨ s.travel.moving = false → u.raise = 0 ∧ u.lower = 0)
          ∧ (s.settings.mode = .pave → s.travel.moving = true →
              (e.natAbs ≤ t.deadBand → u.raise = 0 ∧ u.lower = 0)
                ∧ (t.deadBand < e.natAbs → 0 < e → u.raise = 0 ∧ u.lower = min t.maxDuty formula)
                ∧ (t.deadBand < e.natAbs → e < 0 → u.raise = min t.maxDuty formula ∧ u.lower = 0)))
      ∧ ((s.lev.get sd).state = .lost → (s.lev.get sd).goodRun < 9 →
          u.raise = (s.lev.get sd).raise ∧ u.lower = (s.lev.get sd).lower)
      ∧ (t.inRange → t.deadBand < e.natAbs → t.minDuty + 3 ≤ formula)

/-- R39 and R40. An unusable reference sends an AUTO side to LOST, with valves and run at 0 and its drop raised; in LOST ten
usable samples in a row return the side to AUTO without an alert, and an unusable one starts the run again. -/
def Obligations.LostAndReturn : Prop :=
  ∀ (s : State) (sd : Side),
    let u := s.lev.get sd
    let t := sampleSide sd s
    (∀ n, judgeReference s sd = (none, n) →
        (u.state = .auto →
          t.lev = s.lev.set sd { u with state := .lost, raise := 0, lower := 0, goodRun := 0, validHeads := n }
            ∧ raisedOnly s t (fun _ => True) (droppedKind sd))
        ∧ (u.state = .lost → t.lev = s.lev.set sd { u with goodRun := 0, validHeads := n } ∧ t.ports = s.ports))
      ∧ (∀ x n, judgeReference s sd = (some x, n) → u.state = .lost →
          t.ports = s.ports
            ∧ (u.goodRun < 9 →
                (t.lev.get sd).state = .lost ∧ (t.lev.get sd).goodRun = u.goodRun + 1
                  ∧ (t.lev.get sd).raise = u.raise ∧ (t.lev.get sd).lower = u.lower
                  ∧ (t.lev.get sd).stepMax = min 16383 (max u.stepMax (deviation s sd x).natAbs))
            ∧ (9 ≤ u.goodRun →
                (t.lev.get sd).state = .auto ∧ (t.lev.get sd).goodRun = 0
                  ∧ t.lev.get sd =
                      (sampleSide sd (s.withLev (s.lev.set sd { u with state := .auto, goodRun := 0 }))).lev.get sd))
      ∧ (u.state = .manual → t = s)
      ∧ changesOnly [.lev, .ports] s t

/-- R56, with the FAST round completion at the levelling unit (R49, R57). The completion restarts the sample timer, clears both
stale marks, every side not in MANUAL takes its sample; the sides' order does not matter, and a usable sample raises the step
maximum to |e| within 14 bits. The sample timer's expiry sets both valves of every AUTO side to 0 and both stale marks,
changes nothing else and raises nothing; the next FAST round completion clears the marks and starts the timer again. -/
def Obligations.SampleRound : Prop :=
  (∀ s : State,
      let cleared := s.withLev (s.lev.map fun _ u => { u with stale := false })
      (levellingRound s).timers = { s.timers with sample := some (s.now + 10000) }
        ∧ (levellingRound s).lev.left = (sampleSide .left cleared).lev.left
        ∧ (levellingRound s).lev.right = (sampleSide .right cleared).lev.right
        ∧ (∀ sd, ((levellingRound s).lev.get sd).stale = false)
        ∧ sampleSide .right (sampleSide .left s) = sampleSide .left (sampleSide .right s)
        ∧ (∀ sd x n, judgeReference s sd = (some x, n) → (s.lev.get sd).state ≠ .manual →
            ((levellingRound s).lev.get sd).stepMax = min 16383 (max (s.lev.get sd).stepMax (deviation s sd x).natAbs))
        ∧ changesOnly [.lev, .ports, .timers] s (levellingRound s))
    ∧ (∀ (s : State) (due : Nat), s.timers.sample = some due →
        ∃ t, exec .sampleTimerExpiry s = .next t
          ∧ (∀ sd, t.lev.get sd =
              if (s.lev.get sd).state = .auto then { s.lev.get sd with raise := 0, lower := 0, stale := true }
              else { s.lev.get sd with stale := true })
          ∧ t.timers = { s.timers with sample := none }
          ∧ changesOnly [.lev, .timers, .now] s t
          ∧ (∀ sd, ((levellingRound t).lev.get sd).stale = false)
          ∧ (levellingRound t).timers.sample = some (t.now + 10000))

/-- R42. The checks of a side request in their order: a byte that names no side (for JOG also a direction that is none) is
REFUSED, another side's station is NOT_ALLOWED; a request answered REFUSED, NOT_ALLOWED or NOT_NOW changes nothing at the
side. -/
def Obligations.SideRequestChecks : Prop :=
  ∀ (s : State) (p : Port) (item dir : Byte) (duty : Word),
    (∀ c, c = .engage p item ∨ c = .disengage p item ∨ c = .setZero p item ∨ c = .jog p item dir duty →
        (2 ≤ item.toNat →
          ∃ t, exec c s = .next t ∧ answeredOnly s t p { code := .refused, data := [] } ∧ changesOnly [.ports] s t)
        ∧ (∀ sd, sideOfByte item = some sd → p ≠ .m → p ≠ stationOfSide sd → c = .jog p item dir duty → dir.toNat < 2 →
            ∃ t, exec c s = .next t ∧ answeredOnly s t p { code := .notAllowed, data := [] } ∧ changesOnly [.ports] s t)
        ∧ (∀ sd, sideOfByte item = some sd → p ≠ .m → p ≠ stationOfSide sd → c ≠ .jog p item dir duty →
            ∃ t, exec c s = .next t ∧ answeredOnly s t p { code := .notAllowed, data := [] } ∧ changesOnly [.ports] s t)
        ∧ (∀ t, exec c s = .next t →
            (∃ d, (t.ports.get p).answer = some { code := .refused, data := d }
              ∨ (t.ports.get p).answer = some { code := .notAllowed, data := d }
              ∨ (t.ports.get p).answer = some { code := .notNow, data := d }) → changesOnly [.ports] s t))
      ∧ (2 ≤ dir.toNat →
          ∃ t, exec (.jog p item dir duty) s = .next t ∧ answeredOnly s t p { code := .refused, data := [] }
            ∧ changesOnly [.ports] s t)
      ∧ (sideOfByte 0#8 = some .left ∧ sideOfByte 1#8 = some .right)

/-- R43 and R44. ENGAGE in each state of the side, and when it is NOT_NOW (the own port counts as the request's own frame leaves
it). DISENGAGE puts the side into MANUAL from any state, in any mode and whether its port is present or not, is answered OK
and raises nothing. -/
def Obligations.Engagement : Prop :=
  (∀ (s : State) (p : Port) (item : Byte) (sd : Side), sideOfByte item = some sd → p = .m ∨ p = stationOfSide sd →
      let u := s.lev.get sd
      let slope : Prop := (s.settings.sides.get sd).refMode = .slope
      let present : Prop := p = stationOfSide sd ∨ (s.ports.get (stationOfSide sd)).present = true
      (s.settings.mode = .travel ∨ ¬present ∨ (judgeReference s sd).1 = none →
          ∃ t, exec (.engage p item) s = .next t ∧ answeredOnly s t p { code := .notNow, data := [] }
            ∧ changesOnly [.ports] s t)
        ∧ ∀ x n, s.settings.mode ≠ .travel → present → judgeReference s sd = (some x, n) →
            ∃ t, exec (.engage p item) s = .next t ∧ answeredOnly s t p { code := .ok, data := [] }
              ∧ (u.state = .manual → (slope ∨ u.target ≠ none) →
                  t.lev = s.lev.set sd
                    { u with state := .auto, raise := 0, lower := 0, jog := none, stale := false, goodRun := 0 })
              ∧ (u.state = .manual → ¬slope → u.target = none →
                  t.lev = s.lev.set sd
                    { u with
                      state := .auto, raise := 0, lower := 0, jog := none, stale := false, goodRun := 0,
                      target := some x.toNat })
              ∧ (u.state = .lost → t.lev = s.lev.set sd { u with state := .auto, raise := 0, lower := 0, goodRun := 0 })
              ∧ (u.state = .auto → t.lev = s.lev)
              ∧ changesOnly [.lev, .ports] s t)
    ∧ (∀ (s : State) (p : Port) (item : Byte) (sd : Side), sideOfByte item = some sd → p = .m ∨ p = stationOfSide sd →
        let u := s.lev.get sd
        ∃ t, exec (.disengage p item) s = .next t ∧ answeredOnly s t p { code := .ok, data := [] }
          ∧ (t.lev.get sd).state = .manual
          ∧ (u.state ≠ .manual → t.lev = s.lev.set sd { u with state := .manual, raise := 0, lower := 0, goodRun := 0 })
          ∧ (u.state = .manual → u.jog ≠ none → t.lev = s.lev.set sd { u with raise := 0, lower := 0, jog := none })
          ∧ (u.state = .manual → u.jog = none → t.lev = s.lev)
          ∧ changesOnly [.lev, .ports] s t)

/-- R45, with what R46 stores. SET-ZERO captures the current reading: the target with the offset at 0 in BEAM and SINGLE, the
slope target in SLOPE; the answer carries the reading, SETTING_CHANGED goes to the other ports when the stored item changes,
and side state and jog stay. -/
def Obligations.SetZero : Prop :=
  ∀ (s : State) (p : Port) (item : Byte) (sd : Side), sideOfByte item = some sd → p = .m ∨ p = stationOfSide sd →
    let u := s.lev.get sd
    let c := s.settings.sides.get sd
    ((judgeReference s sd).1 = none →
        ∃ t, exec (.setZero p item) s = .next t ∧ answeredOnly s t p { code := .notNow, data := [] }
          ∧ changesOnly [.ports] s t)
      ∧ ∀ x n, judgeReference s sd = (some x, n) →
          ∃ t, exec (.setZero p item) s = .next t
            ∧ t.ports.get p = portAnswered s p { code := .ok, data := wordBytes (BitVec.ofInt 16 x) }
            ∧ (c.refMode ≠ .slope →
                t.lev = s.lev.set sd { u with target := some x.toNat }
                  ∧ t.settings = { s.settings with sides := s.settings.sides.set sd { c with offset := 0 } })
            ∧ (c.refMode = .slope →
                t.lev = s.lev
                  ∧ t.settings = { s.settings with sides := s.settings.sides.set sd { c with slopeTarget := x } })
            ∧ (∀ q, q ≠ p →
                (t.settings ≠ s.settings →
                    t.ports.get q = portRaised (s.settings.masks.get q) .settingChanged (s.ports.get q))
                  ∧ (t.settings = s.settings → t.ports.get q = s.ports.get q))
            ∧ changesOnly [.lev, .settings, .ports] s t

/-- R47. JOG on a side: NOT_NOW outside MANUAL, in TRAVEL or with the side's port ABSENT; otherwise the duty is clamped to
0..maxDuty, 0 ends a pulse, and any other duty starts or replaces a pulse of 250 ms on the named valve. The jog timer's
expiry: both valves of the side 0 and no jog, whatever the direction (R48). -/
def Obligations.JogPulses : Prop :=
  (∀ (s : State) (p : Port) (item dir : Byte) (duty : Word) (sd : Side) (d : Direction),
      sideOfByte item = some sd → directionOfByte dir = some d → p = .m ∨ p = stationOfSide sd →
      let u := s.lev.get sd
      let present : Prop := p = stationOfSide sd ∨ (s.ports.get (stationOfSide sd)).present = true
      let given := (min ((s.settings.sides.get sd).maxDuty : Int) (max 0 duty.toInt)).toNat
      (u.state ≠ .manual ∨ s.settings.mode = .travel ∨ ¬present →
          ∃ t, exec (.jog p item dir duty) s = .next t ∧ answeredOnly s t p { code := .notNow, data := [] }
            ∧ changesOnly [.ports] s t)
        ∧ (u.state = .manual → s.settings.mode ≠ .travel → present →
            ∃ t, exec (.jog p item dir duty) s = .next t ∧ answeredOnly s t p { code := .ok, data := [] }
              ∧ (given = 0 → t.lev = s.lev.set sd { u with raise := 0, lower := 0, jog := none })
              ∧ (given ≠ 0 →
                  t.lev = s.lev.set sd
                    { u with
                      raise := if d = .raise then given else 0
                      lower := if d = .lower then given else 0
                      jog := some { direction := d, duty := given, due := s.now + 25000 } })
              ∧ changesOnly [.lev, .ports] s t)
        ∧ directionOfByte 0#8 = some .raise ∧ directionOfByte 1#8 = some .lower ∧ (2 ≤ dir.toNat → directionOfByte dir = none))
    ∧ (∀ (s : State) (sd : Side) (j : JogPulse), (s.lev.get sd).jog = some j →
        ∃ t, exec (.jogTimerExpiry sd) s = .next t
          ∧ t.lev = s.lev.set sd { s.lev.get sd with raise := 0, lower := 0, jog := none }
          ∧ changesOnly [.lev, .now] s t)

/-- The applications of minDuty and maxDuty (R36): the pair stays in order, and a duty that an AUTO side's valve holds is clamped
to the new pair. The application of a reference mode (R37): SLOPE is rejected while the other side's stored mode is SLOPE; a
changed mode drops a side in AUTO or LOST, and nothing else happens to a side in MANUAL or when the mode is the one already
stored. -/
def Obligations.SideSettingsApplied : Prop :=
  (∀ (s : State) (p : Port) (e : PostEntry) (rest : List PostEntry) (sd : Side),
      (s.ports.get p).queue = e :: rest → e.item = .side sd .minDuty ∨ e.item = .side sd .maxDuty →
        let v := e.value.toNat
        let c := s.settings.sides.get sd
        let clamped : Nat → SideSettings → Nat := fun d n => if d = 0 then 0 else min n.maxDuty (max n.minDuty d)
        ∃ t, exec (.application p) s = .next t
          ∧ (e.item = .side sd .minDuty →
              t.settings.sides = s.settings.sides.set sd { c with minDuty := v, maxDuty := max c.maxDuty v })
          ∧ (e.item = .side sd .maxDuty →
              t.settings.sides = s.settings.sides.set sd { c with maxDuty := max v c.minDuty })
          ∧ t.lev =
              (if (s.lev.get sd).state = .auto then
                s.lev.set sd
                  { s.lev.get sd with
                    raise := clamped (s.lev.get sd).raise (t.settings.sides.get sd)
                    lower := clamped (s.lev.get sd).lower (t.settings.sides.get sd) }
              else s.lev)
          ∧ changesOnly [.lev, .settings, .ports, .now] s t)
    ∧ (∀ (s : State) (p : Port) (e : PostEntry) (rest : List PostEntry) (sd other : Side) (m : RefMode),
        (s.ports.get p).queue = e :: rest → e.item = .side sd .refMode → e.value = BitVec.ofNat 16 m.code → other ≠ sd →
          let c := s.settings.sides.get sd
          ∃ t, exec (.application p) s = .next t
            ∧ (m = .slope → (s.settings.sides.get other).refMode = .slope →
                t.settings = s.settings ∧ t.lev = s.lev ∧ (t.ports.get p).lastRejected = some e.item
                  ∧ (∀ q, q ≠ p → t.ports.get q = s.ports.get q)
                  ∧ (t.ports.get p).pendingSet = (s.ports.get p).pendingSet ||| alertBit .settingRejected)
            ∧ (¬(m = .slope ∧ (s.settings.sides.get other).refMode = .slope) →
                t.settings = { s.settings with sides := s.settings.sides.set sd { c with refMode := m } }
                  ∧ (c.refMode ≠ m → (s.lev.get sd).state ≠ .manual →
                      t.lev = s.lev.set sd { s.lev.get sd with state := .manual, raise := 0, lower := 0, goodRun := 0 }
                        ∧ ∀ q, (t.ports.get q).pendingSet.getLsbD (droppedKind sd).bit = true)
                  ∧ (c.refMode = m ∨ (s.lev.get sd).state = .manual → t.lev = s.lev))
            ∧ changesOnly [.lev, .settings, .ports, .now] s t)

/-! ### Feed drives (chapter 4) -/

/-- R63, R64 and R65, with the ramp of R66: the command a feed tick gives a drive that enters no FAULT, as its state, the mode,
the movement, the speed, the extension and the material height give it. For a height that takes the correction out of R65's
−12 000..+12 000 the formula without a limit is the model's choice (log entry 28). -/
def Obligations.FeedTickCommand : Prop :=
  ∀ (s : State) (d : Drive),
    let u := s.feed.get d
    let t := (feedTick s).feed.get d
    let c := s.settings.drives.get d
    let height := s.seq.results[(⟨11 + (driveIndex d).val, by omega⟩ : Fin 34)]
    let v := s.travel.speed
    let base : Nat := match d with
      | .convL | .convR => v * c.ratio / 100
      | .augL => v * c.ratio * (1500 + s.travel.extL) / 150000
      | .augR => v * c.ratio * (1500 + s.travel.extR) / 150000
    let correction : Int := divHalfAway ((c.gain : Int) * ((c.target : Int) - height.value)) 10
    let clamped : Int → Nat := fun x => (min 1000 (max 0 x)).toNat
    let metering : Prop := s.settings.mode = .pave ∧ s.travel.moving = true
    t.state ≠ .fault ∨ u.state = .fault →
      t.previous = u.command
        ∧ (s.settings.mode = .travel ∨ u.state = .off ∨ u.state = .fault → t.command = 0 ∧ t.openLoop = u.openLoop)
        ∧ (s.settings.mode ≠ .travel → u.state = .manual →
            t.command = ramp c.rampStep u.command c.manual ∧ t.openLoop = u.openLoop)
        ∧ (s.settings.mode ≠ .travel → u.state = .auto → ¬metering → t.command = 0 ∧ t.openLoop = u.openLoop)
        ∧ (u.state = .auto → metering → height.quality = .good →
            t.command = ramp c.rampStep u.command (clamped ((base : Int) + correction)) ∧ t.openLoop = false)
        ∧ (u.state = .auto → metering → height.quality ≠ .good →
            t.command = ramp c.rampStep u.command (clamped (base : Int)) ∧ t.openLoop = true)
        ∧ (s.settings.mode ≠ .travel → u.state = .prefill → height.quality = .good →
            t.command = ramp c.rampStep u.command (clamped correction) ∧ t.openLoop = false)
        ∧ (s.settings.mode ≠ .travel → u.state = .prefill → height.quality ≠ .good → t.command = 0 ∧ t.openLoop = true)

/-- R66 over every command of the part: two successive non-zero commands of a drive differ by the ramp step at most; a raw
command of 0 is taken at once, another never brings the command to 0; and in a lawful state the command lies in 0..1000 and
is 0 in TRAVEL, in OFF and in FAULT. -/
def Obligations.FeedRamp : Prop :=
  (∀ step held raw : Nat,
      ramp step held 0 = 0
        ∧ (0 < raw → 0 < step →
            0 < ramp step held raw
              ∧ (held ≤ raw + step ∧ raw ≤ held + step → ramp step held raw = raw)
              ∧ (held + step < raw → ramp step held raw = held + step)
              ∧ (raw + step < held → ramp step held raw = held - step)))
    ∧ (∀ (i : Instr) (s t : State) (d : Drive), exec i s = .next t →
        (s.feed.get d).command ≠ 0 → (t.feed.get d).command ≠ 0 →
          (t.feed.get d).command ≤ (s.feed.get d).command + (s.settings.drives.get d).rampStep
            ∧ (s.feed.get d).command ≤ (t.feed.get d).command + (s.settings.drives.get d).rampStep)
    ∧ ∀ s : State, Lawful s → ∀ d,
        (s.feed.get d).command ≤ 1000
          ∧ (s.settings.mode = .travel ∨ (s.feed.get d).state = .off ∨ (s.feed.get d).state = .fault →
              (s.feed.get d).command = 0)

/-- R68 and the entry to FAULT of R69: the three counts of a drive at a feed tick, judged against the command held and the inputs
at the tick; a count of 3 puts the drive in FAULT with the first cause, command 0 and counts 0. A drive in FAULT is not
judged. -/
def Obligations.FeedFaults : Prop :=
  ∀ (s : State) (d : Drive),
    let u := s.feed.get d
    let t := (feedTick s).feed.get d
    let current := s.seq.results[(⟨15 + (driveIndex d).val, by omega⟩ : Fin 34)]
    let running := s.pins.running.getLsbD (driveIndex d).val
    let high : Nat :=
      if current.quality = .good then
        if ((s.settings.drives.get d).currentLimit : Int) < current.value then u.overcurrentCount + 1 else 0
      else u.overcurrentCount
    let stopped : Nat := if 0 < u.command ∧ running = false then u.notRunningCount + 1 else 0
    let runaway : Nat := if u.command = 0 ∧ running = true then u.runawayCount + 1 else 0
    (u.state = .fault →
        t = { u with command := 0, previous := u.command })
      ∧ (u.state ≠ .fault → high < 3 ∧ stopped < 3 ∧ runaway < 3 →
          t.state = u.state ∧ t.overcurrentCount = high ∧ t.notRunningCount = stopped ∧ t.runawayCount = runaway
            ∧ t.cause = u.cause ∧ t.prefillDue = u.prefillDue ∧ t.returnAuto = u.returnAuto)
      ∧ (u.state ≠ .fault → ¬(high < 3 ∧ stopped < 3 ∧ runaway < 3) →
          t = { u with
                state := .fault, command := 0, previous := u.command, openLoop := false, overcurrentCount := 0,
                notRunningCount := 0, runawayCount := 0, prefillDue := none,
                cause := if 3 ≤ high then .overcurrent else if 3 ≤ stopped then .notRunning else .runaway }
            ∧ ∀ q, (feedTick s).ports.get q = portRaised (s.settings.masks.get q) .feedFault (s.ports.get q))
      ∧ ((∀ e, (s.feed.get e).state = .fault ∨ ((feedTick s).feed.get e).state ≠ .fault) → (feedTick s).ports = s.ports)
      ∧ changesOnly [.feed, .ports] s (feedTick s)

/-- R73. The feed load formed after the four ticks, in every machine mode: each drive's current, clamped when GOOD and the last
good one otherwise, times the bus voltage, divided by 1000 and truncated, summed over the drives. -/
def Obligations.FeedLoad : Prop :=
  ∀ s : State,
    let current : Drive → Nat := fun d =>
      let e := s.seq.results[(⟨15 + (driveIndex d).val, by omega⟩ : Fin 34)]
      if e.quality = .good then (min 1000 (max 0 e.value)).toNat else (s.feed.get d).lastGoodCurrent
    let term : Drive → Nat := fun d => current d * s.settings.busVoltage / 1000
    let f := term .convL + term .convR + term .augL + term .augR
    (∀ d, (feedLoad s).feed.get d = { s.feed.get d with lastGoodCurrent := current d })
      ∧ (feedLoad s).heat = { s.heat with feedLoad := f }
      ∧ (FeedLaw s → s.settings.busVoltage ≤ 800 → f ≤ 3200)
      ∧ changesOnly [.feed, .heat] s (feedLoad s)
      ∧ feedRound s = feedLoad (feedTick s)

/-- R61. The application of a state request: only stored in TRAVEL and in FAULT or when the drive is in the requested state; else
the drive enters it, OFF with command 0 and MANUAL or AUTO with the command as it stands, a prefill run ended. The absence of
a port leaves the drives. -/
def Obligations.StateRequestApplied : Prop :=
  (∀ (s : State) (p : Port) (e : PostEntry) (rest : List PostEntry) (d : Drive) (r : FeedRequest),
      (s.ports.get p).queue = e :: rest → e.item = .drive d .request → e.value = BitVec.ofNat 16 r.code →
        let u := s.feed.get d
        let wanted : DriveState := match r with
          | .off => .off
          | .manual => .manual
          | .auto => .auto
        ∃ t, exec (.application p) s = .next t
          ∧ t.settings = { s.settings with drives := s.settings.drives.set d { s.settings.drives.get d with request := r } }
          ∧ (s.settings.mode = .travel ∨ u.state = .fault ∨ u.state = wanted → t.feed = s.feed)
          ∧ (s.settings.mode ≠ .travel → u.state ≠ .fault → u.state ≠ wanted →
              (r = .off →
                t.feed = s.feed.set d
                  { u with state := .off, command := 0, previous := u.command, openLoop := false, prefillDue := none })
              ∧ (r = .manual →
                t.feed = s.feed.set d { u with state := .manual, openLoop := false, prefillDue := none })
              ∧ (r = .auto → t.feed = s.feed.set d { u with state := .auto, prefillDue := none }))
          ∧ changesOnly [.feed, .settings, .ports, .now] s t)
    ∧ ∀ (s t : State) (p : Port), exec (.presenceTimeout p) s = .next t → t.feed = s.feed ∧ t.settings = s.settings

/-- R71, and the prefill timer's expiry (R72). PREFILL: the checks in their order, and the run it starts on a drive in OFF or
AUTO while the paver stands outside TRAVEL. At the expiry the drive returns to its prefill return state, to OFF with command
0, to AUTO with the command as it stands, and the timer stops. -/
def Obligations.PrefillRuns : Prop :=
  (∀ (s : State) (p : Port) (item : Byte),
      (4 ≤ item.toNat →
          ∃ t, exec (.prefill p item) s = .next t ∧ answeredOnly s t p { code := .refused, data := [] }
            ∧ changesOnly [.ports] s t)
        ∧ ∀ d, item = BitVec.ofNat 8 (driveIndex d).val →
            let u := s.feed.get d
            let allowed : Prop := p = .m ∨ p = stationOfSide (sideOfDrive d)
            let able : Prop :=
              s.settings.mode ≠ .travel ∧ (u.state = .off ∨ u.state = .auto) ∧ s.travel.moving = false
            (¬allowed →
                ∃ t, exec (.prefill p item) s = .next t ∧ answeredOnly s t p { code := .notAllowed, data := [] }
                  ∧ changesOnly [.ports] s t)
              ∧ (allowed → ¬able →
                ∃ t, exec (.prefill p item) s = .next t ∧ answeredOnly s t p { code := .notNow, data := [] }
                  ∧ changesOnly [.ports] s t)
              ∧ (allowed → able →
                ∃ t, exec (.prefill p item) s = .next t ∧ answeredOnly s t p { code := .ok, data := [] }
                  ∧ t.feed = s.feed.set d
                      { u with
                        state := .prefill, returnAuto := decide (u.state = .auto), prefillDue := some (s.now + 6000000) }
                  ∧ changesOnly [.feed, .ports] s t))
    ∧ (∀ (s : State) (d : Drive), (s.feed.get d).state = .prefill →
        let u := s.feed.get d
        ∃ t, exec (.prefillTimerExpiry d) s = .next t
          ∧ (u.returnAuto = true → t.feed = s.feed.set d { u with state := .auto, prefillDue := none })
          ∧ (u.returnAuto = false →
              t.feed = s.feed.set d
                { u with state := .off, command := 0, previous := u.command, openLoop := false, prefillDue := none })
          ∧ changesOnly [.feed, .now] s t)

/-- R70 and R109. CLEAR-FAULT: the checks in their order; a drive in FAULT goes to OFF with command 0, its cause kept; a zone in
FAULT_OPEN, or in FAULT_WELDED with its sense input off, goes to IDLE with both mismatch counts 0 and its output off. -/
def Obligations.ClearFault : Prop :=
  ∀ (s : State) (p : Port) (item : Byte) (pins : Pins),
    let answers : AnswerCode → Prop := fun code =>
      ∃ t, exec (.clearFault p item pins) s = .next t ∧ answeredOnly s t p { code := code, data := [] }
        ∧ t.pins = pins ∧ changesOnly [.ports, .pins] s t
    (4 ≤ item.toNat ∧ item.toNat < 16 ∨ 28 ≤ item.toNat → answers .refused)
      ∧ (∀ d, item = BitVec.ofNat 8 (driveIndex d).val →
          let u := s.feed.get d
          let allowed : Prop := p = .m ∨ p = stationOfSide (sideOfDrive d)
          (¬allowed → answers .notAllowed)
            ∧ (allowed → u.state ≠ .fault → answers .notNow)
            ∧ (allowed → u.state = .fault →
              ∃ t, exec (.clearFault p item pins) s = .next t ∧ answeredOnly s t p { code := .ok, data := [] }
                ∧ t.feed = s.feed.set d
                    { u with
                      state := .off, command := 0, previous := u.command, openLoop := false, overcurrentCount := 0,
                      notRunningCount := 0, runawayCount := 0, prefillDue := none }
                ∧ t.pins = pins ∧ changesOnly [.feed, .ports, .pins] s t))
      ∧ ∀ k : Fin 12, item = BitVec.ofNat 8 (16 + k.val) →
          let z := s.zones[k]
          let allowed : Prop := p = .m ∨ p = .l ∧ k.val < 8 ∨ p = .r ∧ (k.val < 4 ∨ 8 ≤ k.val)
          let able : Prop := z.state = .faultOpen ∨ z.state = .faultWelded ∧ pins.sense.getLsbD k.val = false
          (¬allowed → answers .notAllowed)
            ∧ (allowed → ¬able → answers .notNow)
            ∧ (allowed → able →
              ∃ t, exec (.clearFault p item pins) s = .next t ∧ answeredOnly s t p { code := .ok, data := [] }
                ∧ t.zones = s.zones.set k { z with state := .idle, openCount := 0, weldCount := 0, output := false }
                ∧ t.pins = pins ∧ changesOnly [.zones, .ports, .pins] s t)

/-! ### Heating (chapters 5 and 6) -/

/-- R84, R85 and R86, with R81, R82 and R87: a slice start forms the budget, decides the grants in grant order by one pass,
switches the outputs and starts the slice and readback timers. A zone is granted when it is a candidate and its rated power
fits in A beside the rated powers of the zones granted before it in grant order. The slice timer's expiry starts slices 1 to
31; slice 0 is started by a cycle boundary. Where the time base stands after the expiry, `StepOnAnEmptyQueue` says. -/
def Obligations.SliceStart : Prop :=
  (∀ s : State,
      let t := startSlice s
      (let zone : Fin 12 → ZoneUnit := fun k => s.zones[k]
        let rated : Fin 12 → Nat := fun k => s.settings.zones[k].rated
        let granted : Fin 12 → Bool := fun k => t.heat.grants.getLsbD k.val
        let total : (Fin 12 → Bool) → Nat := fun f => (((List.finRange 12).filter f).map rated).sum
        let candidate : Fin 12 → Prop := fun k =>
          s.heat.tripped = false ∧ (zone k).state = .heating ∧ s.travel.activity.getLsbD k.val = true
            ∧ 0 < (zone k).remaining
        let before : Fin 12 → Fin 12 → Bool := fun a b =>
          decide (0 < (zone a).boost ∧ (zone b).boost = 0)
            || decide ((0 < (zone a).boost ↔ 0 < (zone b).boost)
                 ∧ ((zone b).remaining < (zone a).remaining
                     ∨ (zone a).remaining = (zone b).remaining ∧ a.val < b.val))
        (t.heat.budget : Int) = max 0 ((s.heat.effective : Int) - s.heat.feedLoad - s.settings.reserve)
          ∧ t.heat.welded = total (fun k => decide ((zone k).state = .faultWelded))
          ∧ t.heat.available = (t.heat.budget : Int) - t.heat.welded
          ∧ (∀ k, granted k = true ↔
              candidate k
                ∧ ((total (fun j => granted j && before j k) : Nat) : Int) + (rated k : Int) ≤ t.heat.available)
          ∧ t.heat.grantedPower = total granted
          ∧ (t.heat.grants = 0#12 ∨ t.heat.grantedPower + t.heat.welded ≤ t.heat.budget)
          ∧ t.heat = { s.heat with
              budget := t.heat.budget, welded := t.heat.welded
              available := t.heat.available, grants := t.heat.grants, grantedPower := t.heat.grantedPower }
          ∧ ∀ k : Fin 12,
              (granted k = true →
                t.zones[k] = { zone k with
                  remaining := (zone k).remaining - 1, granted := (zone k).granted + 1
                  output := true, sliceCommand := true })
              ∧ (granted k = false → t.zones[k] = { zone k with output := false, sliceCommand := false }))
        ∧ t.timers = { s.timers with slice := some (s.now + 25000), readback := some (s.now + 10000) }
        ∧ changesOnly [.heat, .zones, .timers] s t)
    ∧ ∀ s : State, s.heat.running = true → s.heat.slice < 31 →
        ∃ u, u.heat = { s.heat with slice := s.heat.slice + 1 } ∧ changesOnly [.heat, .now] s u
          ∧ exec .sliceStart s = .next (startSlice u)

/-- R77, R99, R100, R101 and R102, with the end of the power-on wait (R78): a cycle boundary is the next cycle number, the mark
cleared, the history aged, every zone started, and then slice 0. Only the boundary at the end of slice 31 closes a cycle: it
sets the starved counts and raises STARVING. The boundary at the return from TRAVEL and at RESTART is startHeating. Where the
time base stands after an expiry, `StepOnAnEmptyQueue` says. -/
def Obligations.CycleBoundary : Prop :=
  ∀ s : State,
    let entry : Fin 12 → ResultEntry := fun k => s.seq.results[(⟨19 + k.val, by omega⟩ : Fin 34)]
    let usable : Fin 12 → Option Int := fun k =>
      if (entry k).quality = .good then some (entry k).value else s.zones[k].lastGood
    let missed : Fin 12 → Nat := fun k =>
      if (entry k).quality = .good then 0
      else if (entry k).round = 0 then s.zones[k].missed
      else min 255 (s.zones[k].missed + 1)
    let asked : Fin 12 → Nat := fun k =>
      let c := s.settings.zones[k]
      match usable k with
      | none => 0
      | some temp =>
        if c.enabled = false ∨ c.setpoint = 0 ∨ s.travel.activity.getLsbD k.val = false then 0
        else if temp ≤ (c.setpoint : Int) - c.band then 32
        else if (c.setpoint : Int) ≤ temp then 0
        else ((32 * ((c.setpoint : Int) - temp) + (c.band : Int) / 2) / c.band).toNat
    let after : Fin 12 → ZoneState × Nat := fun k =>
      if s.zones[k].state = .faultOpen ∨ s.zones[k].state = .faultWelded then (s.zones[k].state, 0)
      else if 3 ≤ missed k then (.sensorLost, 0)
      else if s.zones[k].state = .sensorLost then (.idle, 0)
      else if 0 < asked k then (.heating, asked k)
      else (.idle, 0)
    let starts : Bool → State → Prop := fun closes u =>
      u.heat = { s.heat with
          running := true, cycle := (s.heat.cycle + 1) % 65536, slice := 0, tripped := false
          history := s.heat.history.filter fun e => ((s.heat.cycle + 1) % 65536 + 65536 - e) % 65536 < 10 }
        ∧ (∀ k : Fin 12, u.zones[k] = { s.zones[k] with
            state := (after k).1, demand := (after k).2, remaining := (after k).2, granted := 0
            starved := if closes then s.zones[k].remaining else s.zones[k].starved
            boost := s.zones[k].boost - 1, usable := usable k
            lastGood := if (entry k).quality = .good then some (entry k).value else s.zones[k].lastGood
            missed := missed k
            output := s.zones[k].output && decide ((after k).1 = .heating) })
        ∧ (∀ q,
            let p := s.ports.get q
            let mask := s.settings.masks.get q
            let p1 := if closes = true ∧ ∃ k : Fin 12, 0 < s.zones[k].remaining then portRaised mask .starving p else p
            u.ports.get q =
              if ∃ k : Fin 12, s.zones[k].state ≠ .sensorLost ∧ (after k).1 = .sensorLost then
                portRaised mask .zoneFault p1
              else p1)
        ∧ (s.record.current = none → u.record = s.record)
        ∧ (∀ r, s.record.current = some r →
            ∃ r', u.record = { s.record with current := some r' }
              ∧ r' = { r with starved := r'.starved, faulted := r'.faulted }
              ∧ ∀ k : Fin 12,
                  (r'.starved.getLsbD k.val = true ↔
                    r.starved.getLsbD k.val = true ∨ closes = true ∧ 0 < s.zones[k].remaining)
                  ∧ (r'.faulted.getLsbD k.val = true ↔
                    r.faulted.getLsbD k.val = true ∨ s.zones[k].state ≠ .sensorLost ∧ (after k).1 = .sensorLost))
        ∧ changesOnly [.heat, .zones, .ports, .record, .timers, .now] s u
    (s.heat.running = true → 31 ≤ s.heat.slice →
        ∃ u, starts true u ∧ u.timers = s.timers ∧ exec .sliceStart s = .next (startSlice u))
      ∧ (∀ due, s.timers.heatingWait = some due → s.settings.mode ≠ .travel →
        ∃ u, starts false u ∧ u.timers = { s.timers with heatingWait := none }
          ∧ exec .heatingWaitEnd s = .next (startSlice u))
      ∧ (∃ u, starts false u ∧ u.timers = s.timers ∧ u.now = s.now ∧ startHeating s = startSlice u)
      ∧ ∀ due, s.timers.heatingWait = some due → s.settings.mode = .travel →
        ∃ t, exec .heatingWaitEnd s = .next t ∧ t.timers = { s.timers with heatingWait := none }
          ∧ changesOnly [.timers, .now] s t

/-- R89, R92 and R93: a trip raises HEAT_TRIP and is reported; while RUNNING it takes every output off, empties the grants and
trips the cycle, whose first trip enters the history; the third entry lowers the derate step and raises DERATED. The
application of the written capacity (R79, R80): it is stored, the derate step is 100, the history empty, the effective
capacity formed anew; the tripped mark and everything else of the heat grant unit stand. -/
def Obligations.TripsAndDerating : Prop :=
  (∀ (s : State) (phase : Fin 3),
      let derates : Prop := s.heat.running = true ∧ s.heat.tripped = false ∧ s.heat.cycle ∉ s.heat.history
        ∧ 2 ≤ s.heat.history.length
      let step : Nat := if 50 < s.heat.derate then s.heat.derate - 10 else s.heat.derate
      ∃ t, exec (.trip phase) s = .next t
        ∧ t.pins = { s.pins with trip := s.pins.trip ||| (1#3 <<< phase.val) }
        ∧ (s.record.current = none → t.record = s.record)
        ∧ (∀ r, s.record.current = some r →
            t.record = { s.record with current := some { r with trips := min 15 (r.trips + 1) } })
        ∧ (∀ q,
            let p := portRaised (s.settings.masks.get q) .heatTrip (s.ports.get q)
            (derates ∧ 50 < s.heat.derate → t.ports.get q = portRaised (s.settings.masks.get q) .derated p)
              ∧ (¬(derates ∧ 50 < s.heat.derate) → t.ports.get q = p))
        ∧ (s.heat.running = false → t.heat = s.heat ∧ t.zones = s.zones)
        ∧ (s.heat.running = true →
            (∀ k : Fin 12, t.zones[k] = { s.zones[k] with output := false })
            ∧ (s.heat.tripped = true → t.heat = { s.heat with grants := 0#12, grantedPower := 0 })
            ∧ (s.heat.tripped = false → s.heat.cycle ∉ s.heat.history → s.heat.history.length < 2 →
                t.heat = { s.heat with
                  grants := 0#12, grantedPower := 0, tripped := true, history := s.heat.history ++ [s.heat.cycle] })
            ∧ (derates →
                t.heat = { s.heat with
                  grants := 0#12, grantedPower := 0, tripped := true, history := [], derate := step
                  effective := s.settings.capacity * step / 100 }))
        ∧ changesOnly [.heat, .zones, .record, .ports, .pins] s t)
    ∧ (∀ (s : State) (p : Port) (e : PostEntry) (rest : List PostEntry),
        (s.ports.get p).queue = e :: rest → e.item = .writtenCapacity →
          ∃ t, exec (.application p) s = .next t
            ∧ t.settings = { s.settings with capacity := e.value.toNat }
            ∧ t.heat = { s.heat with derate := 100, history := [], effective := e.value.toNat * 100 / 100 }
            ∧ changesOnly [.heat, .settings, .ports, .now] s t)

/-- R106, R107 and R108: a readback judges every zone whose output command stands as at the slice start; the second open mismatch
in a row puts a zone in HEATING in FAULT_OPEN with its output off, the second welded mismatch in a row puts a zone in
FAULT_WELDED; an entry raises ZONE_FAULT and is reported. -/
def Obligations.Readback : Prop :=
  ∀ (s : State) (pins : Pins), s.heat.running = true →
    ∃ t, exec (.readback pins) s = .next t
      ∧ (∀ k : Fin 12,
          let z := s.zones[k]
          let sense := pins.sense.getLsbD k.val
          (z.output ≠ z.sliceCommand ∨ z.state = .off ∨ z.state = .faultWelded → t.zones[k] = z)
          ∧ (z.output = true → z.sliceCommand = true → z.state = .heating →
              (sense = true → t.zones[k] = { z with openCount := 0 })
              ∧ (sense = false → z.openCount = 0 → t.zones[k] = { z with openCount := 1 })
              ∧ (sense = false → z.openCount ≠ 0 →
                  t.zones[k] = { z with state := .faultOpen, openCount := 0, output := false }))
          ∧ (z.output = false → z.sliceCommand = false →
              z.state = .idle ∨ z.state = .heating ∨ z.state = .sensorLost ∨ z.state = .faultOpen →
              (sense = false → t.zones[k] = { z with weldCount := 0 })
              ∧ (sense = true → z.weldCount = 0 → t.zones[k] = { z with weldCount := 1 })
              ∧ (sense = true → z.weldCount ≠ 0 →
                  t.zones[k] = { z with state := .faultWelded, openCount := 0, weldCount := 0 })))
      ∧ (let entered : Fin 12 → Prop := fun k =>
          s.zones[k].state ≠ t.zones[k].state ∧ (t.zones[k].state = .faultOpen ∨ t.zones[k].state = .faultWelded)
        raisedOnly s t (fun _ => ∃ k, entered k) .zoneFault
          ∧ (s.record.current = none → t.record = s.record)
          ∧ ∀ r, s.record.current = some r →
              ∃ r', t.record = { s.record with current := some r' } ∧ r' = { r with faulted := r'.faulted }
                ∧ ∀ k : Fin 12, r'.faulted.getLsbD k.val = true ↔ r.faulted.getLsbD k.val = true ∨ entered k)
      ∧ t.timers = { s.timers with readback := none } ∧ t.pins = pins
      ∧ changesOnly [.zones, .ports, .record, .timers, .pins, .now] s t

/-! ### Scanner, strip records and the record store (chapters 7 and 8) -/

/-- R116. The check word: one bit shifts the register up and inverts bits 12, 5 and 0 when the compared bits differed; over a
sequence and its own check word the register ends at 0. -/
def Obligations.CheckWord : Prop :=
  (∀ (reg : Word) (bit : Bool),
      crcBit reg bit = (if reg.msb = bit then reg <<< 1 else (reg <<< 1) ^^^ 0x1021#16))
    ∧ (∀ reg w : Word, crcWord reg w =
        crcBit (crcBit (crcBit (crcBit (crcBit (crcBit (crcBit (crcBit
          (crcBit (crcBit (crcBit (crcBit (crcBit (crcBit (crcBit (crcBit reg
            (w.getLsbD 15)) (w.getLsbD 14)) (w.getLsbD 13)) (w.getLsbD 12))
            (w.getLsbD 11)) (w.getLsbD 10)) (w.getLsbD 9)) (w.getLsbD 8))
            (w.getLsbD 7)) (w.getLsbD 6)) (w.getLsbD 5)) (w.getLsbD 4))
            (w.getLsbD 3)) (w.getLsbD 2)) (w.getLsbD 1)) (w.getLsbD 0))
    ∧ checkWord [] = 0xFFFF#16
    ∧ (∀ (ws : List Word) (w : Word), checkWord (ws ++ [w]) = crcWord (checkWord ws) w)
    ∧ ∀ ws : List Word, checkWord (ws ++ [checkWord ws]) = 0#16

/-- R117 and R119, with the end of scanner-lost (R118): a run of 66 words with the right check word whose line number does not
repeat the previous one is a valid line, any other run a rejected one. A valid line is binned while a record is open and the
paver moves: each column of the record takes its pixels, limited to 3000, while its count is below 65535. It holds in either
state of the reception; that a SCANNER_LINE is judged while the reception is IDLE is the model's choice (log entry 32). -/
def Obligations.ScannerLine : Prop :=
  ∀ (s : State) (bytes : List Byte) (framed : Bool),
    let valid : Word → List Word → Prop := fun w pixels =>
      framed = true ∧ pixels.length = 64
        ∧ bytes = ((w :: pixels) ++ [checkWord (w :: pixels)]).flatMap wordBytes
        ∧ s.scan.previousLine ≠ some (w.extractLsb' 0 8)
    let accepted : Word → Scan := fun w =>
      { s.scan with
        receiving := false, validTotal := (s.scan.validTotal + 1) % 65536, lost := false
        previousLine := some (w.extractLsb' 0 8) }
    (∀ w pixels, valid w pixels →
        ∃ t, exec (.scannerLine bytes framed) s = .next t
          ∧ t.timers = { s.timers with silence := some (s.now + 100000) }
          ∧ (s.record.current = none ∨ s.travel.moving = false → t.scan = accepted w)
          ∧ (∀ r, s.record.current = some r → s.travel.moving = true →
              let here : Nat × Word → Option Nat := fun pw =>
                let x : Int := s.settings.record.origin + pw.1 * s.settings.record.pitch
                if pw.2 ≠ 0xFFFF#16 ∧ r.x0 ≤ x ∧ x < r.x0 + 250 * r.columns then some ((x - r.x0) / 250).toNat else none
              let taken : Nat → List Nat := fun c =>
                ((pixels.zipIdx.filter fun pw => here (pw.2, pw.1) = some c).map fun pw => min 3000 pw.1.toNat)
              t.scan = { accepted w with
                  linesBinned := min 255 (s.scan.linesBinned + 1), columns := t.scan.columns, minimum := t.scan.minimum }
                ∧ t.scan.columns.length = s.scan.columns.length
                ∧ ((∀ col ∈ s.scan.columns, col.count + 64 ≤ 65535) →
                    t.scan.minimum =
                      (s.scan.minimum.toList
                        ++ ((pixels.zipIdx.filter fun pw => (here (pw.2, pw.1)).isSome).map fun pw =>
                            min 3000 pw.1.toNat)).min?)
                ∧ ∀ (c : Nat) (col : Column), s.scan.columns[c]? = some col →
                    t.scan.columns[c]? = some
                      ({ sum := col.sum + ((taken c).take (65535 - col.count)).sum
                         count := col.count + ((taken c).take (65535 - col.count)).length } : Column))
          ∧ changesOnly [.scan, .timers] s t)
      ∧ ((¬∃ w pixels, valid w pixels) →
        ∃ t, exec (.scannerLine bytes framed) s = .next t
          ∧ t.scan = { s.scan with
              receiving := false, rejectedTotal := (s.scan.rejectedTotal + 1) % 65536
              linesRejected :=
                if s.record.current.isSome then min 15 (s.scan.linesRejected + 1) else s.scan.linesRejected }
          ∧ changesOnly [.scan] s t)

/-- The start of a run on the link (R178), which makes the reception RECEIVING, and the expiry of the silence timer (R118): while
scanner-lost is clear it sets it, raises SCANNER_LOST on all ports and sets the flag of the open record. -/
def Obligations.ScannerLink : Prop :=
  (∀ s : State, ∃ t, exec .scannerRunStart s = .next t
      ∧ t.scan = { s.scan with receiving := true } ∧ changesOnly [.scan] s t)
    ∧ ∀ s : State, s.scan.lost = false →
        ∃ t, exec .scannerSilenceExpiry s = .next t
          ∧ t.scan = { s.scan with lost := true }
          ∧ t.timers = { s.timers with silence := none }
          ∧ raisedOnly s t (fun _ => True) .scannerLost
          ∧ (s.record.current = none → t.record = s.record)
          ∧ (∀ r, s.record.current = some r →
              t.record = { s.record with current := some { r with flags := { r.flags with scannerLost := true } } })
          ∧ changesOnly [.scan, .timers, .ports, .record, .now] s t

/-- R120, and the close at a carry (R123). An open takes the record's facts from the units as they stand, clears the step's
accumulators, line counts and step maxima, and takes the next sequence number. A forward pulse that carries mm compares the
distance travelled with the step length: at or above it the record closes and the next one opens at the same event. -/
def Obligations.RecordOpen : Prop :=
  (∀ s : State,
      let t := openRecord s
      (∃ r, t.record = { s.record with current := some r, nextSequence := seqNext s.record.nextSequence }
          ∧ r.sequence = s.record.nextSequence ∧ r.start = s.travel.distance ∧ r.openTime = s.travel.seconds
          ∧ r.openedAt = s.now ∧ r.width = s.travel.width ∧ r.columns = s.travel.width / 250
          ∧ r.x0 = -1500 - (s.travel.extL : Int)
          ∧ r.speedMin = s.travel.speed ∧ r.speedMax = s.travel.speed ∧ r.pauseWindows = 0
          ∧ r.flags = { scannerLost := s.scan.lost, converterSuspect := s.seq.conditionSuspect
                        travelSuspect := s.travel.suspect, widthHeld := s.travel.widthHeld }
          ∧ r.starved = 0#12 ∧ r.trips = 0
          ∧ ∀ k : Fin 12, r.faulted.getLsbD k.val = true ↔
              s.zones[k].state = .faultOpen ∨ s.zones[k].state = .faultWelded ∨ s.zones[k].state = .sensorLost)
        ∧ t.scan = { s.scan with
            columns := List.replicate (s.travel.width / 250) { sum := 0, count := 0 }, minimum := none, linesBinned := 0
            linesRejected := 0 }
        ∧ (∀ sd, t.lev.get sd = { s.lev.get sd with stepMax := 0 })
        ∧ changesOnly [.record, .scan, .lev] s t)
    ∧ (∀ n : Nat, seqNext n = if n = 4294967295 then 1 else n + 1)
    ∧ ∀ (s : State) (r : OpenRecord), s.record.current = some r →
        let left := s.settings.travelPulse - s.travel.reversePending
        let carried := (s.travel.remainder + left) / 100
        0 < carried → s.travel.distance + carried ≤ 4294967295 →
          ∃ u, u.travel.distance = s.travel.distance + carried ∧ changesOnly [.travel] s u
            ∧ (s.settings.record.stepLength ≤ u.travel.distance - r.start →
                exec .forwardPulse s = .next (openRecord (closeRecord false false u)))
            ∧ (u.travel.distance - r.start < s.settings.record.stepLength → exec .forwardPulse s = .next u)

/-- R126 and R129, and the fields R127 takes at the close, for a close of the open record (PARTIAL, RESTART, or by its step
length): the column words, the header kept as the latest-record summary, the boosts for the zones over cold columns, and no
record open. The record is handed to `storeRecord` (see `Storing`), whose store, header and alerts the close takes over; then
RECORD_CLOSED is raised. A length above 65535 is limited to it: the model's reading (log entry 24). Last, where R177 places
each field in the words of any record, header fields that fill less than a word within their ranges. -/
def Obligations.RecordClose : Prop :=
  (∀ (s : State) (r : OpenRecord) (partialClose restartClose : Bool), s.record.current = some r →
    let t := closeRecord partialClose restartClose s
    let cold : Column → Prop := fun c => 0 < c.count ∧ (c.sum + c.count / 2) / c.count < s.settings.record.coldLimit
    t.record.current = none
      ∧ t.record.nextSequence = s.record.nextSequence
      ∧ (∃ h columns, t.record.summary = some h
          ∧ (let handed := storeRecord { h with dropsFlag := false } (min 65535 (r.pauseWindows * 25 / 10)) columns s
            t.store = handed.1.store ∧ h = handed.2
              ∧ ∀ q, t.ports.get q = portRaised (s.settings.masks.get q) .recordClosed (handed.1.ports.get q))
          ∧ h.sequence = r.sequence ∧ h.start = r.start ∧ h.openTime = r.openTime ∧ h.width = r.width
          ∧ h.length = min 65535 (s.travel.distance - r.start)
          ∧ h.duration = min 65535 ((s.now - r.openedAt) / 100 / 100)
          ∧ h.partialClose = partialClose ∧ h.restartClose = restartClose
          ∧ h.pauseFlag = decide (0 < r.pauseWindows * 25 / 10) ∧ h.flags = r.flags
          ∧ h.linesBinned = s.scan.linesBinned ∧ h.linesRejected = s.scan.linesRejected
          ∧ h.speedMin = min 1020 r.speedMin ∧ h.speedMax = min 1020 r.speedMax
          ∧ h.leftState = s.lev.left.state ∧ h.leftMax = s.lev.left.stepMax
          ∧ h.rightState = s.lev.right.state ∧ h.rightMax = s.lev.right.stepMax
          ∧ h.starved = r.starved ∧ h.faulted = r.faulted ∧ h.trips = r.trips
          ∧ h.minimum = s.scan.minimum.getD 0
          ∧ ∃ drops,
              t.store.records.getLast? = some
                { sequence := r.sequence
                  words := recordBody h (min 65535 (r.pauseWindows * 25 / 10)) drops columns
                    ++ [checkWord (recordBody h (min 65535 (r.pauseWindows * 25 / 10)) drops columns)] }
              ∧ h.dropsFlag = decide (0 < drops)
              ∧ columns.length = s.scan.columns.length
              ∧ ∀ (c : Nat) (col : Column), s.scan.columns[c]? = some col → col.sum ≤ 3000 * col.count →
                  ∃ w, columns[c]? = some w
                    ∧ (col.count = 0 → w = 0x2000#16)
                    ∧ (0 < col.count → w.getLsbD 13 = false ∧ (w.getLsbD 12 = true ↔ cold col)
                        ∧ (w.extractLsb' 0 12).toNat = (col.sum + col.count / 2) / col.count))
      ∧ (∀ q, (t.ports.get q).pendingSet &&& alertBit .recordClosed ≠ 0#16)
      ∧ (∀ k : Fin 12,
          let boosted : Prop := restartClose = false ∧ ∃ (c : Nat) (col : Column), s.scan.columns[c]? = some col ∧ cold col
            ∧ zoneAt s.travel.extL s.travel.extR (r.x0 + 250 * c + 125) = some k
          (boosted → t.zones[k] = { s.zones[k] with boost := 2 }) ∧ (¬boosted → t.zones[k] = s.zones[k]))
      ∧ changesOnly [.record, .store, .ports, .zones] s t)
    ∧ ∀ (h : Header) (pause drops : Nat) (columns : List Word),
        let ws := recordBody h pause drops columns
        let w : Nat → Word := fun i => ws.getD i 0#16
        let extra := (if h.pauseFlag then 1 else 0) + if h.dropsFlag then 1 else 0
        let sideCode : SideState → BitVec 2 := fun u => match u with
          | .manual => 0#2
          | .auto => 1#2
          | .lost => 2#2
        ws.length = 16 + extra + columns.length
          ∧ w 0 ++ w 1 = BitVec.ofNat 32 h.sequence ∧ w 2 ++ w 3 = BitVec.ofNat 32 h.start
          ∧ w 4 = BitVec.ofNat 16 h.length ∧ w 5 ++ w 6 = BitVec.ofNat 32 h.openTime
          ∧ w 7 = BitVec.ofNat 16 h.duration ∧ w 8 = BitVec.ofNat 16 h.width
          ∧ (h.linesBinned ≤ 255 →
              (w 9).extractLsb' 0 8 = BitVec.ofNat 8 h.linesBinned
                ∧ (w 9).getLsbD 15 = h.partialClose ∧ (w 9).getLsbD 14 = h.restartClose
                ∧ (w 9).getLsbD 13 = h.pauseFlag ∧ (w 9).getLsbD 12 = h.dropsFlag
                ∧ (w 9).getLsbD 11 = h.flags.scannerLost ∧ (w 9).getLsbD 10 = h.flags.converterSuspect
                ∧ (w 9).getLsbD 9 = h.flags.travelSuspect ∧ (w 9).getLsbD 8 = h.flags.widthHeld)
          ∧ (h.speedMin ≤ 1020 → h.speedMax ≤ 1020 →
              (w 10).extractLsb' 8 8 = BitVec.ofNat 8 (h.speedMin / 4)
                ∧ (w 10).extractLsb' 0 8 = BitVec.ofNat 8 (h.speedMax / 4))
          ∧ (h.leftMax ≤ 16383 →
              (w 11).extractLsb' 14 2 = sideCode h.leftState ∧ (w 11).extractLsb' 0 14 = BitVec.ofNat 14 h.leftMax)
          ∧ (h.rightMax ≤ 16383 →
              (w 12).extractLsb' 14 2 = sideCode h.rightState ∧ (w 12).extractLsb' 0 14 = BitVec.ofNat 14 h.rightMax)
          ∧ w 13 = h.starved.setWidth 16
          ∧ (h.trips ≤ 15 →
              (w 14).extractLsb' 12 4 = BitVec.ofNat 4 h.trips ∧ (w 14).extractLsb' 0 12 = h.faulted)
          ∧ (h.linesRejected ≤ 15 → h.minimum ≤ 4095 →
              (w 15).extractLsb' 12 4 = BitVec.ofNat 4 h.linesRejected
                ∧ (w 15).extractLsb' 0 12 = BitVec.ofNat 12 h.minimum)
          ∧ (h.pauseFlag = true → w 16 = BitVec.ofNat 16 pause)
          ∧ (h.dropsFlag = true → w (15 + extra) = BitVec.ofNat 16 drops)
          ∧ ∀ c : Nat, c < columns.length → w (16 + extra + c) = columns.getD c 0#16

/-- R136, R137 and R128: a storing event drops base records while the free space is less than the required length, then writes
the finished record after newest with its drop count and its check word; each drop moves base on and counts, the cursor is
raised to base if it lay behind it, RECORDS_DROPPED and STORE_NEAR_FULL are raised as they are due. -/
def Obligations.Storing : Prop :=
  ∀ (s : State) (h : Header) (pause : Nat) (columns : List Word), StoreLaw s → h.dropsFlag = false →
    columns.length ≤ 36 → 1 ≤ h.sequence ∧ h.sequence ≤ 4294967295 →
    let size : List StoredRecord → Nat := fun rs => (rs.map fun r => r.words.length).sum
    let len := (recordBody h pause 0 columns).length
    let required : Nat → Nat := fun e => len + 1 + if 0 < e then 1 else 0
    let t := (storeRecord h pause columns s).1
    ∃ drops, drops ≤ s.store.records.length
      ∧ required drops ≤ 8192 - size (s.store.records.drop drops)
      ∧ (∀ e, e < drops → 8192 - size (s.store.records.drop e) < required e)
      ∧ (storeRecord h pause columns s).2 = { h with dropsFlag := decide (0 < drops) }
      ∧ (∃ words, t.store.records = s.store.records.drop drops ++ [{ sequence := h.sequence, words := words }]
          ∧ words = recordBody { h with dropsFlag := decide (0 < drops) } pause drops columns
              ++ [checkWord (recordBody { h with dropsFlag := decide (0 < drops) } pause drops columns)]
          ∧ words.length = required drops)
      ∧ t.store.newest = h.sequence
      ∧ t.store.base = seqAfter s.store.base drops
      ∧ (∀ k, k ≤ s.store.records.length → s.store.cursor = seqAfter s.store.base k →
          t.store.cursor = seqAfter s.store.base (max k drops))
      ∧ t.store.droppedTotal = min 65535 (s.store.droppedTotal + drops)
      ∧ t.store.eventDrops = 0 ∧ t.store.slot = s.store.slot
      ∧ (∀ q,
          let mask := s.settings.masks.get q
          let p1 := if 0 < drops then portRaised mask .recordsDropped (s.ports.get q) else s.ports.get q
          t.ports.get q =
            if size s.store.records < 6144 ∧ 6144 ≤ size t.store.records then portRaised mask .storeNearFull p1 else p1)
      ∧ changesOnly [.store, .ports] s t

/-- R138, R139 and R140: FETCH by the held slot and the cursor, the copy completion, the expiry of a held answer. The delivered
copy empties the slot and moves the cursor after it when the cursor lies at it or behind it; a cursor that lies beyond keeps its
place, as it does when drops have taken the copied record, since they raised the cursor to base. Where the time base stands after
a completion or expiry, `StepOnAnEmptyQueue` says. -/
def Obligations.FetchAndCopy : Prop :=
  (∀ (s : State) (p : Port),
      let held := s.store.records[seqDistance s.store.base s.store.cursor]?
      let answers : Port → AnswerCode → List Byte → State → Prop := fun q code data t =>
        exec (.fetch q) s = .next t ∧ answeredOnly s t q { code := code, data := data }
      (p ≠ .d → ∃ t, answers p .notAllowed [] t ∧ changesOnly [.ports] s t)
        ∧ (∀ r due, s.store.slot = .ready r due →
            ∃ t, answers .d .ok (r.words.flatMap wordBytes) t
              ∧ t.store = { s.store with slot := .empty, cursor := t.store.cursor }
              ∧ (∀ k, StoreLaw s → k ≤ s.store.records.length → s.store.cursor = seqAfter s.store.base k →
                  (∀ j, j < s.store.records.length → r.sequence = seqAfter s.store.base j →
                    t.store.cursor = if k ≤ j then seqNext r.sequence else s.store.cursor)
                  ∧ ((∀ j, j < s.store.records.length → r.sequence ≠ seqAfter s.store.base j) →
                    t.store.cursor = s.store.cursor))
              ∧ changesOnly [.store, .ports] s t)
        ∧ (∀ r due, s.store.slot = .copying r due → ∃ t, answers .d .retry [] t ∧ changesOnly [.ports] s t)
        ∧ (s.store.slot = .empty → held = none → ∃ t, answers .d .empty [] t ∧ changesOnly [.ports] s t)
        ∧ (∀ r, s.store.slot = .empty → held = some r →
            ∃ t, answers .d .retry [] t
              ∧ t.store = { s.store with slot := .copying r (s.now + 4 * r.words.length) }
              ∧ changesOnly [.store, .ports] s t))
    ∧ (∀ (s : State) (r : StoredRecord) (due : Nat), s.store.slot = .copying r due →
        ∃ t, exec .copyCompletion s = .next t ∧ t.store = { s.store with slot := .ready r (t.now + 200000) }
          ∧ changesOnly [.store, .now] s t)
    ∧ ∀ (s : State) (r : StoredRecord) (due : Nat), s.store.slot = .ready r due →
        ∃ t, exec .heldAnswerExpiry s = .next t ∧ t.store = { s.store with slot := .empty }
          ∧ changesOnly [.store, .now] s t

/-- R142 and R143: RELEASE placed against base along the numbering (R135), and REWIND. The distance of R135 lies in
0..4 294 967 294, and that many numbers on from base stands the number compared. -/
def Obligations.ReleaseAndRewind : Prop :=
  (∀ base n : Nat, 1 ≤ base → base ≤ 4294967295 → 1 ≤ n → n ≤ 4294967295 →
      seqDistance base n ≤ 4294967294 ∧ seqAfter base (seqDistance base n) = n)
    ∧ ∀ (s : State) (p : Port),
    (∀ sequence : DWord,
        let d := seqDistance s.store.base sequence.toNat
        let answers : AnswerCode → State → Prop := fun code t =>
          exec (.release p sequence) s = .next t ∧ answeredOnly s t p { code := code, data := [] }
        (p ≠ .d → ∃ t, answers .notAllowed t ∧ changesOnly [.ports] s t)
          ∧ (p = .d → sequence = 0#32 → ∃ t, answers .refused t ∧ changesOnly [.ports] s t)
          ∧ (p = .d → sequence ≠ 0#32 → d = 0 → s.store.records = [] →
              ∃ t, answers .order t ∧ t.store = { s.store with slot := .empty } ∧ changesOnly [.store, .ports] s t)
          ∧ (∀ r rest, p = .d → sequence ≠ 0#32 → d = 0 → s.store.records = r :: rest →
              ∃ t, answers .ok t ∧ t.store.records = rest ∧ t.store.base = seqNext s.store.base
                ∧ t.store.slot = .empty ∧ t.store.newest = s.store.newest
                ∧ t.store.droppedTotal = s.store.droppedTotal
                ∧ (∀ k, StoreLaw s → k ≤ s.store.records.length → s.store.cursor = seqAfter s.store.base k →
                    t.store.cursor = if k = 0 then seqNext s.store.base else s.store.cursor)
                ∧ changesOnly [.store, .ports] s t)
          ∧ (p = .d → sequence ≠ 0#32 → 0 < d → d ≤ 2147483647 →
              ∃ t, answers .order t ∧ t.store = { s.store with slot := .empty } ∧ changesOnly [.store, .ports] s t)
          ∧ (p = .d → sequence ≠ 0#32 → 2147483647 < d →
              ∃ t, answers .gone t ∧ t.store = { s.store with slot := .empty } ∧ changesOnly [.store, .ports] s t))
      ∧ (p ≠ .d →
          ∃ t, exec (.rewind p) s = .next t ∧ answeredOnly s t p { code := .notAllowed, data := [] }
            ∧ changesOnly [.ports] s t)
      ∧ (p = .d →
          ∃ t, exec (.rewind p) s = .next t ∧ answeredOnly s t p { code := .ok, data := [] }
            ∧ t.store = { s.store with cursor := s.store.base, slot := .empty } ∧ changesOnly [.store, .ports] s t)

/-! ### Settings and station ports (chapters 9 and 10) -/

/-- R150 (with R147, R148 and R149), and the place of the entry in the post queue (R165): the checks of a WRITE in their order.
The entry falls due 2 ms after the end of the exchange (R152), which comes a free time after the take (log entry 5); a 16-bit
value is read signed where its range has a negative bound (log entry 10). Then the tables the checks read: the defined values of
enumerated and set-valued settings (R151, R176), the range of every numeric one (9.1 with 3.1, 4.1, 6.1, 7.6, R4 and R18), and
the group of each setting by its item number (9.1, R176). -/
def Obligations.Write : Prop :=
  (∀ (s : State) (p : Port) (item : Byte) (value : Word),
    let number := (match (s.ports.get p).page with
      | none => 0
      | some g => g.val) * 256 + item.toNat
    let answers : AnswerCode → Prop := fun code =>
      ∃ t, exec (.write p item value) s = .next t ∧ answeredOnly s t p { code := code, data := [] }
        ∧ changesOnly [.ports] s t
    let allowed : Setting → Prop := fun st =>
      match st with
      | .alertMask q => p = q
      | _ =>
        match st.group with
        | 1 | 4 | 6 => p = .m ∨ p = .l
        | 2 | 5 | 7 => p = .m ∨ p = .r
        | 3 => p ≠ .d
        | 8 => p = .m ∨ p = .d
        | _ => p = .m
    let guarded : Setting → Prop := fun st =>
      p ≠ .m ∧ 1 ≤ st.group ∧ st.group ≤ 8 ∧ s.settings.guard.getLsbD st.group = true
    let locked : Setting → Prop := fun st =>
      s.settings.calLock = true ∧ (st.group = 9 ∨ st = .calLock ∧ value = 0#16)
    let full : Prop := 4 ≤ (s.ports.get p).queue.length
    (settingAt number = none → statusAt (takeRequest p s) number = none → answers .noItem)
      ∧ (settingAt number = none → statusAt (takeRequest p s) number ≠ none → answers .notAllowed)
      ∧ ∀ st, settingAt number = some st →
          (¬allowed st → answers .notAllowed)
            ∧ (allowed st → guarded st → answers .guarded)
            ∧ (allowed st → ¬guarded st → locked st → answers .locked)
            ∧ (allowed st → ¬guarded st → ¬locked st → st.defined value = false → answers .refused)
            ∧ (allowed st → ¬guarded st → ¬locked st → st.defined value = true → full → answers .full)
            ∧ (allowed st → ¬guarded st → ¬locked st → st.defined value = true → ¬full →
              ∃ t posted clamped, exec (.write p item value) s = .next t
                ∧ (st.range s.settings = none → posted = value ∧ clamped = false)
                ∧ (∀ lo hi, st.range s.settings = some (lo, hi) →
                    let x : Int := if 0 ≤ lo then (value.toNat : Int) else value.toInt
                    let y : Int := if x < lo then lo else if hi < x then hi else x
                    posted = BitVec.ofInt 16 y ∧ clamped = decide (x < lo ∨ hi < x))
                ∧ t.ports = s.ports.set p
                    { portAnswered s p
                        { code := if clamped then .clamped else .accepted, data := wordBytes posted } with
                      queue := (s.ports.get p).queue
                        ++ [{ item := st, value := posted, clamped := clamped
                              due := s.now + Config.exchangeTail s.free + 200 }] }
                ∧ t.free = s.free + 1
                ∧ changesOnly [.ports, .free] s t))
    ∧ (∀ (st : Setting) (v : Word),
        st.defined v = true ↔
          match st with
          | .machineMode | .side _ .refMode | .drive _ .request => v.toNat ≤ 2
          | .calLock | .zone _ .enable => v.toNat ≤ 1
          | .guardMask => ∀ b, v.getLsbD b = true → 1 ≤ b ∧ b ≤ 8
          | .side _ .heads => v ≠ 0#16 ∧ ∀ b, v.getLsbD b = true → b ≤ 3
          | _ => True)
    ∧ (∀ (table : Settings) (st : Setting),
        st.range table =
          match st with
          | .machineMode | .calLock | .guardMask | .alertMask _ | .side _ .refMode | .side _ .heads | .zone _ .enable
          | .drive _ .request => none
          | .side sd .maxDuty => some (((table.sides.get sd).minDuty : Int), 1000)
          | .side _ .minDuty => some (0, 400)
          | .side _ .deadBand => some (0, 50)
          | .side _ .propBand | .drive _ .rampStep => some (10, 200)
          | .side _ .offset => some (-500, 500)
          | .side _ .slopeTarget => some (-1000, 1000)
          | .zone _ .setpoint => some (0, 1800)
          | .zone _ .band | .zone _ .rated => some (10, 500)
          | .reserve | .drive _ .manual => some (0, 1000)
          | .writtenCapacity => some (0, 6000)
          | .busVoltage => some (100, 800)
          | .drive _ .target => some (0, 600)
          | .drive _ .ratio => some (0, 500)
          | .drive _ .gain => some (0, 200)
          | .drive _ .currentLimit => some (10, 1000)
          | .record .stepLength => some (250, 5000)
          | .record .coldLimit => some (0, 3000)
          | .record .origin => some (-6000, 6000)
          | .record .pitch => some (10, 300)
          | .calibration _ .zeroCount | .calibration _ .fullCount => some (0, 4095)
          | .calibration _ .zeroValue | .calibration _ .fullValue => some (-32768, 32767)
          | .travelPulse | .radarPulse => some (1, 2000))
    ∧ ∀ st : Setting,
        let n := st.number
        st.group =
          if n ≤ 8 then 0 else if n = 10 then 10 else if n ≤ 23 then 1 else if n ≤ 39 then 2 else if n ≤ 63 then 3
          else if n ≤ 79 then 4 else if n ≤ 95 then 5 else if n ≤ 109 then 6 else if n ≤ 125 then 7 else if n ≤ 131 then 8
          else 9

/-- R152, R153 and R154: an application takes the head entry of its port's queue, 2 ms after the end of the exchange that posted
it and 2 ms after the port's previous application at the earliest. A reference mode SLOPE fails its check while the other side
holds SLOPE, and raises SETTING_REJECTED on its own port only. Every other entry, whatever its item, is stored, leaves the
queue, becomes the port's last applied item with its clamped mark, and raises SETTING_CHANGED on the three other ports. What is
stored reads back, and no other item changes (R153, R158), but that a SET calibration lock stays SET (R149) and that the pair of
duties stays in order (R36). Then the whole next state for the items without a further effect at once, for an alert enable mask,
whose port's line follows it (R157, R169), and for a zone enable (R97). That the time base moves to the time of the application
is log entry 3, and that an application taken past its time happens at the take, from which the port's next one counts, is log
entry 30: these are the model's choices. -/
def Obligations.ApplicationOfAnEntry : Prop :=
  (∀ (s : State) (p : Port) (e : PostEntry) (rest : List PostEntry), (s.ports.get p).queue = e :: rest →
    let fails : Prop := ∃ sd, e.item = .side sd .refMode ∧ e.value = BitVec.ofNat 16 RefMode.slope.code
      ∧ (s.settings.sides.get (match sd with
          | .left => .right
          | .right => .left)).refMode = .slope
    let storedOnly : Prop := match e.item with
      | .machineMode | .writtenCapacity | .alertMask _ | .side _ .refMode | .side _ .minDuty | .side _ .maxDuty
      | .zone _ .enable | .drive _ .request => False
      | _ => True
    ∃ t, exec (.application p) s = .next t
      ∧ t.now = max s.now (max e.due (s.ports.get p).applyAfter)
      ∧ (fails →
          t.ports = s.ports.set p
              (portRaised (s.settings.masks.get p) .settingRejected
                { s.ports.get p with queue := rest, applyAfter := t.now + 200, lastRejected := some e.item })
            ∧ changesOnly [.ports, .now] s t)
      ∧ (let taken : PortState :=
          { s.ports.get p with
            queue := rest, applyAfter := t.now + 200, lastApplied := some e.item, lastClamped := e.clamped }
        (¬fails →
          t.settings = s.settings.write e.item e.value
            ∧ t.ports.get p =
                { taken with pendingSet := (t.ports.get p).pendingSet, line := (t.ports.get p).line }
            ∧ ∀ q, q ≠ p →
                t.ports.get q =
                  { s.ports.get q with pendingSet := (t.ports.get q).pendingSet, line := (t.ports.get q).line }
                ∧ (t.ports.get q).pendingSet &&& alertBit .settingChanged ≠ 0#16
                ∧ (t.ports.get q).line =
                    (!(t.ports.get q).inService
                      && decide ((t.ports.get q).pendingSet &&& t.settings.masks.get q ≠ 0#16)))
        ∧ (storedOnly →
          (∀ q, t.ports.get q =
              if q = p then taken else portRaised (s.settings.masks.get q) .settingChanged (s.ports.get q))
            ∧ changesOnly [.settings, .ports, .now] s t)
        ∧ (∀ owner, e.item = .alertMask owner →
          t.settings = { s.settings with masks := s.settings.masks.set owner e.value }
            ∧ (∀ q, t.ports.get q =
                if q = p then
                  if owner = p then { taken with line := !taken.inService && decide (taken.pendingSet &&& e.value ≠ 0#16) }
                  else taken
                else portRaised (if q = owner then e.value else s.settings.masks.get q) .settingChanged (s.ports.get q))
            ∧ changesOnly [.settings, .ports, .now] s t)
        ∧ (∀ k : Fin 12, e.item = .zone k .enable →
          t.settings =
              { s.settings with zones := s.settings.zones.set k { s.settings.zones[k] with enabled := decide (e.value ≠ 0#16) } }
            ∧ (e.value = 0#16 → s.zones[k].state = .heating →
                t.zones = s.zones.set k { s.zones[k] with state := .idle, output := false })
            ∧ (e.value ≠ 0#16 ∨ s.zones[k].state ≠ .heating → t.zones = s.zones)
            ∧ (∀ q, t.ports.get q =
                if q = p then taken else portRaised (s.settings.masks.get q) .settingChanged (s.ports.get q))
            ∧ changesOnly [.settings, .zones, .ports, .now] s t)))
    ∧ ∀ (table : Settings) (st : Setting) (v : Word), st.defined v = true →
        let after := table.write st v
        (st = .calLock → after.read st = if table.calLock then 1#16 else v)
          ∧ (∀ sd, st = .side sd .maxDuty → after.read st = BitVec.ofNat 16 (max v.toNat (table.sides.get sd).minDuty))
          ∧ (st ≠ .calLock → (∀ sd, st ≠ .side sd .maxDuty) → after.read st = v)
          ∧ ∀ other, other ≠ st →
              (∀ sd, st = .side sd .minDuty → other = .side sd .maxDuty →
                after.read other = BitVec.ofNat 16 (max (table.sides.get sd).maxDuty v.toNat))
              ∧ ((∀ sd, st = .side sd .minDuty → other ≠ .side sd .maxDuty) → after.read other = table.read other)

/-- R164, with the page of R163: a READ of a number that names no item, of an item with a write waiting in the port's own queue,
and of any other item. It changes nothing but the port and the input levels it looked at. A setting reads as stored; that what
an application stores reads back is said in `ApplicationOfAnEntry`. Then the item map (R176): the settings of each run of
numbers, one number to each setting and none shared; and what the status items of each block read, in the order of the rule that
lists them (R32, R58, R74, R94, R113, R127, R132, R145, R158) and in the codes of R176. A number outside the map names nothing.
The model's choices in it are the bits of the two flags items (log entry 9), the unit of a prefill run's time left (log entry 25)
and the ALERT line item (log entry 31); what an absent history entry reads is a free value (log entry 8), of which nothing is
said. -/
def Obligations.Read : Prop :=
  (∀ (s : State) (p : Port) (item : Byte) (pins : Pins),
      let number := (match (s.ports.get p).page with
        | none => 0
        | some g => g.val) * 256 + item.toNat
      let seen := (takeRequest p s).withPins pins
      let waits : Prop := ∃ e, e ∈ (s.ports.get p).queue ∧ e.item.number = number
      ∃ t, exec (.read p item pins) s = .next t
        ∧ (itemAt seen number = none → answeredOnly s t p { code := .noItem, data := [] })
        ∧ (itemAt seen number ≠ none → waits → answeredOnly s t p { code := .retry, data := [] })
        ∧ (∀ v, itemAt seen number = some v → ¬waits →
            answeredOnly s t p
              { code := .ok
                data := match v with
                  | .word x => [x.extractLsb' 8 8, x.extractLsb' 0 8]
                  | .dword x => [x.extractLsb' 24 8, x.extractLsb' 16 8, x.extractLsb' 8 8, x.extractLsb' 0 8] })
        ∧ (∀ st, settingAt number = some st → itemAt seen number = some (.word (s.settings.read st)))
        ∧ (settingAt number = none → itemAt seen number = statusAt seen number)
        ∧ t.pins = pins ∧ changesOnly [.ports, .pins] s t)
    ∧ (let names : Nat → List Setting → Prop := fun base items =>
        ∀ (i : Nat) (st : Setting), items[i]? = some st → settingAt (base + i) = some st
      names 0 [.machineMode, .writtenCapacity, .reserve, .busVoltage, .alertMask .m, .alertMask .l, .alertMask .r, .alertMask .d,
          .calLock]
        ∧ names 10 [.guardMask]
        ∧ (∀ sd : Side,
            names (match sd with
              | .left => 16
              | .right => 32)
              [.side sd .refMode, .side sd .heads, .side sd .offset, .side sd .deadBand, .side sd .propBand, .side sd .minDuty,
                .side sd .maxDuty, .side sd .slopeTarget])
        ∧ (∀ k : Fin 12, names (48 + 4 * k.val) [.zone k .setpoint, .zone k .band, .zone k .rated, .zone k .enable])
        ∧ (∀ d : Drive,
            names (match d with
              | .convL => 96
              | .augL => 103
              | .convR => 112
              | .augR => 119)
              [.drive d .request, .drive d .manual, .drive d .target, .drive d .ratio, .drive d .gain, .drive d .currentLimit,
                .drive d .rampStep])
        ∧ names 128 [.record .stepLength, .record .coldLimit, .record .origin, .record .pitch]
        ∧ (∀ c : Fin 31, names (256 + 4 * c.val)
            [.calibration c .zeroCount, .calibration c .fullCount, .calibration c .zeroValue, .calibration c .fullValue])
        ∧ names 380 [.travelPulse, .radarPulse]
        ∧ (∀ st : Setting, settingAt st.number = some st)
        ∧ ∀ (n : Nat) (st : Setting), settingAt n = some st → st.number = n)
    ∧ (∀ s : State,
        let reads : Nat → List ItemValue → Prop := fun base items =>
          ∀ (i : Nat) (v : ItemValue), items[i]? = some v → statusAt s (base + i) = some v
        let n16 : Nat → ItemValue := fun n => .word (BitVec.ofNat 16 n)
        let n32 : Nat → ItemValue := fun n => .dword (BitVec.ofNat 32 n)
        let int : Int → ItemValue := fun x => .word (BitVec.ofInt 16 x)
        let flag : Bool → ItemValue := fun b => .word (if b then 1#16 else 0#16)
        let zoneSet : ZoneSet → ItemValue := fun z => .word (z.setWidth 16)
        let flags : List Bool → ItemValue := fun bs =>
          n16 ((bs.zip [32768, 16384, 8192, 4096, 2048, 1024, 512, 256]).map fun bw => if bw.1 then bw.2 else 0).sum
        let temperature : Option Int → ItemValue := fun x => int (x.getD (-32768))
        let last : Option Setting → ItemValue := fun x => match x with
          | none => int (-1)
          | some st => n16 st.number
        let side : SideUnit → List ItemValue := fun u =>
          [n16 u.state.code, n16 (u.target.getD 0), int u.lastReading, n16 u.validHeads, int u.lastDeviation, n16 u.raise,
            n16 u.lower, flag u.jog.isSome, n16 u.goodRun, flag u.stale, n16 u.stepMax]
        let drive : DriveUnit → List ItemValue := fun u =>
          [n16 u.state.code, n16 u.command, n16 u.previous, flag u.openLoop, n16 u.overcurrentCount, n16 u.notRunningCount,
            n16 u.runawayCount, n16 u.cause.code, flag (decide (u.state = .prefill)), n16 (if u.returnAuto then 2 else 0),
            n16 (match u.prefillDue with
              | none => 0
              | some due => (due - s.now) / 10000),
            n16 u.lastGoodCurrent]
        let round : RoundState → List ItemValue := fun r => [n16 r.counter, flag r.late, n16 r.lateCount]
        reads 9 [n16 10]
          ∧ (s.record.summary = none → reads 144 [n32 0, n32 0, n16 0, n32 0, n16 0, n16 0, n16 0, n16 0, n16 0, n16 0, n16 0,
              n16 0, n16 0, n16 0, n16 0, n16 0, n16 0, n16 0, n16 0])
          ∧ (∀ h, s.record.summary = some h →
              reads 144 [n32 h.sequence, n32 h.start, n16 h.length, n32 h.openTime, n16 h.duration, n16 h.width,
                  flags [h.partialClose, h.restartClose, h.pauseFlag, h.dropsFlag, h.flags.scannerLost, h.flags.converterSuspect,
                    h.flags.travelSuspect, h.flags.widthHeld],
                  n16 h.linesBinned]
                ∧ (4 ∣ h.speedMin → 4 ∣ h.speedMax → reads 152 [n16 h.speedMin, n16 h.speedMax])
                ∧ reads 154 [n16 h.leftState.code, n16 h.leftMax, n16 h.rightState.code, n16 h.rightMax, zoneSet h.starved,
                    zoneSet h.faulted, n16 h.trips, n16 h.minimum, n16 h.linesRejected])
          ∧ reads 168 [flag s.scan.lost,
              match s.scan.previousLine with
                | none => int (-1)
                | some n => n16 n.toNat,
              n16 s.scan.validTotal, n16 s.scan.rejectedTotal]
          ∧ (s.record.current = none → reads 172 [flag false, n32 0, n32 0, n16 0, n16 0, n16 0, n16 0, n16 0, n16 0, n16 0, n16 0,
              n16 0])
          ∧ (∀ r, s.record.current = some r →
              reads 172 [flag true, n32 r.sequence, n32 r.start, n16 (s.travel.distance - r.start), n16 r.width, n16 r.columns,
                flags [false, false, false, false, r.flags.scannerLost, r.flags.converterSuspect, r.flags.travelSuspect,
                  r.flags.widthHeld],
                zoneSet r.starved, zoneSet r.faulted, n16 r.trips, n16 s.scan.linesBinned, n16 s.scan.linesRejected])
          ∧ reads 184 [n32 s.record.nextSequence]
          ∧ reads 192 [n32 s.store.base, n32 s.store.cursor, n32 s.store.newest, n16 s.store.records.length, n16 s.store.used,
              n16 s.store.freeWords, n16 s.store.droppedTotal]
          ∧ (s.store.slot = .empty → reads 199 [n16 0, n32 0, n16 0])
          ∧ (∀ r due, s.store.slot = .copying r due → reads 199 [n16 1, n32 r.sequence, n16 0])
          ∧ (∀ r due, s.store.slot = .ready r due → reads 199 [n16 2, n32 r.sequence, n16 ((due - s.now) / 10000)])
          ∧ (∀ p : Port,
              let u := s.ports.get p
              reads (match p with
                | .m => 208
                | .l => 216
                | .r => 224
                | .d => 232)
                [last u.lastApplied, flag u.lastClamped, last u.lastRejected, n16 u.queue.length, flag u.present, flag u.inService,
                  flag u.line, .word u.pendingSet])
          ∧ (∀ c : Fin 36,
              let col := (if s.record.current = none then none else s.scan.columns[c.val]?).getD { sum := 0, count := 0 }
              reads (384 + 2 * c.val) [n16 col.count, n16 ((col.sum + col.count / 2) / col.count)])
          ∧ reads 512 [n32 s.travel.distance, n32 s.travel.seconds, n16 (min 32767 (s.travel.reversePending / 100)),
              n16 s.travel.speed, flag s.travel.moving, flag s.travel.suspect, n16 s.travel.extL, n16 s.travel.extR,
              n16 s.travel.width, flag s.travel.widthHeld, zoneSet s.travel.activity, n16 (s.travel.width / 250)]
          ∧ (∀ c : Fin 34,
              let r := s.seq.results[c]
              reads (528 + 4 * c.val) [n16 r.count, int r.value, n16 r.quality.code, n16 r.round])
          ∧ reads 664 (round s.seq.rounds.fast ++ round s.seq.rounds.medium ++ round s.seq.rounds.slow
              ++ [flag s.seq.conditionSuspect])
          ∧ reads 680 (side s.lev.left ++ side s.lev.right)
          ∧ reads 704 (drive s.feed.convL ++ drive s.feed.convR ++ drive s.feed.augL ++ drive s.feed.augR ++ [n16 s.heat.feedLoad])
          ∧ reads 768 [flag s.heat.running, n16 s.heat.cycle, n16 s.heat.slice, flag s.heat.tripped, n16 s.heat.derate,
              n16 s.heat.effective, n16 s.heat.history.length]
          ∧ reads 775 ((s.heat.history.take 2).map n16)
          ∧ reads 777 [flag (s.pins.trip.getLsbD 0), flag (s.pins.trip.getLsbD 1), flag (s.pins.trip.getLsbD 2),
              n16 s.heat.budget, n16 s.heat.welded, int s.heat.available, zoneSet s.heat.grants, n16 s.heat.grantedPower,
              n16 s.heat.feedLoad]
          ∧ (∀ k : Fin 12,
              let z := s.zones[k]
              reads (800 + 13 * k.val) [n16 z.state.code, n16 z.demand, n16 z.remaining, n16 z.granted, n16 z.starved, n16 z.boost,
                temperature z.usable, temperature z.lastGood, n16 z.missed, n16 z.openCount, n16 z.weldCount, flag z.output,
                flag (s.pins.sense.getLsbD k.val)])
          ∧ ∀ n : Nat,
              (statusAt s n ≠ none ↔
                n = 9 ∨ (144 ≤ n ∧ n ≤ 162) ∨ (168 ≤ n ∧ n ≤ 184) ∨ (192 ≤ n ∧ n ≤ 201) ∨ (208 ≤ n ∧ n ≤ 239)
                  ∨ (384 ≤ n ∧ n ≤ 455) ∨ (512 ≤ n ∧ n ≤ 523) ∨ (528 ≤ n ∧ n ≤ 673) ∨ (680 ≤ n ∧ n ≤ 701)
                  ∨ (704 ≤ n ∧ n ≤ 752) ∨ (768 ≤ n ∧ n ≤ 785) ∨ (800 ≤ n ∧ n ≤ 955))
              ∧ (statusAt s n ≠ none → settingAt n = none))
    ∧ [Mode.standby, .pave, .travel].map Mode.code = [0, 1, 2] ∧ [RefMode.beam, .single, .slope].map RefMode.code = [0, 1, 2]
    ∧ [FeedRequest.off, .manual, .auto].map FeedRequest.code = [0, 1, 2]
    ∧ [DriveState.off, .manual, .auto, .prefill, .fault].map DriveState.code = [0, 1, 2, 3, 4]
    ∧ [FaultCause.none, .overcurrent, .notRunning, .runaway].map FaultCause.code = [0, 1, 2, 3]
    ∧ [SideState.manual, .auto, .lost].map SideState.code = [0, 1, 2]
    ∧ [ZoneState.off, .idle, .heating, .faultOpen, .faultWelded, .sensorLost].map ZoneState.code = [0, 1, 2, 3, 4, 5]
    ∧ [Quality.good, .suspect, .short, .broken].map Quality.code = [0, 1, 2, 3]

/-- R161 and R163: PAGE sets the page for the one request after it, a value above 3 leaves it absent; a frame turned away is
answered BAD_FRAME, leaves the page in place, and counts for presence only when its check byte passed (R167). -/
def Obligations.PageAndBadFrame : Prop :=
  (∀ (s : State) (p : Port) (value : Byte),
      (∀ h : value.toNat < 4, ∃ t, exec (.page p value) s = .next t
          ∧ t.ports = s.ports.set p
              { portAnswered s p { code := .ok, data := [] } with page := some ⟨value.toNat, h⟩ }
          ∧ changesOnly [.ports] s t)
        ∧ (4 ≤ value.toNat → ∃ t, exec (.page p value) s = .next t
          ∧ answeredOnly s t p { code := .refused, data := [] } ∧ (t.ports.get p).page = none
          ∧ changesOnly [.ports] s t))
    ∧ ∀ (s : State) (p : Port),
        (∃ t, exec (.badFrame p false) s = .next t
          ∧ t.ports = s.ports.set p { s.ports.get p with answer := some { code := .badFrame, data := [] } }
          ∧ changesOnly [.ports] s t)
        ∧ ∃ t, exec (.badFrame p true) s = .next t
          ∧ t.ports = s.ports.set p { s.ports.get p with
              present := true, presenceDue := some (s.now + 100000)
              answer := some { code := .badFrame, data := [] } }
          ∧ changesOnly [.ports] s t

/-- R170 and R171, with the line of R169: TAKE-ALERTS answers and removes the enabled pending kinds and sets the in-service flag;
ALERT-DONE clears the flag and asserts the line at once when an enabled kind is pending. -/
def Obligations.TakeAlertsAndAlertDone : Prop :=
  ∀ (s : State) (p : Port),
    let u := s.ports.get p
    let mask := s.settings.masks.get p
    (∃ t, exec (.takeAlerts p) s = .next t
        ∧ t.ports = s.ports.set p
            { portAnswered s p { code := .ok, data := wordBytes (u.pendingSet &&& mask) } with
              pendingSet := u.pendingSet &&& ~~~mask, inService := true, line := false }
        ∧ changesOnly [.ports] s t)
      ∧ ∃ t, exec (.alertDone p) s = .next t
        ∧ t.ports = s.ports.set p
            { portAnswered s p { code := .ok, data := [] } with
              inService := false, line := decide (u.pendingSet &&& mask ≠ 0#16) }
        ∧ changesOnly [.ports] s t

/-- R172: PORT-RESET clears its own port but for presence, and on port D the held slot; the other ports, the settings and every
block stand. The stopped application schedule is held as the time 0 (the model's form, log entry 27). -/
def Obligations.PortReset : Prop :=
  ∀ (s : State) (p : Port),
    ∃ t, exec (.portReset p) s = .next t
      ∧ t.ports = s.ports.set p
          { portAnswered s p { code := .ok, data := [] } with
            queue := [], applyAfter := 0, lastApplied := none, lastClamped := false, lastRejected := none
            pendingSet := 0#16, inService := false, line := false }
      ∧ (p ≠ .d → t.store = s.store)
      ∧ (p = .d → t.store = { s.store with slot := .empty })
      ∧ changesOnly [.ports, .store] s t

/-- R168, with R41: a PRESENT port that goes ABSENT raises STATION_ABSENT on the three others; the absence of L or R drops its
side, a side in AUTO or LOST with SIDE_x_DROPPED on all ports, and ends the jog pulse of a side in MANUAL. -/
def Obligations.PresenceTimeout : Prop :=
  ∀ (s : State) (p : Port), (s.ports.get p).present = true →
    let side : Option Side := match p with
      | .l => some .left
      | .r => some .right
      | .m | .d => none
    let drops : Option Side := side.filter fun sd => decide ((s.lev.get sd).state ≠ .manual)
    ∃ t, exec (.presenceTimeout p) s = .next t
      ∧ (∀ q,
          let own := if q = p then { s.ports.get q with present := false, presenceDue := none }
            else portRaised (s.settings.masks.get q) .stationAbsent (s.ports.get q)
          t.ports.get q = match drops with
            | none => own
            | some .left => portRaised (s.settings.masks.get q) .sideLDropped own
            | some .right => portRaised (s.settings.masks.get q) .sideRDropped own)
      ∧ (∀ sd,
          let u := s.lev.get sd
          (side ≠ some sd → t.lev.get sd = u)
            ∧ (side = some sd → u.state ≠ .manual →
                t.lev.get sd = { u with state := .manual, raise := 0, lower := 0, goodRun := 0 })
            ∧ (side = some sd → u.state = .manual → u.jog = none → t.lev.get sd = u)
            ∧ (side = some sd → u.state = .manual → u.jog ≠ none →
                t.lev.get sd = { u with raise := 0, lower := 0, jog := none }))
      ∧ changesOnly [.ports, .lev, .now] s t

/-! ### Resets, the step, the laws and the frames -/

/-- R33 and the power-on columns of the reset tables: POWER_ON puts every block in its power-on state, whatever it was. The
commands that wait, the input levels and the count of free values are outside the part (log entry 14); the converter's take
of channel 0 belongs to the event (log entry 13), and the first record of the ring begins at word 0 (log entry 29). -/
def Obligations.PowerOn : Prop :=
  ∀ s : State, ∃ t, exec .powerOn s = .next t
    ∧ t.pending = s.pending ∧ t.pins = s.pins ∧ t = { State.reset with pending := s.pending, pins := s.pins, free := s.free }
    ∧ t.settings.mode = .standby ∧ t.settings.capacity = 0 ∧ t.settings.reserve = 20 ∧ t.settings.busVoltage = 400
    ∧ (∀ p, t.settings.masks.get p = 0#16) ∧ t.settings.calLock = false ∧ t.settings.guard = 0#16
    ∧ (∀ sd, t.settings.sides.get sd =
        { refMode := .beam, heads := 15#4, offset := 0, deadBand := 5, propBand := 40, minDuty := 150, maxDuty := 900
          slopeTarget := 0 })
    ∧ (∀ k : Fin 12, t.settings.zones[k] =
        { setpoint := 0, band := 200, rated := if k.val < 4 then 45 else 30, enabled := true })
    ∧ (∀ d, t.settings.drives.get d =
        { request := .off, manual := 0, target := 250, ratio := 100, gain := 50, currentLimit := 600, rampStep := 50 })
    ∧ t.settings.record = { stepLength := 1000, coldLimit := 1200, origin := -4725, pitch := 150 }
    ∧ t.settings.travelPulse = 100 ∧ t.settings.radarPulse = 100
    ∧ (∀ c : Fin 31, t.settings.cals[c] =
        { zeroCount := 655, fullCount := 3276
          zeroValue := if c.val = 8 then -1000 else 0
          fullValue := if c.val < 8 then 10000 else if c.val = 8 then 1000 else if c.val < 11 then 3000
            else if c.val < 15 then 600 else if c.val < 19 then 1000 else 3000 })
    ∧ t.travel.distance = 0 ∧ t.travel.seconds = 0 ∧ t.travel.speed = 0 ∧ t.travel.moving = false
    ∧ t.travel.suspect = false ∧ t.travel.widthHeld = true ∧ t.travel.width = 3000 ∧ t.travel.activity = 15#12
    ∧ (∀ cls, t.seq.rounds.get cls = { counter := 1, late := false, lateCount := 0 })
    ∧ (∀ c : Fin 34, t.seq.results[c] = { count := 0, value := 0, quality := .broken, round := 0 })
    ∧ t.seq.conditionSuspect = true
    ∧ (∀ c : Fin 34, c ∈ t.seq.queue ↔ c.val ≠ 0)
    ∧ t.seq.converter = .settling 0 1 (t.now + 15)
    ∧ t.timers.period = { fast := t.now + 2000, medium := t.now + 10000, slow := t.now + 100000 }
    ∧ t.timers.heatingWait = some (t.now + 200000) ∧ t.timers.silence = some (t.now + 100000)
    ∧ (∀ sd, (t.lev.get sd).state = .manual ∧ (t.lev.get sd).raise = 0 ∧ (t.lev.get sd).lower = 0
        ∧ (t.lev.get sd).jog = none ∧ (t.lev.get sd).target = none ∧ (t.lev.get sd).stepMax = 0)
    ∧ (∀ d, (t.feed.get d).state = .off ∧ (t.feed.get d).command = 0 ∧ (t.feed.get d).cause = .none
        ∧ (t.feed.get d).prefillDue = none)
    ∧ t.heat.running = false ∧ t.heat.cycle = 0 ∧ t.heat.slice = 0 ∧ t.heat.derate = 100 ∧ t.heat.effective = 0
    ∧ t.heat.history = [] ∧ t.heat.grants = 0#12 ∧ t.heat.feedLoad = 0
    ∧ (∀ k : Fin 12, t.zones[k].state = .off ∧ t.zones[k].output = false ∧ t.zones[k].lastGood = none
        ∧ t.zones[k].missed = 0 ∧ t.zones[k].boost = 0)
    ∧ t.scan.lost = false ∧ t.scan.previousLine = none ∧ t.record.current = none ∧ t.record.nextSequence = 1
    ∧ t.record.summary = none
    ∧ t.store.records = [] ∧ t.store.base = 1 ∧ t.store.cursor = 1 ∧ t.store.newest = 0 ∧ t.store.droppedTotal = 0
    ∧ t.store.slot = .empty
    ∧ ∀ p, (t.ports.get p).present = false ∧ (t.ports.get p).queue = [] ∧ (t.ports.get p).page = none
        ∧ (t.ports.get p).pendingSet = 0#16 ∧ (t.ports.get p).inService = false ∧ (t.ports.get p).line = false
        ∧ (t.ports.get p).lastApplied = none ∧ (t.ports.get p).lastRejected = none

/-- R173, with what each block states of RESTART (R17, R34, R59, R75, R96, R115, R125): from M it acts on every block and is
answered OK, from the others it is NOT_ALLOWED. The settings, the queues, the distance, the held slot and the step stand; the
open record is closed with MANUAL as both sides' state, by the close of `RecordClose` on a state that differs in the sides,
the drives and the ports only. On the ports nothing changes but the page of M, M's presence and answer, and the alerts that
RESTART causes: the dropped sides, what the close raises, and ZONE_FAULT for a zone that the new cycle puts in SENSOR_LOST.
Outside TRAVEL the heating is the one `startHeating` (see `CycleBoundary`) starts, on a state whose zones have their faults, mismatch
counts and boosts cleared and whose slice, readback and power-on-wait timers are stopped (R96); in TRAVEL it stays STOPPED, and
the zones keep their counts and temperatures (R115).
The converter's take of channel 0 within RESTART is the model's reading (log entry 13), and so is a length limited to 65535
(log entry 24) and the order sides, drives, close, heating (log entry 23). -/
def Obligations.Restart : Prop :=
  (∀ (s : State) (p : Port), p ≠ .m →
      ∃ t, exec (.restart p) s = .next t ∧ answeredOnly s t p { code := .notAllowed, data := [] }
        ∧ changesOnly [.ports] s t)
    ∧ ∀ s : State,
      let cleared : Fin 12 → ZoneUnit := fun k => { s.zones[k] with
        state := if s.zones[k].state = .faultOpen ∨ s.zones[k].state = .faultWelded then .idle else s.zones[k].state
        output := false, sliceCommand := false, boost := 0, openCount := 0, weldCount := 0 }
      ∃ t, exec (.restart .m) s = .next t
      ∧ t.settings = s.settings ∧ t.scan = s.scan ∧ t.pins = s.pins ∧ t.pending = s.pending ∧ t.now = s.now
      ∧ t.travel = { s.travel with
          speed := 0, moving := false, windowMm := 0, suspect := false, plausibleRun := 0, encoderAcc := 0, radarAcc := 0
          reverseMark := false }
      ∧ t.seq.conditionSuspect = s.seq.conditionSuspect
      ∧ (∀ cls, t.seq.rounds.get cls = { counter := 1, late := false, lateCount := 0 })
      ∧ (∀ c : Fin 34, t.seq.results[c] = { count := 0, value := 0, quality := .broken, round := 0 })
      ∧ (∀ c : Fin 34, c ∈ t.seq.queue ↔ c.val ≠ 0) ∧ t.seq.converter = .settling 0 1 (t.now + 15)
      ∧ (∀ sd, t.lev.get sd = { s.lev.get sd with
          state := .manual, goodRun := 0, stale := false, jog := (t.lev.get sd).jog, raise := (t.lev.get sd).raise
          lower := (t.lev.get sd).lower }
          ∧ ((s.lev.get sd).state = .manual → (t.lev.get sd).jog = none)
          ∧ ((s.lev.get sd).state ≠ .manual ∨ (s.lev.get sd).jog ≠ none →
              (t.lev.get sd).raise = 0 ∧ (t.lev.get sd).lower = 0))
      ∧ t.timers.second = s.timers.second ∧ t.timers.silence = s.timers.silence ∧ t.timers.speed = s.now + 25000
      ∧ t.timers.plausibility = s.now + 100000 ∧ t.timers.sample = some (s.now + 10000)
      ∧ t.timers.period = { fast := s.now + 2000, medium := s.now + 10000, slow := s.now + 100000 }
      ∧ (∀ d, t.feed.get d = { s.feed.get d with
          state := .off, command := 0, previous := (s.feed.get d).command, openLoop := false, overcurrentCount := 0
          notRunningCount := 0, runawayCount := 0, returnAuto := false, prefillDue := none })
      ∧ (s.record.current = none → t.record = s.record ∧ t.store = s.store)
      ∧ (∀ r, s.record.current = some r → t.record.current = none ∧ t.record.nextSequence = s.record.nextSequence
          ∧ t.store.slot = s.store.slot
          ∧ ∃ h, t.record.summary = some h ∧ h.sequence = r.sequence ∧ h.restartClose = true ∧ h.partialClose = false
            ∧ h.leftState = .manual ∧ h.rightState = .manual
            ∧ h.length = min 65535 (s.travel.distance - r.start))
      ∧ (s.settings.mode = .travel → t.heat = { s.heat with grants := 0#12, grantedPower := 0, tripped := false }
          ∧ t.timers.slice = none ∧ t.timers.readback = none ∧ t.timers.heatingWait = none
          ∧ ∀ k : Fin 12, t.zones[k] = cleared k)
      ∧ (s.settings.mode ≠ .travel →
          (∃ v, v.heat = { s.heat with grants := 0#12, grantedPower := 0, tripped := false }
            ∧ (∀ k : Fin 12, v.zones[k] = cleared k)
            ∧ v.timers = { t.timers with slice := none, readback := none }
            ∧ v.settings = s.settings ∧ v.travel = t.travel ∧ v.seq = t.seq ∧ v.record = t.record ∧ v.now = s.now
            ∧ changesOnly [.ports] (startHeating v) t)
          ∧ t.timers.slice = some (s.now + 25000) ∧ t.timers.readback = some (s.now + 10000) ∧ t.timers.heatingWait = none
          ∧ t.heat.running = true ∧ t.heat.tripped = false ∧ t.heat.slice = 0
            ∧ t.heat.cycle = (s.heat.cycle + 1) % 65536 ∧ t.heat.derate = s.heat.derate
            ∧ t.heat.effective = s.heat.effective ∧ t.heat.feedLoad = s.heat.feedLoad ∧ t.heat.welded = 0
            ∧ ∀ k : Fin 12, t.zones[k].boost = 0 ∧ t.zones[k].starved = s.zones[k].starved
              ∧ t.zones[k].state ≠ .faultOpen ∧ t.zones[k].state ≠ .faultWelded ∧ t.zones[k].state ≠ .off)
      ∧ (∀ q, (t.ports.get q).queue = (s.ports.get q).queue ∧ (t.ports.get q).inService = (s.ports.get q).inService
          ∧ (t.ports.get q).lastApplied = (s.ports.get q).lastApplied
          ∧ (t.ports.get q).lastClamped = (s.ports.get q).lastClamped
          ∧ (t.ports.get q).lastRejected = (s.ports.get q).lastRejected
          ∧ (q ≠ .m → (t.ports.get q).page = (s.ports.get q).page
              ∧ (t.ports.get q).present = (s.ports.get q).present
              ∧ (t.ports.get q).presenceDue = (s.ports.get q).presenceDue
              ∧ (t.ports.get q).answer = (s.ports.get q).answer))
      ∧ (t.ports.get .m).page = none ∧ (t.ports.get .m).answer = some { code := .ok, data := [] }
      ∧ ∃ u, changesOnly [.lev, .feed, .ports] s u
          ∧ (∀ sd, (u.lev.get sd).state = .manual ∧ (u.lev.get sd).stepMax = (s.lev.get sd).stepMax)
          ∧ (∀ q,
              let mask := s.settings.masks.get q
              let p0 := if q = .m then
                  { s.ports.get .m with page := none, present := true, presenceDue := some (s.now + 100000) }
                else s.ports.get q
              let p1 := if (s.lev.get .left).state ≠ .manual then portRaised mask .sideLDropped p0 else p0
              u.ports.get q = if (s.lev.get .right).state ≠ .manual then portRaised mask .sideRDropped p1 else p1)
          ∧ t.record = (closeRecord false true u).record ∧ t.store = (closeRecord false true u).store
          ∧ ∀ q,
              let closed := (closeRecord false true u).ports.get q
              let after := if ∃ k : Fin 12, s.zones[k].state ≠ .sensorLost ∧ t.zones[k].state = .sensorLost then
                  portRaised (s.settings.masks.get q) .zoneFault closed
                else closed
              t.ports.get q = if q = .m then { after with answer := some { code := .ok, data := [] } } else after

/-- A step takes the command at the front of the queue and runs it with the queue's rest (log entry 16). -/
def Obligations.StepRunsTheFrontCommand : Prop :=
∀ (c : Instr) (rest : List Instr) (s : State), step (s.withPending (c :: rest)) = exec c (s.withPending rest)

/-- On an empty queue a step never stops: it runs one of the part's own events whose time has come, or passes one tick when none
has (the model's choice, log entry 2). The events it may run are those whose deadline runs (`ownDeadline`), an IDLE converter's
take of a channel that waits (R21), and events that change nothing. Every command but power-on completes and brings the time
base to its own deadline when the time base stands before it (log entry 3); past the deadline (log entry 30), and without one,
the time base stays: these are the model's choices. -/
def Obligations.StepOnAnEmptyQueue : Prop :=
  (∀ s : State, s.pending = [] →
      ∃ t, step s = .next t
        ∧ ((∃ c time, some (time, c) ∈ ownEvents s ∧ time ≤ s.now ∧ exec c (s.withFree (s.free + 1)) = .next t)
          ∨ (∀ c time, some (time, c) ∈ ownEvents s → s.now < time) ∧ t = s.withNow (s.now + 1)))
    ∧ (∀ (s : State) (c : Instr), c ≠ .powerOn →
        ∃ t, exec c s = .next t
          ∧ (∀ due, ownDeadline s c = some due → t.now = max s.now due)
          ∧ (ownDeadline s c = none → t.now = s.now))
    ∧ (∀ (s : State) (c : Instr) (due : Nat), ownDeadline s c = some due →
        ∃ c', some (due, c') ∈ ownEvents s
          ∧ match c with
            | .conversionCompletion _ _ => ∃ count pins, c' = .conversionCompletion count pins
            | .readback _ => ∃ pins, c' = .readback pins
            | _ => c' = c)
    ∧ (∀ s : State, s.seq.converter = .idle → s.seq.queue ≠ [] → some (s.now, .converterTake) ∈ ownEvents s)
    ∧ ∀ (s : State) (c : Instr) (time : Nat), some (time, c) ∈ ownEvents s →
        ownDeadline s c = some time
          ∨ (c = .converterTake ∧ time = s.now ∧ s.seq.converter = .idle ∧ s.seq.queue ≠ [])
          ∨ (ownDeadline s c = none ∧ exec c s = .next s)

/-- The laws hold after power-on. -/
def Obligations.LawfulAtReset : Prop := Lawful State.reset

/-- The laws of the ports and of the settings (R36, R37, R151, R152, R166, R167, R169) are kept by every step. -/
def Obligations.PortAndSettingLawsKept : Prop :=
∀ s t : State, Lawful s → step s = .next t → PortLaw t ∧ SettingsLaw t

/-- The laws of the measuring and driving blocks (R5, R10, R11, R19, R20, R38, R53, R55, R66, R68, R72) are kept by every step:
no channel is forgotten by a round, no side drives both valves, no drive turns in OFF, in FAULT or in TRAVEL. -/
def Obligations.MachineLawsKept : Prop :=
  ∀ s t : State, Lawful s → step s = .next t →
    TravelLaw t ∧ SequencerLaw t ∧ LevellingLaw t ∧ ReadingLaw t ∧ FeedLaw t

/-- The laws of the heating (R77, R80, R86, R91, R98, R103, R105) are kept by every step: the granted power and the welded power
stay within the slice budget, an output is on only for a granted zone in HEATING, granted and remaining make up the demand. -/
def Obligations.HeatingLawsKept : Prop :=
∀ s t : State, Lawful s → step s = .next t → CapacityLaw t ∧ GrantLaw t ∧ DemandLaw t

/-- The laws of the strip records and of the record store (R120, R134, R135, R136) are kept by every step: the store holds whole
records with consecutive numbers in at most 8192 words, the cursor between base and the number after newest. -/
def Obligations.RecordLawsKept : Prop :=
∀ s t : State, Lawful s → step s = .next t → RecordLaw t ∧ StoreLaw t

/-- R160, R161, R162 and R175: each of the sixteen requests has a frame of its port, of the code and the data that R162 and R175
give it; the bytes of every request's frame sum to 0, and taken on its port they spell the request again, with every operand at
every value. And what any run of bytes spells, whatever is clocked after the check byte: with a length byte above 8, or a check
byte that does not bring the sum to 0, BAD_FRAME without a passed check byte; with a good sum and an unknown code or a length
that is not the code's, BAD_FRAME with one; with a good sum, code and length, the request of that code, its data and its item
byte where it has one; without its check byte, nothing. The bytes of every answer are its code, length, data and check byte,
and sum to 0. An ignored item byte is sent as 0 by `requestFrame`. -/
def Obligations.FrameRoundTrip : Prop :=
  let length : Byte → Option Nat := fun code =>
    if code ∈ [0x01#8, 0x04#8, 0x05#8, 0x10#8, 0x11#8, 0x12#8, 0x20#8, 0x21#8, 0x30#8, 0x32#8, 0x40#8, 0x41#8] then some 0
    else if code = 0x02#8 then some 2 else if code = 0x03#8 then some 1 else if code = 0x13#8 then some 3
    else if code = 0x31#8 then some 4 else none
  let ignored : Byte → Prop := fun code =>
    code ∈ [0x03#8, 0x04#8, 0x05#8, 0x30#8, 0x31#8, 0x32#8, 0x40#8, 0x41#8]
  (∀ (c : Instr) (p : Port) (bytes : List Byte), requestFrame c = some (p, bytes) →
      byteSum bytes = 0#8
        ∧ ∀ pins, (∀ q item x, c = .read q item x → x = pins) → (∀ q item x, c = .clearFault q item x → x = pins) →
            frameCommand p pins bytes = some c)
    ∧ (∀ (p : Port) (item dir : Byte) (value : Word) (sequence : DWord) (pins : Pins),
        let framed : Instr → Byte → Byte → List Byte → Prop := fun c code item data =>
          ∃ check, requestFrame c = some (p, code :: item :: BitVec.ofNat 8 data.length :: data ++ [check])
        framed (.read p item pins) 0x01#8 item []
          ∧ framed (.write p item value) 0x02#8 item [value.extractLsb' 8 8, value.extractLsb' 0 8]
          ∧ framed (.page p dir) 0x03#8 0#8 [dir] ∧ framed (.takeAlerts p) 0x04#8 0#8 [] ∧ framed (.alertDone p) 0x05#8 0#8 []
          ∧ framed (.engage p item) 0x10#8 item [] ∧ framed (.disengage p item) 0x11#8 item []
          ∧ framed (.setZero p item) 0x12#8 item []
          ∧ framed (.jog p item dir value) 0x13#8 item [dir, value.extractLsb' 8 8, value.extractLsb' 0 8]
          ∧ framed (.prefill p item) 0x20#8 item [] ∧ framed (.clearFault p item pins) 0x21#8 item []
          ∧ framed (.fetch p) 0x30#8 0#8 []
          ∧ framed (.release p sequence) 0x31#8 0#8 [sequence.extractLsb' 24 8, sequence.extractLsb' 16 8,
              sequence.extractLsb' 8 8, sequence.extractLsb' 0 8]
          ∧ framed (.rewind p) 0x32#8 0#8 [] ∧ framed (.restart p) 0x40#8 0#8 [] ∧ framed (.portReset p) 0x41#8 0#8 [])
    ∧ (∀ (p : Port) (pins : Pins) (code item len : Byte) (rest : List Byte),
        (8 < len.toNat → frameCommand p pins (code :: item :: len :: rest) = some (.badFrame p false))
          ∧ (len.toNat ≤ 8 → rest.length ≤ len.toNat → frameCommand p pins (code :: item :: len :: rest) = none)
          ∧ ∀ (data : List Byte) (check : Byte) (after : List Byte), len.toNat ≤ 8 → data.length = len.toNat →
              rest = data ++ check :: after →
              let sum := byteSum (code :: item :: len :: data ++ [check])
              let spelled := frameCommand p pins (code :: item :: len :: rest)
              (sum ≠ 0#8 → spelled = some (.badFrame p false))
                ∧ (sum = 0#8 → length code ≠ some len.toNat → spelled = some (.badFrame p true))
                ∧ (sum = 0#8 → length code = some len.toNat →
                    ∃ c sent check', spelled = some c
                      ∧ requestFrame c = some (p, code :: sent :: len :: data ++ [check'])
                      ∧ (¬ignored code → sent = item)))
    ∧ (∀ (p : Port) (pins : Pins) (bytes : List Byte), bytes.length < 3 → frameCommand p pins bytes = none)
    ∧ (∀ a : Answer, byteSum a.frame = 0#8
        ∧ ∃ check, a.frame = a.code.code :: BitVec.ofNat 8 a.data.length :: a.data ++ [check])
    ∧ [AnswerCode.ok, .accepted, .clamped, .retry, .full, .noItem, .notAllowed, .guarded, .locked, .refused, .notNow, .empty,
        .order, .gone, .badFrame].map AnswerCode.code
      = [0x00#8, 0x01#8, 0x02#8, 0x03#8, 0x04#8, 0x05#8, 0x06#8, 0x07#8, 0x08#8, 0x09#8, 0x0A#8, 0x0B#8, 0x0C#8, 0x0D#8, 0x0E#8]
end

