-- ==== Sys2Proof/Laws/State.lean ====
section
/-! SUPPORT. What each update of the state and of the per-unit containers leaves and changes. Each lemma about a field is
true by rfl; the brackets round it keep simp rewriting with it, rather than leaving the kernel to compute the states. -/

namespace Sys2Proof.Machine

@[simp] theorem State.withTravel_travel (s : State) (x : Travel) : (s.withTravel x).travel = x := (rfl)
@[simp] theorem State.withTravel_seq (s : State) (x : Travel) : (s.withTravel x).seq = s.seq := (rfl)
@[simp] theorem State.withTravel_lev (s : State) (x : Travel) : (s.withTravel x).lev = s.lev := (rfl)
@[simp] theorem State.withTravel_feed (s : State) (x : Travel) : (s.withTravel x).feed = s.feed := (rfl)
@[simp] theorem State.withTravel_heat (s : State) (x : Travel) : (s.withTravel x).heat = s.heat := (rfl)
@[simp] theorem State.withTravel_zones (s : State) (x : Travel) : (s.withTravel x).zones = s.zones := (rfl)
@[simp] theorem State.withTravel_scan (s : State) (x : Travel) : (s.withTravel x).scan = s.scan := (rfl)
@[simp] theorem State.withTravel_record (s : State) (x : Travel) : (s.withTravel x).record = s.record := (rfl)
@[simp] theorem State.withTravel_store (s : State) (x : Travel) : (s.withTravel x).store = s.store := (rfl)
@[simp] theorem State.withTravel_settings (s : State) (x : Travel) : (s.withTravel x).settings = s.settings := (rfl)
@[simp] theorem State.withTravel_ports (s : State) (x : Travel) : (s.withTravel x).ports = s.ports := (rfl)
@[simp] theorem State.withTravel_timers (s : State) (x : Travel) : (s.withTravel x).timers = s.timers := (rfl)
@[simp] theorem State.withTravel_pins (s : State) (x : Travel) : (s.withTravel x).pins = s.pins := (rfl)
@[simp] theorem State.withTravel_now (s : State) (x : Travel) : (s.withTravel x).now = s.now := (rfl)
@[simp] theorem State.withTravel_free (s : State) (x : Travel) : (s.withTravel x).free = s.free := (rfl)
@[simp] theorem State.withTravel_pending (s : State) (x : Travel) : (s.withTravel x).pending = s.pending := (rfl)
@[simp] theorem State.withSeq_travel (s : State) (x : Sequencer) : (s.withSeq x).travel = s.travel := (rfl)
@[simp] theorem State.withSeq_seq (s : State) (x : Sequencer) : (s.withSeq x).seq = x := (rfl)
@[simp] theorem State.withSeq_lev (s : State) (x : Sequencer) : (s.withSeq x).lev = s.lev := (rfl)
@[simp] theorem State.withSeq_feed (s : State) (x : Sequencer) : (s.withSeq x).feed = s.feed := (rfl)
@[simp] theorem State.withSeq_heat (s : State) (x : Sequencer) : (s.withSeq x).heat = s.heat := (rfl)
@[simp] theorem State.withSeq_zones (s : State) (x : Sequencer) : (s.withSeq x).zones = s.zones := (rfl)
@[simp] theorem State.withSeq_scan (s : State) (x : Sequencer) : (s.withSeq x).scan = s.scan := (rfl)
@[simp] theorem State.withSeq_record (s : State) (x : Sequencer) : (s.withSeq x).record = s.record := (rfl)
@[simp] theorem State.withSeq_store (s : State) (x : Sequencer) : (s.withSeq x).store = s.store := (rfl)
@[simp] theorem State.withSeq_settings (s : State) (x : Sequencer) : (s.withSeq x).settings = s.settings := (rfl)
@[simp] theorem State.withSeq_ports (s : State) (x : Sequencer) : (s.withSeq x).ports = s.ports := (rfl)
@[simp] theorem State.withSeq_timers (s : State) (x : Sequencer) : (s.withSeq x).timers = s.timers := (rfl)
@[simp] theorem State.withSeq_pins (s : State) (x : Sequencer) : (s.withSeq x).pins = s.pins := (rfl)
@[simp] theorem State.withSeq_now (s : State) (x : Sequencer) : (s.withSeq x).now = s.now := (rfl)
@[simp] theorem State.withSeq_free (s : State) (x : Sequencer) : (s.withSeq x).free = s.free := (rfl)
@[simp] theorem State.withSeq_pending (s : State) (x : Sequencer) : (s.withSeq x).pending = s.pending := (rfl)
@[simp] theorem State.withLev_travel (s : State) (x : PerSide SideUnit) : (s.withLev x).travel = s.travel := (rfl)
@[simp] theorem State.withLev_seq (s : State) (x : PerSide SideUnit) : (s.withLev x).seq = s.seq := (rfl)
@[simp] theorem State.withLev_lev (s : State) (x : PerSide SideUnit) : (s.withLev x).lev = x := (rfl)
@[simp] theorem State.withLev_feed (s : State) (x : PerSide SideUnit) : (s.withLev x).feed = s.feed := (rfl)
@[simp] theorem State.withLev_heat (s : State) (x : PerSide SideUnit) : (s.withLev x).heat = s.heat := (rfl)
@[simp] theorem State.withLev_zones (s : State) (x : PerSide SideUnit) : (s.withLev x).zones = s.zones := (rfl)
@[simp] theorem State.withLev_scan (s : State) (x : PerSide SideUnit) : (s.withLev x).scan = s.scan := (rfl)
@[simp] theorem State.withLev_record (s : State) (x : PerSide SideUnit) : (s.withLev x).record = s.record := (rfl)
@[simp] theorem State.withLev_store (s : State) (x : PerSide SideUnit) : (s.withLev x).store = s.store := (rfl)
@[simp] theorem State.withLev_settings (s : State) (x : PerSide SideUnit) : (s.withLev x).settings = s.settings := (rfl)
@[simp] theorem State.withLev_ports (s : State) (x : PerSide SideUnit) : (s.withLev x).ports = s.ports := (rfl)
@[simp] theorem State.withLev_timers (s : State) (x : PerSide SideUnit) : (s.withLev x).timers = s.timers := (rfl)
@[simp] theorem State.withLev_pins (s : State) (x : PerSide SideUnit) : (s.withLev x).pins = s.pins := (rfl)
@[simp] theorem State.withLev_now (s : State) (x : PerSide SideUnit) : (s.withLev x).now = s.now := (rfl)
@[simp] theorem State.withLev_free (s : State) (x : PerSide SideUnit) : (s.withLev x).free = s.free := (rfl)
@[simp] theorem State.withLev_pending (s : State) (x : PerSide SideUnit) : (s.withLev x).pending = s.pending := (rfl)
@[simp] theorem State.withFeed_travel (s : State) (x : PerDrive DriveUnit) : (s.withFeed x).travel = s.travel := (rfl)
@[simp] theorem State.withFeed_seq (s : State) (x : PerDrive DriveUnit) : (s.withFeed x).seq = s.seq := (rfl)
@[simp] theorem State.withFeed_lev (s : State) (x : PerDrive DriveUnit) : (s.withFeed x).lev = s.lev := (rfl)
@[simp] theorem State.withFeed_feed (s : State) (x : PerDrive DriveUnit) : (s.withFeed x).feed = x := (rfl)
@[simp] theorem State.withFeed_heat (s : State) (x : PerDrive DriveUnit) : (s.withFeed x).heat = s.heat := (rfl)
@[simp] theorem State.withFeed_zones (s : State) (x : PerDrive DriveUnit) : (s.withFeed x).zones = s.zones := (rfl)
@[simp] theorem State.withFeed_scan (s : State) (x : PerDrive DriveUnit) : (s.withFeed x).scan = s.scan := (rfl)
@[simp] theorem State.withFeed_record (s : State) (x : PerDrive DriveUnit) : (s.withFeed x).record = s.record := (rfl)
@[simp] theorem State.withFeed_store (s : State) (x : PerDrive DriveUnit) : (s.withFeed x).store = s.store := (rfl)
@[simp] theorem State.withFeed_settings (s : State) (x : PerDrive DriveUnit) : (s.withFeed x).settings = s.settings := (rfl)
@[simp] theorem State.withFeed_ports (s : State) (x : PerDrive DriveUnit) : (s.withFeed x).ports = s.ports := (rfl)
@[simp] theorem State.withFeed_timers (s : State) (x : PerDrive DriveUnit) : (s.withFeed x).timers = s.timers := (rfl)
@[simp] theorem State.withFeed_pins (s : State) (x : PerDrive DriveUnit) : (s.withFeed x).pins = s.pins := (rfl)
@[simp] theorem State.withFeed_now (s : State) (x : PerDrive DriveUnit) : (s.withFeed x).now = s.now := (rfl)
@[simp] theorem State.withFeed_free (s : State) (x : PerDrive DriveUnit) : (s.withFeed x).free = s.free := (rfl)
@[simp] theorem State.withFeed_pending (s : State) (x : PerDrive DriveUnit) : (s.withFeed x).pending = s.pending := (rfl)
@[simp] theorem State.withHeat_travel (s : State) (x : HeatUnit) : (s.withHeat x).travel = s.travel := (rfl)
@[simp] theorem State.withHeat_seq (s : State) (x : HeatUnit) : (s.withHeat x).seq = s.seq := (rfl)
@[simp] theorem State.withHeat_lev (s : State) (x : HeatUnit) : (s.withHeat x).lev = s.lev := (rfl)
@[simp] theorem State.withHeat_feed (s : State) (x : HeatUnit) : (s.withHeat x).feed = s.feed := (rfl)
@[simp] theorem State.withHeat_heat (s : State) (x : HeatUnit) : (s.withHeat x).heat = x := (rfl)
@[simp] theorem State.withHeat_zones (s : State) (x : HeatUnit) : (s.withHeat x).zones = s.zones := (rfl)
@[simp] theorem State.withHeat_scan (s : State) (x : HeatUnit) : (s.withHeat x).scan = s.scan := (rfl)
@[simp] theorem State.withHeat_record (s : State) (x : HeatUnit) : (s.withHeat x).record = s.record := (rfl)
@[simp] theorem State.withHeat_store (s : State) (x : HeatUnit) : (s.withHeat x).store = s.store := (rfl)
@[simp] theorem State.withHeat_settings (s : State) (x : HeatUnit) : (s.withHeat x).settings = s.settings := (rfl)
@[simp] theorem State.withHeat_ports (s : State) (x : HeatUnit) : (s.withHeat x).ports = s.ports := (rfl)
@[simp] theorem State.withHeat_timers (s : State) (x : HeatUnit) : (s.withHeat x).timers = s.timers := (rfl)
@[simp] theorem State.withHeat_pins (s : State) (x : HeatUnit) : (s.withHeat x).pins = s.pins := (rfl)
@[simp] theorem State.withHeat_now (s : State) (x : HeatUnit) : (s.withHeat x).now = s.now := (rfl)
@[simp] theorem State.withHeat_free (s : State) (x : HeatUnit) : (s.withHeat x).free = s.free := (rfl)
@[simp] theorem State.withHeat_pending (s : State) (x : HeatUnit) : (s.withHeat x).pending = s.pending := (rfl)
@[simp] theorem State.withZones_travel (s : State) (x : Vector ZoneUnit 12) : (s.withZones x).travel = s.travel := (rfl)
@[simp] theorem State.withZones_seq (s : State) (x : Vector ZoneUnit 12) : (s.withZones x).seq = s.seq := (rfl)
@[simp] theorem State.withZones_lev (s : State) (x : Vector ZoneUnit 12) : (s.withZones x).lev = s.lev := (rfl)
@[simp] theorem State.withZones_feed (s : State) (x : Vector ZoneUnit 12) : (s.withZones x).feed = s.feed := (rfl)
@[simp] theorem State.withZones_heat (s : State) (x : Vector ZoneUnit 12) : (s.withZones x).heat = s.heat := (rfl)
@[simp] theorem State.withZones_zones (s : State) (x : Vector ZoneUnit 12) : (s.withZones x).zones = x := (rfl)
@[simp] theorem State.withZones_scan (s : State) (x : Vector ZoneUnit 12) : (s.withZones x).scan = s.scan := (rfl)
@[simp] theorem State.withZones_record (s : State) (x : Vector ZoneUnit 12) : (s.withZones x).record = s.record := (rfl)
@[simp] theorem State.withZones_store (s : State) (x : Vector ZoneUnit 12) : (s.withZones x).store = s.store := (rfl)
@[simp] theorem State.withZones_settings (s : State) (x : Vector ZoneUnit 12) : (s.withZones x).settings = s.settings := (rfl)
@[simp] theorem State.withZones_ports (s : State) (x : Vector ZoneUnit 12) : (s.withZones x).ports = s.ports := (rfl)
@[simp] theorem State.withZones_timers (s : State) (x : Vector ZoneUnit 12) : (s.withZones x).timers = s.timers := (rfl)
@[simp] theorem State.withZones_pins (s : State) (x : Vector ZoneUnit 12) : (s.withZones x).pins = s.pins := (rfl)
@[simp] theorem State.withZones_now (s : State) (x : Vector ZoneUnit 12) : (s.withZones x).now = s.now := (rfl)
@[simp] theorem State.withZones_free (s : State) (x : Vector ZoneUnit 12) : (s.withZones x).free = s.free := (rfl)
@[simp] theorem State.withZones_pending (s : State) (x : Vector ZoneUnit 12) : (s.withZones x).pending = s.pending := (rfl)
@[simp] theorem State.withScan_travel (s : State) (x : Scan) : (s.withScan x).travel = s.travel := (rfl)
@[simp] theorem State.withScan_seq (s : State) (x : Scan) : (s.withScan x).seq = s.seq := (rfl)
@[simp] theorem State.withScan_lev (s : State) (x : Scan) : (s.withScan x).lev = s.lev := (rfl)
@[simp] theorem State.withScan_feed (s : State) (x : Scan) : (s.withScan x).feed = s.feed := (rfl)
@[simp] theorem State.withScan_heat (s : State) (x : Scan) : (s.withScan x).heat = s.heat := (rfl)
@[simp] theorem State.withScan_zones (s : State) (x : Scan) : (s.withScan x).zones = s.zones := (rfl)
@[simp] theorem State.withScan_scan (s : State) (x : Scan) : (s.withScan x).scan = x := (rfl)
@[simp] theorem State.withScan_record (s : State) (x : Scan) : (s.withScan x).record = s.record := (rfl)
@[simp] theorem State.withScan_store (s : State) (x : Scan) : (s.withScan x).store = s.store := (rfl)
@[simp] theorem State.withScan_settings (s : State) (x : Scan) : (s.withScan x).settings = s.settings := (rfl)
@[simp] theorem State.withScan_ports (s : State) (x : Scan) : (s.withScan x).ports = s.ports := (rfl)
@[simp] theorem State.withScan_timers (s : State) (x : Scan) : (s.withScan x).timers = s.timers := (rfl)
@[simp] theorem State.withScan_pins (s : State) (x : Scan) : (s.withScan x).pins = s.pins := (rfl)
@[simp] theorem State.withScan_now (s : State) (x : Scan) : (s.withScan x).now = s.now := (rfl)
@[simp] theorem State.withScan_free (s : State) (x : Scan) : (s.withScan x).free = s.free := (rfl)
@[simp] theorem State.withScan_pending (s : State) (x : Scan) : (s.withScan x).pending = s.pending := (rfl)
@[simp] theorem State.withRecord_travel (s : State) (x : RecordUnit) : (s.withRecord x).travel = s.travel := (rfl)
@[simp] theorem State.withRecord_seq (s : State) (x : RecordUnit) : (s.withRecord x).seq = s.seq := (rfl)
@[simp] theorem State.withRecord_lev (s : State) (x : RecordUnit) : (s.withRecord x).lev = s.lev := (rfl)
@[simp] theorem State.withRecord_feed (s : State) (x : RecordUnit) : (s.withRecord x).feed = s.feed := (rfl)
@[simp] theorem State.withRecord_heat (s : State) (x : RecordUnit) : (s.withRecord x).heat = s.heat := (rfl)
@[simp] theorem State.withRecord_zones (s : State) (x : RecordUnit) : (s.withRecord x).zones = s.zones := (rfl)
@[simp] theorem State.withRecord_scan (s : State) (x : RecordUnit) : (s.withRecord x).scan = s.scan := (rfl)
@[simp] theorem State.withRecord_record (s : State) (x : RecordUnit) : (s.withRecord x).record = x := (rfl)
@[simp] theorem State.withRecord_store (s : State) (x : RecordUnit) : (s.withRecord x).store = s.store := (rfl)
@[simp] theorem State.withRecord_settings (s : State) (x : RecordUnit) : (s.withRecord x).settings = s.settings := (rfl)
@[simp] theorem State.withRecord_ports (s : State) (x : RecordUnit) : (s.withRecord x).ports = s.ports := (rfl)
@[simp] theorem State.withRecord_timers (s : State) (x : RecordUnit) : (s.withRecord x).timers = s.timers := (rfl)
@[simp] theorem State.withRecord_pins (s : State) (x : RecordUnit) : (s.withRecord x).pins = s.pins := (rfl)
@[simp] theorem State.withRecord_now (s : State) (x : RecordUnit) : (s.withRecord x).now = s.now := (rfl)
@[simp] theorem State.withRecord_free (s : State) (x : RecordUnit) : (s.withRecord x).free = s.free := (rfl)
@[simp] theorem State.withRecord_pending (s : State) (x : RecordUnit) : (s.withRecord x).pending = s.pending := (rfl)
@[simp] theorem State.withStore_travel (s : State) (x : Store) : (s.withStore x).travel = s.travel := (rfl)
@[simp] theorem State.withStore_seq (s : State) (x : Store) : (s.withStore x).seq = s.seq := (rfl)
@[simp] theorem State.withStore_lev (s : State) (x : Store) : (s.withStore x).lev = s.lev := (rfl)
@[simp] theorem State.withStore_feed (s : State) (x : Store) : (s.withStore x).feed = s.feed := (rfl)
@[simp] theorem State.withStore_heat (s : State) (x : Store) : (s.withStore x).heat = s.heat := (rfl)
@[simp] theorem State.withStore_zones (s : State) (x : Store) : (s.withStore x).zones = s.zones := (rfl)
@[simp] theorem State.withStore_scan (s : State) (x : Store) : (s.withStore x).scan = s.scan := (rfl)
@[simp] theorem State.withStore_record (s : State) (x : Store) : (s.withStore x).record = s.record := (rfl)
@[simp] theorem State.withStore_store (s : State) (x : Store) : (s.withStore x).store = x := (rfl)
@[simp] theorem State.withStore_settings (s : State) (x : Store) : (s.withStore x).settings = s.settings := (rfl)
@[simp] theorem State.withStore_ports (s : State) (x : Store) : (s.withStore x).ports = s.ports := (rfl)
@[simp] theorem State.withStore_timers (s : State) (x : Store) : (s.withStore x).timers = s.timers := (rfl)
@[simp] theorem State.withStore_pins (s : State) (x : Store) : (s.withStore x).pins = s.pins := (rfl)
@[simp] theorem State.withStore_now (s : State) (x : Store) : (s.withStore x).now = s.now := (rfl)
@[simp] theorem State.withStore_free (s : State) (x : Store) : (s.withStore x).free = s.free := (rfl)
@[simp] theorem State.withStore_pending (s : State) (x : Store) : (s.withStore x).pending = s.pending := (rfl)
@[simp] theorem State.withSettings_travel (s : State) (x : Settings) : (s.withSettings x).travel = s.travel := (rfl)
@[simp] theorem State.withSettings_seq (s : State) (x : Settings) : (s.withSettings x).seq = s.seq := (rfl)
@[simp] theorem State.withSettings_lev (s : State) (x : Settings) : (s.withSettings x).lev = s.lev := (rfl)
@[simp] theorem State.withSettings_feed (s : State) (x : Settings) : (s.withSettings x).feed = s.feed := (rfl)
@[simp] theorem State.withSettings_heat (s : State) (x : Settings) : (s.withSettings x).heat = s.heat := (rfl)
@[simp] theorem State.withSettings_zones (s : State) (x : Settings) : (s.withSettings x).zones = s.zones := (rfl)
@[simp] theorem State.withSettings_scan (s : State) (x : Settings) : (s.withSettings x).scan = s.scan := (rfl)
@[simp] theorem State.withSettings_record (s : State) (x : Settings) : (s.withSettings x).record = s.record := (rfl)
@[simp] theorem State.withSettings_store (s : State) (x : Settings) : (s.withSettings x).store = s.store := (rfl)
@[simp] theorem State.withSettings_settings (s : State) (x : Settings) : (s.withSettings x).settings = x := (rfl)
@[simp] theorem State.withSettings_ports (s : State) (x : Settings) : (s.withSettings x).ports = s.ports := (rfl)
@[simp] theorem State.withSettings_timers (s : State) (x : Settings) : (s.withSettings x).timers = s.timers := (rfl)
@[simp] theorem State.withSettings_pins (s : State) (x : Settings) : (s.withSettings x).pins = s.pins := (rfl)
@[simp] theorem State.withSettings_now (s : State) (x : Settings) : (s.withSettings x).now = s.now := (rfl)
@[simp] theorem State.withSettings_free (s : State) (x : Settings) : (s.withSettings x).free = s.free := (rfl)
@[simp] theorem State.withSettings_pending (s : State) (x : Settings) : (s.withSettings x).pending = s.pending := (rfl)
@[simp] theorem State.withPorts_travel (s : State) (x : PerPort PortState) : (s.withPorts x).travel = s.travel := (rfl)
@[simp] theorem State.withPorts_seq (s : State) (x : PerPort PortState) : (s.withPorts x).seq = s.seq := (rfl)
@[simp] theorem State.withPorts_lev (s : State) (x : PerPort PortState) : (s.withPorts x).lev = s.lev := (rfl)
@[simp] theorem State.withPorts_feed (s : State) (x : PerPort PortState) : (s.withPorts x).feed = s.feed := (rfl)
@[simp] theorem State.withPorts_heat (s : State) (x : PerPort PortState) : (s.withPorts x).heat = s.heat := (rfl)
@[simp] theorem State.withPorts_zones (s : State) (x : PerPort PortState) : (s.withPorts x).zones = s.zones := (rfl)
@[simp] theorem State.withPorts_scan (s : State) (x : PerPort PortState) : (s.withPorts x).scan = s.scan := (rfl)
@[simp] theorem State.withPorts_record (s : State) (x : PerPort PortState) : (s.withPorts x).record = s.record := (rfl)
@[simp] theorem State.withPorts_store (s : State) (x : PerPort PortState) : (s.withPorts x).store = s.store := (rfl)
@[simp] theorem State.withPorts_settings (s : State) (x : PerPort PortState) : (s.withPorts x).settings = s.settings := (rfl)
@[simp] theorem State.withPorts_ports (s : State) (x : PerPort PortState) : (s.withPorts x).ports = x := (rfl)
@[simp] theorem State.withPorts_timers (s : State) (x : PerPort PortState) : (s.withPorts x).timers = s.timers := (rfl)
@[simp] theorem State.withPorts_pins (s : State) (x : PerPort PortState) : (s.withPorts x).pins = s.pins := (rfl)
@[simp] theorem State.withPorts_now (s : State) (x : PerPort PortState) : (s.withPorts x).now = s.now := (rfl)
@[simp] theorem State.withPorts_free (s : State) (x : PerPort PortState) : (s.withPorts x).free = s.free := (rfl)
@[simp] theorem State.withPorts_pending (s : State) (x : PerPort PortState) : (s.withPorts x).pending = s.pending := (rfl)
@[simp] theorem State.withTimers_travel (s : State) (x : Timers) : (s.withTimers x).travel = s.travel := (rfl)
@[simp] theorem State.withTimers_seq (s : State) (x : Timers) : (s.withTimers x).seq = s.seq := (rfl)
@[simp] theorem State.withTimers_lev (s : State) (x : Timers) : (s.withTimers x).lev = s.lev := (rfl)
@[simp] theorem State.withTimers_feed (s : State) (x : Timers) : (s.withTimers x).feed = s.feed := (rfl)
@[simp] theorem State.withTimers_heat (s : State) (x : Timers) : (s.withTimers x).heat = s.heat := (rfl)
@[simp] theorem State.withTimers_zones (s : State) (x : Timers) : (s.withTimers x).zones = s.zones := (rfl)
@[simp] theorem State.withTimers_scan (s : State) (x : Timers) : (s.withTimers x).scan = s.scan := (rfl)
@[simp] theorem State.withTimers_record (s : State) (x : Timers) : (s.withTimers x).record = s.record := (rfl)
@[simp] theorem State.withTimers_store (s : State) (x : Timers) : (s.withTimers x).store = s.store := (rfl)
@[simp] theorem State.withTimers_settings (s : State) (x : Timers) : (s.withTimers x).settings = s.settings := (rfl)
@[simp] theorem State.withTimers_ports (s : State) (x : Timers) : (s.withTimers x).ports = s.ports := (rfl)
@[simp] theorem State.withTimers_timers (s : State) (x : Timers) : (s.withTimers x).timers = x := (rfl)
@[simp] theorem State.withTimers_pins (s : State) (x : Timers) : (s.withTimers x).pins = s.pins := (rfl)
@[simp] theorem State.withTimers_now (s : State) (x : Timers) : (s.withTimers x).now = s.now := (rfl)
@[simp] theorem State.withTimers_free (s : State) (x : Timers) : (s.withTimers x).free = s.free := (rfl)
@[simp] theorem State.withTimers_pending (s : State) (x : Timers) : (s.withTimers x).pending = s.pending := (rfl)
@[simp] theorem State.withPins_travel (s : State) (x : Pins) : (s.withPins x).travel = s.travel := (rfl)
@[simp] theorem State.withPins_seq (s : State) (x : Pins) : (s.withPins x).seq = s.seq := (rfl)
@[simp] theorem State.withPins_lev (s : State) (x : Pins) : (s.withPins x).lev = s.lev := (rfl)
@[simp] theorem State.withPins_feed (s : State) (x : Pins) : (s.withPins x).feed = s.feed := (rfl)
@[simp] theorem State.withPins_heat (s : State) (x : Pins) : (s.withPins x).heat = s.heat := (rfl)
@[simp] theorem State.withPins_zones (s : State) (x : Pins) : (s.withPins x).zones = s.zones := (rfl)
@[simp] theorem State.withPins_scan (s : State) (x : Pins) : (s.withPins x).scan = s.scan := (rfl)
@[simp] theorem State.withPins_record (s : State) (x : Pins) : (s.withPins x).record = s.record := (rfl)
@[simp] theorem State.withPins_store (s : State) (x : Pins) : (s.withPins x).store = s.store := (rfl)
@[simp] theorem State.withPins_settings (s : State) (x : Pins) : (s.withPins x).settings = s.settings := (rfl)
@[simp] theorem State.withPins_ports (s : State) (x : Pins) : (s.withPins x).ports = s.ports := (rfl)
@[simp] theorem State.withPins_timers (s : State) (x : Pins) : (s.withPins x).timers = s.timers := (rfl)
@[simp] theorem State.withPins_pins (s : State) (x : Pins) : (s.withPins x).pins = x := (rfl)
@[simp] theorem State.withPins_now (s : State) (x : Pins) : (s.withPins x).now = s.now := (rfl)
@[simp] theorem State.withPins_free (s : State) (x : Pins) : (s.withPins x).free = s.free := (rfl)
@[simp] theorem State.withPins_pending (s : State) (x : Pins) : (s.withPins x).pending = s.pending := (rfl)
@[simp] theorem State.withNow_travel (s : State) (x : Nat) : (s.withNow x).travel = s.travel := (rfl)
@[simp] theorem State.withNow_seq (s : State) (x : Nat) : (s.withNow x).seq = s.seq := (rfl)
@[simp] theorem State.withNow_lev (s : State) (x : Nat) : (s.withNow x).lev = s.lev := (rfl)
@[simp] theorem State.withNow_feed (s : State) (x : Nat) : (s.withNow x).feed = s.feed := (rfl)
@[simp] theorem State.withNow_heat (s : State) (x : Nat) : (s.withNow x).heat = s.heat := (rfl)
@[simp] theorem State.withNow_zones (s : State) (x : Nat) : (s.withNow x).zones = s.zones := (rfl)
@[simp] theorem State.withNow_scan (s : State) (x : Nat) : (s.withNow x).scan = s.scan := (rfl)
@[simp] theorem State.withNow_record (s : State) (x : Nat) : (s.withNow x).record = s.record := (rfl)
@[simp] theorem State.withNow_store (s : State) (x : Nat) : (s.withNow x).store = s.store := (rfl)
@[simp] theorem State.withNow_settings (s : State) (x : Nat) : (s.withNow x).settings = s.settings := (rfl)
@[simp] theorem State.withNow_ports (s : State) (x : Nat) : (s.withNow x).ports = s.ports := (rfl)
@[simp] theorem State.withNow_timers (s : State) (x : Nat) : (s.withNow x).timers = s.timers := (rfl)
@[simp] theorem State.withNow_pins (s : State) (x : Nat) : (s.withNow x).pins = s.pins := (rfl)
@[simp] theorem State.withNow_now (s : State) (x : Nat) : (s.withNow x).now = x := (rfl)
@[simp] theorem State.withNow_free (s : State) (x : Nat) : (s.withNow x).free = s.free := (rfl)
@[simp] theorem State.withNow_pending (s : State) (x : Nat) : (s.withNow x).pending = s.pending := (rfl)
@[simp] theorem State.withFree_travel (s : State) (x : Nat) : (s.withFree x).travel = s.travel := (rfl)
@[simp] theorem State.withFree_seq (s : State) (x : Nat) : (s.withFree x).seq = s.seq := (rfl)
@[simp] theorem State.withFree_lev (s : State) (x : Nat) : (s.withFree x).lev = s.lev := (rfl)
@[simp] theorem State.withFree_feed (s : State) (x : Nat) : (s.withFree x).feed = s.feed := (rfl)
@[simp] theorem State.withFree_heat (s : State) (x : Nat) : (s.withFree x).heat = s.heat := (rfl)
@[simp] theorem State.withFree_zones (s : State) (x : Nat) : (s.withFree x).zones = s.zones := (rfl)
@[simp] theorem State.withFree_scan (s : State) (x : Nat) : (s.withFree x).scan = s.scan := (rfl)
@[simp] theorem State.withFree_record (s : State) (x : Nat) : (s.withFree x).record = s.record := (rfl)
@[simp] theorem State.withFree_store (s : State) (x : Nat) : (s.withFree x).store = s.store := (rfl)
@[simp] theorem State.withFree_settings (s : State) (x : Nat) : (s.withFree x).settings = s.settings := (rfl)
@[simp] theorem State.withFree_ports (s : State) (x : Nat) : (s.withFree x).ports = s.ports := (rfl)
@[simp] theorem State.withFree_timers (s : State) (x : Nat) : (s.withFree x).timers = s.timers := (rfl)
@[simp] theorem State.withFree_pins (s : State) (x : Nat) : (s.withFree x).pins = s.pins := (rfl)
@[simp] theorem State.withFree_now (s : State) (x : Nat) : (s.withFree x).now = s.now := (rfl)
@[simp] theorem State.withFree_free (s : State) (x : Nat) : (s.withFree x).free = x := (rfl)
@[simp] theorem State.withFree_pending (s : State) (x : Nat) : (s.withFree x).pending = s.pending := (rfl)
@[simp] theorem State.withPending_travel (s : State) (x : List Instr) : (s.withPending x).travel = s.travel := (rfl)
@[simp] theorem State.withPending_seq (s : State) (x : List Instr) : (s.withPending x).seq = s.seq := (rfl)
@[simp] theorem State.withPending_lev (s : State) (x : List Instr) : (s.withPending x).lev = s.lev := (rfl)
@[simp] theorem State.withPending_feed (s : State) (x : List Instr) : (s.withPending x).feed = s.feed := (rfl)
@[simp] theorem State.withPending_heat (s : State) (x : List Instr) : (s.withPending x).heat = s.heat := (rfl)
@[simp] theorem State.withPending_zones (s : State) (x : List Instr) : (s.withPending x).zones = s.zones := (rfl)
@[simp] theorem State.withPending_scan (s : State) (x : List Instr) : (s.withPending x).scan = s.scan := (rfl)
@[simp] theorem State.withPending_record (s : State) (x : List Instr) : (s.withPending x).record = s.record := (rfl)
@[simp] theorem State.withPending_store (s : State) (x : List Instr) : (s.withPending x).store = s.store := (rfl)
@[simp] theorem State.withPending_settings (s : State) (x : List Instr) : (s.withPending x).settings = s.settings := (rfl)
@[simp] theorem State.withPending_ports (s : State) (x : List Instr) : (s.withPending x).ports = s.ports := (rfl)
@[simp] theorem State.withPending_timers (s : State) (x : List Instr) : (s.withPending x).timers = s.timers := (rfl)
@[simp] theorem State.withPending_pins (s : State) (x : List Instr) : (s.withPending x).pins = s.pins := (rfl)
@[simp] theorem State.withPending_now (s : State) (x : List Instr) : (s.withPending x).now = s.now := (rfl)
@[simp] theorem State.withPending_free (s : State) (x : List Instr) : (s.withPending x).free = s.free := (rfl)
@[simp] theorem State.withPending_pending (s : State) (x : List Instr) : (s.withPending x).pending = x := (rfl)

@[simp] theorem PerSide.get_set_self {α : Type} (v : PerSide α) (i : Side) (x : α) : (v.set i x).get i = x := by
  cases i <;> rfl

@[simp] theorem PerSide.get_set_ne {α : Type} (v : PerSide α) (i j : Side) (x : α) (h : j ≠ i) :
    (v.set i x).get j = v.get j := by
  cases i <;> cases j <;> first | rfl | exact absurd rfl h

theorem PerSide.get_set {α : Type} (v : PerSide α) (i j : Side) (x : α) :
    (v.set i x).get j = if j = i then x else v.get j := by
  cases i <;> cases j <;> rfl

@[simp] theorem PerSide.get_map {α β : Type} (f : Side → α → β) (v : PerSide α) (i : Side) :
    (v.map f).get i = f i (v.get i) := by
  cases i <;> rfl

theorem PerSide.ext_get {α : Type} (v w : PerSide α) (h : ∀ i, v.get i = w.get i) : v = w := by
  have h_left := h .left
  have h_right := h .right
  cases v
  cases w
  simp only [PerSide.get] at h_left h_right
  simp only [PerSide.mk.injEq]
  exact ⟨h_left, h_right⟩

@[simp] theorem PerPort.get_set_self {α : Type} (v : PerPort α) (i : Port) (x : α) : (v.set i x).get i = x := by
  cases i <;> rfl

@[simp] theorem PerPort.get_set_ne {α : Type} (v : PerPort α) (i j : Port) (x : α) (h : j ≠ i) :
    (v.set i x).get j = v.get j := by
  cases i <;> cases j <;> first | rfl | exact absurd rfl h

theorem PerPort.get_set {α : Type} (v : PerPort α) (i j : Port) (x : α) :
    (v.set i x).get j = if j = i then x else v.get j := by
  cases i <;> cases j <;> rfl

@[simp] theorem PerPort.get_map {α β : Type} (f : Port → α → β) (v : PerPort α) (i : Port) :
    (v.map f).get i = f i (v.get i) := by
  cases i <;> rfl

theorem PerPort.ext_get {α : Type} (v w : PerPort α) (h : ∀ i, v.get i = w.get i) : v = w := by
  have h_m := h .m
  have h_l := h .l
  have h_r := h .r
  have h_d := h .d
  cases v
  cases w
  simp only [PerPort.get] at h_m h_l h_r h_d
  simp only [PerPort.mk.injEq]
  exact ⟨h_m, h_l, h_r, h_d⟩

@[simp] theorem PerDrive.get_set_self {α : Type} (v : PerDrive α) (i : Drive) (x : α) : (v.set i x).get i = x := by
  cases i <;> rfl

@[simp] theorem PerDrive.get_set_ne {α : Type} (v : PerDrive α) (i j : Drive) (x : α) (h : j ≠ i) :
    (v.set i x).get j = v.get j := by
  cases i <;> cases j <;> first | rfl | exact absurd rfl h

theorem PerDrive.get_set {α : Type} (v : PerDrive α) (i j : Drive) (x : α) :
    (v.set i x).get j = if j = i then x else v.get j := by
  cases i <;> cases j <;> rfl

@[simp] theorem PerDrive.get_map {α β : Type} (f : Drive → α → β) (v : PerDrive α) (i : Drive) :
    (v.map f).get i = f i (v.get i) := by
  cases i <;> rfl

theorem PerDrive.ext_get {α : Type} (v w : PerDrive α) (h : ∀ i, v.get i = w.get i) : v = w := by
  have h_convL := h .convL
  have h_convR := h .convR
  have h_augL := h .augL
  have h_augR := h .augR
  cases v
  cases w
  simp only [PerDrive.get] at h_convL h_convR h_augL h_augR
  simp only [PerDrive.mk.injEq]
  exact ⟨h_convL, h_convR, h_augL, h_augR⟩

@[simp] theorem PerClass.get_set_self {α : Type} (v : PerClass α) (i : SampleClass) (x : α) : (v.set i x).get i = x := by
  cases i <;> rfl

@[simp] theorem PerClass.get_set_ne {α : Type} (v : PerClass α) (i j : SampleClass) (x : α) (h : j ≠ i) :
    (v.set i x).get j = v.get j := by
  cases i <;> cases j <;> first | rfl | exact absurd rfl h

theorem PerClass.get_set {α : Type} (v : PerClass α) (i j : SampleClass) (x : α) :
    (v.set i x).get j = if j = i then x else v.get j := by
  cases i <;> cases j <;> rfl

theorem PerClass.ext_get {α : Type} (v w : PerClass α) (h : ∀ i, v.get i = w.get i) : v = w := by
  have h_fast := h .fast
  have h_medium := h .medium
  have h_slow := h .slow
  cases v
  cases w
  simp only [PerClass.get] at h_fast h_medium h_slow
  simp only [PerClass.mk.injEq]
  exact ⟨h_fast, h_medium, h_slow⟩

end Sys2Proof.Machine
end

