-- ==== Sys2Proof/Laws/Frames.lean ====
section
/-! SUPPORT. One frame lemma for each shared operation: the parts of the state it never touches. As simp lemmas they answer every
read of an untouched part without unfolding the operation. -/

namespace Sys2Proof.Machine

variable (s : State)

@[simp] theorem raiseOn_frame (on : Port → Bool) (k : AlertKind) :
    (raiseOn on k s).travel = s.travel ∧ (raiseOn on k s).seq = s.seq ∧ (raiseOn on k s).lev = s.lev
      ∧ (raiseOn on k s).feed = s.feed ∧ (raiseOn on k s).heat = s.heat ∧ (raiseOn on k s).zones = s.zones
      ∧ (raiseOn on k s).scan = s.scan ∧ (raiseOn on k s).record = s.record ∧ (raiseOn on k s).store = s.store
      ∧ (raiseOn on k s).settings = s.settings ∧ (raiseOn on k s).timers = s.timers ∧ (raiseOn on k s).pins = s.pins
      ∧ (raiseOn on k s).now = s.now ∧ (raiseOn on k s).free = s.free ∧ (raiseOn on k s).pending = s.pending := by
  simp [raiseOn]

@[simp] theorem raiseAll_frame (k : AlertKind) :
    (raiseAll k s).travel = s.travel ∧ (raiseAll k s).seq = s.seq ∧ (raiseAll k s).lev = s.lev
      ∧ (raiseAll k s).feed = s.feed ∧ (raiseAll k s).heat = s.heat ∧ (raiseAll k s).zones = s.zones
      ∧ (raiseAll k s).scan = s.scan ∧ (raiseAll k s).record = s.record ∧ (raiseAll k s).store = s.store
      ∧ (raiseAll k s).settings = s.settings ∧ (raiseAll k s).timers = s.timers ∧ (raiseAll k s).pins = s.pins
      ∧ (raiseAll k s).now = s.now ∧ (raiseAll k s).free = s.free ∧ (raiseAll k s).pending = s.pending := by
  simp [raiseAll]

@[simp] theorem raiseOthers_frame (p : Port) (k : AlertKind) :
    (raiseOthers p k s).travel = s.travel ∧ (raiseOthers p k s).seq = s.seq ∧ (raiseOthers p k s).lev = s.lev
      ∧ (raiseOthers p k s).feed = s.feed ∧ (raiseOthers p k s).heat = s.heat ∧ (raiseOthers p k s).zones = s.zones
      ∧ (raiseOthers p k s).scan = s.scan ∧ (raiseOthers p k s).record = s.record ∧ (raiseOthers p k s).store = s.store
      ∧ (raiseOthers p k s).settings = s.settings ∧ (raiseOthers p k s).timers = s.timers
      ∧ (raiseOthers p k s).pins = s.pins ∧ (raiseOthers p k s).now = s.now ∧ (raiseOthers p k s).free = s.free
      ∧ (raiseOthers p k s).pending = s.pending := by
  simp [raiseOthers]

@[simp] theorem raiseAllIf_frame (c : Bool) (k : AlertKind) :
    (raiseAllIf c k s).travel = s.travel ∧ (raiseAllIf c k s).seq = s.seq ∧ (raiseAllIf c k s).lev = s.lev
      ∧ (raiseAllIf c k s).feed = s.feed ∧ (raiseAllIf c k s).heat = s.heat ∧ (raiseAllIf c k s).zones = s.zones
      ∧ (raiseAllIf c k s).scan = s.scan ∧ (raiseAllIf c k s).record = s.record ∧ (raiseAllIf c k s).store = s.store
      ∧ (raiseAllIf c k s).settings = s.settings ∧ (raiseAllIf c k s).timers = s.timers ∧ (raiseAllIf c k s).pins = s.pins
      ∧ (raiseAllIf c k s).now = s.now ∧ (raiseAllIf c k s).free = s.free ∧ (raiseAllIf c k s).pending = s.pending := by
  simp only [raiseAllIf]; (repeat' split) <;> simp

@[simp] theorem report_frame (f : OpenRecord → OpenRecord) :
    (report f s).travel = s.travel ∧ (report f s).seq = s.seq ∧ (report f s).lev = s.lev ∧ (report f s).feed = s.feed
      ∧ (report f s).heat = s.heat ∧ (report f s).zones = s.zones ∧ (report f s).scan = s.scan
      ∧ (report f s).store = s.store ∧ (report f s).settings = s.settings ∧ (report f s).ports = s.ports
      ∧ (report f s).timers = s.timers ∧ (report f s).pins = s.pins ∧ (report f s).now = s.now
      ∧ (report f s).free = s.free ∧ (report f s).pending = s.pending := by
  simp only [report]; (repeat' split) <;> simp

@[simp] theorem reportFlags_frame (f : RecordFlags → RecordFlags) :
    (reportFlags f s).travel = s.travel ∧ (reportFlags f s).seq = s.seq ∧ (reportFlags f s).lev = s.lev
      ∧ (reportFlags f s).feed = s.feed ∧ (reportFlags f s).heat = s.heat ∧ (reportFlags f s).zones = s.zones
      ∧ (reportFlags f s).scan = s.scan ∧ (reportFlags f s).store = s.store ∧ (reportFlags f s).settings = s.settings
      ∧ (reportFlags f s).ports = s.ports ∧ (reportFlags f s).timers = s.timers ∧ (reportFlags f s).pins = s.pins
      ∧ (reportFlags f s).now = s.now ∧ (reportFlags f s).free = s.free ∧ (reportFlags f s).pending = s.pending := by
  simp [reportFlags]

@[simp] theorem reportStarved_frame (z : ZoneSet) :
    (reportStarved z s).travel = s.travel ∧ (reportStarved z s).seq = s.seq ∧ (reportStarved z s).lev = s.lev
      ∧ (reportStarved z s).feed = s.feed ∧ (reportStarved z s).heat = s.heat ∧ (reportStarved z s).zones = s.zones
      ∧ (reportStarved z s).scan = s.scan ∧ (reportStarved z s).store = s.store
      ∧ (reportStarved z s).settings = s.settings ∧ (reportStarved z s).ports = s.ports
      ∧ (reportStarved z s).timers = s.timers ∧ (reportStarved z s).pins = s.pins ∧ (reportStarved z s).now = s.now
      ∧ (reportStarved z s).free = s.free ∧ (reportStarved z s).pending = s.pending := by
  simp [reportStarved]

@[simp] theorem reportFaulted_frame (z : ZoneSet) :
    (reportFaulted z s).travel = s.travel ∧ (reportFaulted z s).seq = s.seq ∧ (reportFaulted z s).lev = s.lev
      ∧ (reportFaulted z s).feed = s.feed ∧ (reportFaulted z s).heat = s.heat ∧ (reportFaulted z s).zones = s.zones
      ∧ (reportFaulted z s).scan = s.scan ∧ (reportFaulted z s).store = s.store
      ∧ (reportFaulted z s).settings = s.settings ∧ (reportFaulted z s).ports = s.ports
      ∧ (reportFaulted z s).timers = s.timers ∧ (reportFaulted z s).pins = s.pins ∧ (reportFaulted z s).now = s.now
      ∧ (reportFaulted z s).free = s.free ∧ (reportFaulted z s).pending = s.pending := by
  simp [reportFaulted]

@[simp] theorem reportTrip_frame :
    (reportTrip s).travel = s.travel ∧ (reportTrip s).seq = s.seq ∧ (reportTrip s).lev = s.lev
      ∧ (reportTrip s).feed = s.feed ∧ (reportTrip s).heat = s.heat ∧ (reportTrip s).zones = s.zones
      ∧ (reportTrip s).scan = s.scan ∧ (reportTrip s).store = s.store ∧ (reportTrip s).settings = s.settings
      ∧ (reportTrip s).ports = s.ports ∧ (reportTrip s).timers = s.timers ∧ (reportTrip s).pins = s.pins
      ∧ (reportTrip s).now = s.now ∧ (reportTrip s).free = s.free ∧ (reportTrip s).pending = s.pending := by
  simp [reportTrip]

@[simp] theorem State.reach_frame (due : Nat) :
    (s.reach due).travel = s.travel ∧ (s.reach due).seq = s.seq ∧ (s.reach due).lev = s.lev ∧ (s.reach due).feed = s.feed
      ∧ (s.reach due).heat = s.heat ∧ (s.reach due).zones = s.zones ∧ (s.reach due).scan = s.scan
      ∧ (s.reach due).record = s.record ∧ (s.reach due).store = s.store ∧ (s.reach due).settings = s.settings
      ∧ (s.reach due).ports = s.ports ∧ (s.reach due).timers = s.timers ∧ (s.reach due).pins = s.pins
      ∧ (s.reach due).free = s.free ∧ (s.reach due).pending = s.pending := by
  simp [State.reach]

@[simp] theorem State.reachOpt_frame (due : Option Nat) :
    (s.reachOpt due).travel = s.travel ∧ (s.reachOpt due).seq = s.seq ∧ (s.reachOpt due).lev = s.lev
      ∧ (s.reachOpt due).feed = s.feed ∧ (s.reachOpt due).heat = s.heat ∧ (s.reachOpt due).zones = s.zones
      ∧ (s.reachOpt due).scan = s.scan ∧ (s.reachOpt due).record = s.record ∧ (s.reachOpt due).store = s.store
      ∧ (s.reachOpt due).settings = s.settings ∧ (s.reachOpt due).ports = s.ports ∧ (s.reachOpt due).timers = s.timers
      ∧ (s.reachOpt due).pins = s.pins ∧ (s.reachOpt due).free = s.free ∧ (s.reachOpt due).pending = s.pending := by
  simp only [State.reachOpt]; (repeat' split) <;> simp

@[simp] theorem State.modifyPort_frame (p : Port) (f : PortState → PortState) :
    (s.modifyPort p f).travel = s.travel ∧ (s.modifyPort p f).seq = s.seq ∧ (s.modifyPort p f).lev = s.lev
      ∧ (s.modifyPort p f).feed = s.feed ∧ (s.modifyPort p f).heat = s.heat ∧ (s.modifyPort p f).zones = s.zones
      ∧ (s.modifyPort p f).scan = s.scan ∧ (s.modifyPort p f).record = s.record ∧ (s.modifyPort p f).store = s.store
      ∧ (s.modifyPort p f).settings = s.settings ∧ (s.modifyPort p f).timers = s.timers ∧ (s.modifyPort p f).pins = s.pins
      ∧ (s.modifyPort p f).now = s.now ∧ (s.modifyPort p f).free = s.free ∧ (s.modifyPort p f).pending = s.pending := by
  simp [State.modifyPort]

@[simp] theorem heard_frame (p : Port) :
    (heard p s).travel = s.travel ∧ (heard p s).seq = s.seq ∧ (heard p s).lev = s.lev ∧ (heard p s).feed = s.feed
      ∧ (heard p s).heat = s.heat ∧ (heard p s).zones = s.zones ∧ (heard p s).scan = s.scan
      ∧ (heard p s).record = s.record ∧ (heard p s).store = s.store ∧ (heard p s).settings = s.settings
      ∧ (heard p s).timers = s.timers ∧ (heard p s).pins = s.pins ∧ (heard p s).now = s.now ∧ (heard p s).free = s.free
      ∧ (heard p s).pending = s.pending := by
  simp [heard]

@[simp] theorem takeRequest_frame (p : Port) :
    (takeRequest p s).travel = s.travel ∧ (takeRequest p s).seq = s.seq ∧ (takeRequest p s).lev = s.lev
      ∧ (takeRequest p s).feed = s.feed ∧ (takeRequest p s).heat = s.heat ∧ (takeRequest p s).zones = s.zones
      ∧ (takeRequest p s).scan = s.scan ∧ (takeRequest p s).record = s.record ∧ (takeRequest p s).store = s.store
      ∧ (takeRequest p s).settings = s.settings ∧ (takeRequest p s).timers = s.timers ∧ (takeRequest p s).pins = s.pins
      ∧ (takeRequest p s).now = s.now ∧ (takeRequest p s).free = s.free ∧ (takeRequest p s).pending = s.pending := by
  simp [takeRequest]

@[simp] theorem answer_frame (p : Port) (a : Answer) :
    (answer p a s).travel = s.travel ∧ (answer p a s).seq = s.seq ∧ (answer p a s).lev = s.lev
      ∧ (answer p a s).feed = s.feed ∧ (answer p a s).heat = s.heat ∧ (answer p a s).zones = s.zones
      ∧ (answer p a s).scan = s.scan ∧ (answer p a s).record = s.record ∧ (answer p a s).store = s.store
      ∧ (answer p a s).settings = s.settings ∧ (answer p a s).timers = s.timers ∧ (answer p a s).pins = s.pins
      ∧ (answer p a s).now = s.now ∧ (answer p a s).free = s.free ∧ (answer p a s).pending = s.pending := by
  simp [answer]

@[simp] theorem answerCode_frame (p : Port) (c : AnswerCode) :
    (answerCode p c s).travel = s.travel ∧ (answerCode p c s).seq = s.seq ∧ (answerCode p c s).lev = s.lev
      ∧ (answerCode p c s).feed = s.feed ∧ (answerCode p c s).heat = s.heat ∧ (answerCode p c s).zones = s.zones
      ∧ (answerCode p c s).scan = s.scan ∧ (answerCode p c s).record = s.record ∧ (answerCode p c s).store = s.store
      ∧ (answerCode p c s).settings = s.settings ∧ (answerCode p c s).timers = s.timers ∧ (answerCode p c s).pins = s.pins
      ∧ (answerCode p c s).now = s.now ∧ (answerCode p c s).free = s.free ∧ (answerCode p c s).pending = s.pending := by
  simp [answerCode]

@[simp] theorem State.modifySide_frame (sd : Side) (f : SideUnit → SideUnit) :
    (s.modifySide sd f).travel = s.travel ∧ (s.modifySide sd f).seq = s.seq ∧ (s.modifySide sd f).feed = s.feed
      ∧ (s.modifySide sd f).heat = s.heat ∧ (s.modifySide sd f).zones = s.zones ∧ (s.modifySide sd f).scan = s.scan
      ∧ (s.modifySide sd f).record = s.record ∧ (s.modifySide sd f).store = s.store
      ∧ (s.modifySide sd f).settings = s.settings ∧ (s.modifySide sd f).ports = s.ports
      ∧ (s.modifySide sd f).timers = s.timers ∧ (s.modifySide sd f).pins = s.pins ∧ (s.modifySide sd f).now = s.now
      ∧ (s.modifySide sd f).free = s.free ∧ (s.modifySide sd f).pending = s.pending := by
  simp [State.modifySide]

@[simp] theorem dropSide_frame (sd : Side) :
    (dropSide sd s).travel = s.travel ∧ (dropSide sd s).seq = s.seq ∧ (dropSide sd s).feed = s.feed
      ∧ (dropSide sd s).heat = s.heat ∧ (dropSide sd s).zones = s.zones ∧ (dropSide sd s).scan = s.scan
      ∧ (dropSide sd s).record = s.record ∧ (dropSide sd s).store = s.store ∧ (dropSide sd s).settings = s.settings
      ∧ (dropSide sd s).timers = s.timers ∧ (dropSide sd s).pins = s.pins ∧ (dropSide sd s).now = s.now
      ∧ (dropSide sd s).free = s.free ∧ (dropSide sd s).pending = s.pending := by
  simp only [dropSide]; (repeat' split) <;> simp

@[simp] theorem dropSideAndJog_frame (sd : Side) :
    (dropSideAndJog sd s).travel = s.travel ∧ (dropSideAndJog sd s).seq = s.seq ∧ (dropSideAndJog sd s).feed = s.feed
      ∧ (dropSideAndJog sd s).heat = s.heat ∧ (dropSideAndJog sd s).zones = s.zones ∧ (dropSideAndJog sd s).scan = s.scan
      ∧ (dropSideAndJog sd s).record = s.record ∧ (dropSideAndJog sd s).store = s.store
      ∧ (dropSideAndJog sd s).settings = s.settings ∧ (dropSideAndJog sd s).timers = s.timers
      ∧ (dropSideAndJog sd s).pins = s.pins ∧ (dropSideAndJog sd s).now = s.now ∧ (dropSideAndJog sd s).free = s.free
      ∧ (dropSideAndJog sd s).pending = s.pending := by
  simp only [dropSideAndJog]; (repeat' split) <;> simp

@[simp] theorem autoValvesZero_frame :
    (autoValvesZero s).travel = s.travel ∧ (autoValvesZero s).seq = s.seq ∧ (autoValvesZero s).feed = s.feed
      ∧ (autoValvesZero s).heat = s.heat ∧ (autoValvesZero s).zones = s.zones ∧ (autoValvesZero s).scan = s.scan
      ∧ (autoValvesZero s).record = s.record ∧ (autoValvesZero s).store = s.store
      ∧ (autoValvesZero s).settings = s.settings ∧ (autoValvesZero s).ports = s.ports
      ∧ (autoValvesZero s).timers = s.timers ∧ (autoValvesZero s).pins = s.pins ∧ (autoValvesZero s).now = s.now
      ∧ (autoValvesZero s).free = s.free ∧ (autoValvesZero s).pending = s.pending := by
  simp [autoValvesZero]

@[simp] theorem State.modifyDrive_frame (d : Drive) (f : DriveUnit → DriveUnit) :
    (s.modifyDrive d f).travel = s.travel ∧ (s.modifyDrive d f).seq = s.seq ∧ (s.modifyDrive d f).lev = s.lev
      ∧ (s.modifyDrive d f).heat = s.heat ∧ (s.modifyDrive d f).zones = s.zones ∧ (s.modifyDrive d f).scan = s.scan
      ∧ (s.modifyDrive d f).record = s.record ∧ (s.modifyDrive d f).store = s.store
      ∧ (s.modifyDrive d f).settings = s.settings ∧ (s.modifyDrive d f).ports = s.ports
      ∧ (s.modifyDrive d f).timers = s.timers ∧ (s.modifyDrive d f).pins = s.pins ∧ (s.modifyDrive d f).now = s.now
      ∧ (s.modifyDrive d f).free = s.free ∧ (s.modifyDrive d f).pending = s.pending := by
  simp [State.modifyDrive]

@[simp] theorem fetchFromD_frame :
    (fetchFromD s).travel = s.travel ∧ (fetchFromD s).seq = s.seq ∧ (fetchFromD s).lev = s.lev
      ∧ (fetchFromD s).feed = s.feed ∧ (fetchFromD s).heat = s.heat ∧ (fetchFromD s).zones = s.zones
      ∧ (fetchFromD s).scan = s.scan ∧ (fetchFromD s).record = s.record ∧ (fetchFromD s).settings = s.settings
      ∧ (fetchFromD s).timers = s.timers ∧ (fetchFromD s).pins = s.pins ∧ (fetchFromD s).now = s.now
      ∧ (fetchFromD s).free = s.free ∧ (fetchFromD s).pending = s.pending := by
  simp only [fetchFromD]; (repeat' split) <;> simp

@[simp] theorem releaseFromD_frame (n : Nat) :
    (releaseFromD n s).travel = s.travel ∧ (releaseFromD n s).seq = s.seq ∧ (releaseFromD n s).lev = s.lev
      ∧ (releaseFromD n s).feed = s.feed ∧ (releaseFromD n s).heat = s.heat ∧ (releaseFromD n s).zones = s.zones
      ∧ (releaseFromD n s).scan = s.scan ∧ (releaseFromD n s).record = s.record ∧ (releaseFromD n s).settings = s.settings
      ∧ (releaseFromD n s).timers = s.timers ∧ (releaseFromD n s).pins = s.pins ∧ (releaseFromD n s).now = s.now
      ∧ (releaseFromD n s).free = s.free ∧ (releaseFromD n s).pending = s.pending := by
  simp only [releaseFromD]; (repeat' split) <;> simp

@[simp] theorem openRecord_frame :
    (openRecord s).travel = s.travel ∧ (openRecord s).seq = s.seq ∧ (openRecord s).feed = s.feed
      ∧ (openRecord s).heat = s.heat ∧ (openRecord s).zones = s.zones ∧ (openRecord s).store = s.store
      ∧ (openRecord s).settings = s.settings ∧ (openRecord s).ports = s.ports ∧ (openRecord s).timers = s.timers
      ∧ (openRecord s).pins = s.pins ∧ (openRecord s).now = s.now ∧ (openRecord s).free = s.free
      ∧ (openRecord s).pending = s.pending := by
  simp [openRecord]

@[simp] theorem boostZones_frame (z : ZoneSet) :
    (boostZones z s).travel = s.travel ∧ (boostZones z s).seq = s.seq ∧ (boostZones z s).lev = s.lev
      ∧ (boostZones z s).feed = s.feed ∧ (boostZones z s).heat = s.heat ∧ (boostZones z s).scan = s.scan
      ∧ (boostZones z s).record = s.record ∧ (boostZones z s).store = s.store ∧ (boostZones z s).settings = s.settings
      ∧ (boostZones z s).ports = s.ports ∧ (boostZones z s).timers = s.timers ∧ (boostZones z s).pins = s.pins
      ∧ (boostZones z s).now = s.now ∧ (boostZones z s).free = s.free ∧ (boostZones z s).pending = s.pending := by
  simp [boostZones]

@[simp] theorem storeRecord_frame (h : Header) (pause : Nat) (columns : List Word) :
    (storeRecord h pause columns s).1.travel = s.travel ∧ (storeRecord h pause columns s).1.seq = s.seq
      ∧ (storeRecord h pause columns s).1.lev = s.lev ∧ (storeRecord h pause columns s).1.feed = s.feed
      ∧ (storeRecord h pause columns s).1.heat = s.heat ∧ (storeRecord h pause columns s).1.zones = s.zones
      ∧ (storeRecord h pause columns s).1.scan = s.scan ∧ (storeRecord h pause columns s).1.record = s.record
      ∧ (storeRecord h pause columns s).1.settings = s.settings ∧ (storeRecord h pause columns s).1.timers = s.timers
      ∧ (storeRecord h pause columns s).1.pins = s.pins ∧ (storeRecord h pause columns s).1.now = s.now
      ∧ (storeRecord h pause columns s).1.free = s.free ∧ (storeRecord h pause columns s).1.pending = s.pending := by
  simp [storeRecord]

@[simp] theorem closeRecord_frame (partialClose restartClose : Bool) :
    (closeRecord partialClose restartClose s).travel = s.travel ∧ (closeRecord partialClose restartClose s).seq = s.seq
      ∧ (closeRecord partialClose restartClose s).lev = s.lev ∧ (closeRecord partialClose restartClose s).feed = s.feed
      ∧ (closeRecord partialClose restartClose s).heat = s.heat ∧ (closeRecord partialClose restartClose s).scan = s.scan
      ∧ (closeRecord partialClose restartClose s).settings = s.settings
      ∧ (closeRecord partialClose restartClose s).timers = s.timers
      ∧ (closeRecord partialClose restartClose s).pins = s.pins ∧ (closeRecord partialClose restartClose s).now = s.now
      ∧ (closeRecord partialClose restartClose s).free = s.free
      ∧ (closeRecord partialClose restartClose s).pending = s.pending := by
  simp only [closeRecord]; (repeat' split) <;> simp

@[simp] theorem closeByStep_frame :
    (closeByStep s).travel = s.travel ∧ (closeByStep s).seq = s.seq ∧ (closeByStep s).feed = s.feed
      ∧ (closeByStep s).heat = s.heat ∧ (closeByStep s).settings = s.settings ∧ (closeByStep s).timers = s.timers
      ∧ (closeByStep s).pins = s.pins ∧ (closeByStep s).now = s.now ∧ (closeByStep s).free = s.free
      ∧ (closeByStep s).pending = s.pending := by
  simp only [closeByStep]; (repeat' split) <;> simp

@[simp] theorem recordWindow_frame :
    (recordWindow s).travel = s.travel ∧ (recordWindow s).seq = s.seq ∧ (recordWindow s).feed = s.feed
      ∧ (recordWindow s).heat = s.heat ∧ (recordWindow s).zones = s.zones ∧ (recordWindow s).store = s.store
      ∧ (recordWindow s).settings = s.settings ∧ (recordWindow s).ports = s.ports ∧ (recordWindow s).timers = s.timers
      ∧ (recordWindow s).pins = s.pins ∧ (recordWindow s).now = s.now ∧ (recordWindow s).free = s.free
      ∧ (recordWindow s).pending = s.pending := by
  simp only [recordWindow]; (repeat' split) <;> simp

@[simp] theorem prefillWindow_frame :
    (prefillWindow s).travel = s.travel ∧ (prefillWindow s).seq = s.seq ∧ (prefillWindow s).lev = s.lev
      ∧ (prefillWindow s).heat = s.heat ∧ (prefillWindow s).zones = s.zones ∧ (prefillWindow s).scan = s.scan
      ∧ (prefillWindow s).record = s.record ∧ (prefillWindow s).store = s.store ∧ (prefillWindow s).settings = s.settings
      ∧ (prefillWindow s).ports = s.ports ∧ (prefillWindow s).timers = s.timers ∧ (prefillWindow s).pins = s.pins
      ∧ (prefillWindow s).now = s.now ∧ (prefillWindow s).free = s.free ∧ (prefillWindow s).pending = s.pending := by
  simp only [prefillWindow]; (repeat' split) <;> simp

@[simp] theorem valvesWindow_frame :
    (valvesWindow s).travel = s.travel ∧ (valvesWindow s).seq = s.seq ∧ (valvesWindow s).feed = s.feed
      ∧ (valvesWindow s).heat = s.heat ∧ (valvesWindow s).zones = s.zones ∧ (valvesWindow s).scan = s.scan
      ∧ (valvesWindow s).record = s.record ∧ (valvesWindow s).store = s.store ∧ (valvesWindow s).settings = s.settings
      ∧ (valvesWindow s).ports = s.ports ∧ (valvesWindow s).timers = s.timers ∧ (valvesWindow s).pins = s.pins
      ∧ (valvesWindow s).now = s.now ∧ (valvesWindow s).free = s.free ∧ (valvesWindow s).pending = s.pending := by
  simp only [valvesWindow]; (repeat' split) <;> simp

@[simp] theorem widthUpdate_frame :
    (widthUpdate s).seq = s.seq ∧ (widthUpdate s).lev = s.lev ∧ (widthUpdate s).feed = s.feed
      ∧ (widthUpdate s).heat = s.heat ∧ (widthUpdate s).zones = s.zones ∧ (widthUpdate s).scan = s.scan
      ∧ (widthUpdate s).store = s.store ∧ (widthUpdate s).settings = s.settings ∧ (widthUpdate s).ports = s.ports
      ∧ (widthUpdate s).timers = s.timers ∧ (widthUpdate s).pins = s.pins ∧ (widthUpdate s).now = s.now
      ∧ (widthUpdate s).free = s.free ∧ (widthUpdate s).pending = s.pending := by
  simp only [widthUpdate]; (repeat' split) <;> simp

@[simp] theorem sampleSide_frame (sd : Side) :
    (sampleSide sd s).travel = s.travel ∧ (sampleSide sd s).seq = s.seq ∧ (sampleSide sd s).feed = s.feed
      ∧ (sampleSide sd s).heat = s.heat ∧ (sampleSide sd s).zones = s.zones ∧ (sampleSide sd s).scan = s.scan
      ∧ (sampleSide sd s).record = s.record ∧ (sampleSide sd s).store = s.store ∧ (sampleSide sd s).settings = s.settings
      ∧ (sampleSide sd s).timers = s.timers ∧ (sampleSide sd s).pins = s.pins ∧ (sampleSide sd s).now = s.now
      ∧ (sampleSide sd s).free = s.free ∧ (sampleSide sd s).pending = s.pending := by
  simp only [sampleSide]; (repeat' split) <;> simp

@[simp] theorem levellingRound_frame :
    (levellingRound s).travel = s.travel ∧ (levellingRound s).seq = s.seq ∧ (levellingRound s).feed = s.feed
      ∧ (levellingRound s).heat = s.heat ∧ (levellingRound s).zones = s.zones ∧ (levellingRound s).scan = s.scan
      ∧ (levellingRound s).record = s.record ∧ (levellingRound s).store = s.store
      ∧ (levellingRound s).settings = s.settings ∧ (levellingRound s).pins = s.pins ∧ (levellingRound s).now = s.now
      ∧ (levellingRound s).free = s.free ∧ (levellingRound s).pending = s.pending := by
  simp [levellingRound]

@[simp] theorem engageSide_frame (p : Port) (sd : Side) :
    (engageSide p sd s).travel = s.travel ∧ (engageSide p sd s).seq = s.seq ∧ (engageSide p sd s).feed = s.feed
      ∧ (engageSide p sd s).heat = s.heat ∧ (engageSide p sd s).zones = s.zones ∧ (engageSide p sd s).scan = s.scan
      ∧ (engageSide p sd s).record = s.record ∧ (engageSide p sd s).store = s.store
      ∧ (engageSide p sd s).settings = s.settings ∧ (engageSide p sd s).timers = s.timers
      ∧ (engageSide p sd s).pins = s.pins ∧ (engageSide p sd s).now = s.now ∧ (engageSide p sd s).free = s.free
      ∧ (engageSide p sd s).pending = s.pending := by
  simp only [engageSide]; (repeat' split) <;> simp

@[simp] theorem disengageSide_frame (p : Port) (sd : Side) :
    (disengageSide p sd s).travel = s.travel ∧ (disengageSide p sd s).seq = s.seq ∧ (disengageSide p sd s).feed = s.feed
      ∧ (disengageSide p sd s).heat = s.heat ∧ (disengageSide p sd s).zones = s.zones
      ∧ (disengageSide p sd s).scan = s.scan ∧ (disengageSide p sd s).record = s.record
      ∧ (disengageSide p sd s).store = s.store ∧ (disengageSide p sd s).settings = s.settings
      ∧ (disengageSide p sd s).timers = s.timers ∧ (disengageSide p sd s).pins = s.pins
      ∧ (disengageSide p sd s).now = s.now ∧ (disengageSide p sd s).free = s.free
      ∧ (disengageSide p sd s).pending = s.pending := by
  simp [disengageSide]

@[simp] theorem setZeroSide_frame (p : Port) (sd : Side) :
    (setZeroSide p sd s).travel = s.travel ∧ (setZeroSide p sd s).seq = s.seq ∧ (setZeroSide p sd s).feed = s.feed
      ∧ (setZeroSide p sd s).heat = s.heat ∧ (setZeroSide p sd s).zones = s.zones ∧ (setZeroSide p sd s).scan = s.scan
      ∧ (setZeroSide p sd s).record = s.record ∧ (setZeroSide p sd s).store = s.store
      ∧ (setZeroSide p sd s).timers = s.timers ∧ (setZeroSide p sd s).pins = s.pins ∧ (setZeroSide p sd s).now = s.now
      ∧ (setZeroSide p sd s).free = s.free ∧ (setZeroSide p sd s).pending = s.pending := by
  simp only [setZeroSide]; (repeat' split) <;> simp

@[simp] theorem jogSide_frame (p : Port) (dir : Direction) (duty : Word) (sd : Side) :
    (jogSide p dir duty sd s).travel = s.travel ∧ (jogSide p dir duty sd s).seq = s.seq
      ∧ (jogSide p dir duty sd s).feed = s.feed ∧ (jogSide p dir duty sd s).heat = s.heat
      ∧ (jogSide p dir duty sd s).zones = s.zones ∧ (jogSide p dir duty sd s).scan = s.scan
      ∧ (jogSide p dir duty sd s).record = s.record ∧ (jogSide p dir duty sd s).store = s.store
      ∧ (jogSide p dir duty sd s).settings = s.settings ∧ (jogSide p dir duty sd s).timers = s.timers
      ∧ (jogSide p dir duty sd s).pins = s.pins ∧ (jogSide p dir duty sd s).now = s.now
      ∧ (jogSide p dir duty sd s).free = s.free ∧ (jogSide p dir duty sd s).pending = s.pending := by
  simp only [jogSide]; (repeat' split) <;> simp

@[simp] theorem feedTick_frame :
    (feedTick s).travel = s.travel ∧ (feedTick s).seq = s.seq ∧ (feedTick s).lev = s.lev ∧ (feedTick s).heat = s.heat
      ∧ (feedTick s).zones = s.zones ∧ (feedTick s).scan = s.scan ∧ (feedTick s).record = s.record
      ∧ (feedTick s).store = s.store ∧ (feedTick s).settings = s.settings ∧ (feedTick s).timers = s.timers
      ∧ (feedTick s).pins = s.pins ∧ (feedTick s).now = s.now ∧ (feedTick s).free = s.free
      ∧ (feedTick s).pending = s.pending := by
  simp [feedTick]

@[simp] theorem feedLoad_frame :
    (feedLoad s).travel = s.travel ∧ (feedLoad s).seq = s.seq ∧ (feedLoad s).lev = s.lev ∧ (feedLoad s).zones = s.zones
      ∧ (feedLoad s).scan = s.scan ∧ (feedLoad s).record = s.record ∧ (feedLoad s).store = s.store
      ∧ (feedLoad s).settings = s.settings ∧ (feedLoad s).ports = s.ports ∧ (feedLoad s).timers = s.timers
      ∧ (feedLoad s).pins = s.pins ∧ (feedLoad s).now = s.now ∧ (feedLoad s).free = s.free
      ∧ (feedLoad s).pending = s.pending := by
  simp [feedLoad]

@[simp] theorem feedRound_frame :
    (feedRound s).travel = s.travel ∧ (feedRound s).seq = s.seq ∧ (feedRound s).lev = s.lev
      ∧ (feedRound s).zones = s.zones ∧ (feedRound s).scan = s.scan ∧ (feedRound s).record = s.record
      ∧ (feedRound s).store = s.store ∧ (feedRound s).settings = s.settings ∧ (feedRound s).timers = s.timers
      ∧ (feedRound s).pins = s.pins ∧ (feedRound s).now = s.now ∧ (feedRound s).free = s.free
      ∧ (feedRound s).pending = s.pending := by
  simp [feedRound]

@[simp] theorem clearDrive_frame (p : Port) (d : Drive) :
    (clearDrive p d s).travel = s.travel ∧ (clearDrive p d s).seq = s.seq ∧ (clearDrive p d s).lev = s.lev
      ∧ (clearDrive p d s).heat = s.heat ∧ (clearDrive p d s).zones = s.zones ∧ (clearDrive p d s).scan = s.scan
      ∧ (clearDrive p d s).record = s.record ∧ (clearDrive p d s).store = s.store
      ∧ (clearDrive p d s).settings = s.settings ∧ (clearDrive p d s).timers = s.timers ∧ (clearDrive p d s).pins = s.pins
      ∧ (clearDrive p d s).now = s.now ∧ (clearDrive p d s).free = s.free ∧ (clearDrive p d s).pending = s.pending := by
  simp only [clearDrive]; (repeat' split) <;> simp

@[simp] theorem State.mapZones_frame (f : Fin 12 → ZoneUnit → ZoneUnit) :
    (s.mapZones f).travel = s.travel ∧ (s.mapZones f).seq = s.seq ∧ (s.mapZones f).lev = s.lev
      ∧ (s.mapZones f).feed = s.feed ∧ (s.mapZones f).heat = s.heat ∧ (s.mapZones f).scan = s.scan
      ∧ (s.mapZones f).record = s.record ∧ (s.mapZones f).store = s.store ∧ (s.mapZones f).settings = s.settings
      ∧ (s.mapZones f).ports = s.ports ∧ (s.mapZones f).timers = s.timers ∧ (s.mapZones f).pins = s.pins
      ∧ (s.mapZones f).now = s.now ∧ (s.mapZones f).free = s.free ∧ (s.mapZones f).pending = s.pending := by
  simp [State.mapZones]

@[simp] theorem closeCycle_frame :
    (closeCycle s).travel = s.travel ∧ (closeCycle s).seq = s.seq ∧ (closeCycle s).lev = s.lev
      ∧ (closeCycle s).feed = s.feed ∧ (closeCycle s).heat = s.heat ∧ (closeCycle s).scan = s.scan
      ∧ (closeCycle s).store = s.store ∧ (closeCycle s).settings = s.settings ∧ (closeCycle s).timers = s.timers
      ∧ (closeCycle s).pins = s.pins ∧ (closeCycle s).now = s.now ∧ (closeCycle s).free = s.free
      ∧ (closeCycle s).pending = s.pending := by
  simp [closeCycle]

@[simp] theorem cycleStart_frame (closes : Bool) :
    (cycleStart closes s).travel = s.travel ∧ (cycleStart closes s).seq = s.seq ∧ (cycleStart closes s).lev = s.lev
      ∧ (cycleStart closes s).feed = s.feed ∧ (cycleStart closes s).heat = s.heat ∧ (cycleStart closes s).scan = s.scan
      ∧ (cycleStart closes s).store = s.store ∧ (cycleStart closes s).settings = s.settings
      ∧ (cycleStart closes s).timers = s.timers ∧ (cycleStart closes s).pins = s.pins ∧ (cycleStart closes s).now = s.now
      ∧ (cycleStart closes s).free = s.free ∧ (cycleStart closes s).pending = s.pending := by
  simp only [cycleStart]; (repeat' split) <;> simp

@[simp] theorem outputsOff_frame :
    (outputsOff s).travel = s.travel ∧ (outputsOff s).seq = s.seq ∧ (outputsOff s).lev = s.lev
      ∧ (outputsOff s).feed = s.feed ∧ (outputsOff s).heat = s.heat ∧ (outputsOff s).scan = s.scan
      ∧ (outputsOff s).record = s.record ∧ (outputsOff s).store = s.store ∧ (outputsOff s).settings = s.settings
      ∧ (outputsOff s).ports = s.ports ∧ (outputsOff s).timers = s.timers ∧ (outputsOff s).pins = s.pins
      ∧ (outputsOff s).now = s.now ∧ (outputsOff s).free = s.free ∧ (outputsOff s).pending = s.pending := by
  simp [outputsOff]

@[simp] theorem clearZone_frame (p : Port) (k : Fin 12) :
    (clearZone p k s).travel = s.travel ∧ (clearZone p k s).seq = s.seq ∧ (clearZone p k s).lev = s.lev
      ∧ (clearZone p k s).feed = s.feed ∧ (clearZone p k s).heat = s.heat ∧ (clearZone p k s).scan = s.scan
      ∧ (clearZone p k s).record = s.record ∧ (clearZone p k s).store = s.store ∧ (clearZone p k s).settings = s.settings
      ∧ (clearZone p k s).timers = s.timers ∧ (clearZone p k s).pins = s.pins ∧ (clearZone p k s).now = s.now
      ∧ (clearZone p k s).free = s.free ∧ (clearZone p k s).pending = s.pending := by
  simp only [clearZone]; (repeat' split) <;> simp

@[simp] theorem startSlice_frame :
    (startSlice s).travel = s.travel ∧ (startSlice s).seq = s.seq ∧ (startSlice s).lev = s.lev
      ∧ (startSlice s).feed = s.feed ∧ (startSlice s).scan = s.scan ∧ (startSlice s).record = s.record
      ∧ (startSlice s).store = s.store ∧ (startSlice s).settings = s.settings ∧ (startSlice s).ports = s.ports
      ∧ (startSlice s).pins = s.pins ∧ (startSlice s).now = s.now ∧ (startSlice s).free = s.free
      ∧ (startSlice s).pending = s.pending := by
  simp [startSlice]

@[simp] theorem cycleBoundary_frame (closes : Bool) :
    (cycleBoundary closes s).travel = s.travel ∧ (cycleBoundary closes s).seq = s.seq
      ∧ (cycleBoundary closes s).lev = s.lev ∧ (cycleBoundary closes s).feed = s.feed
      ∧ (cycleBoundary closes s).scan = s.scan ∧ (cycleBoundary closes s).store = s.store
      ∧ (cycleBoundary closes s).settings = s.settings ∧ (cycleBoundary closes s).pins = s.pins
      ∧ (cycleBoundary closes s).now = s.now ∧ (cycleBoundary closes s).free = s.free
      ∧ (cycleBoundary closes s).pending = s.pending := by
  simp [cycleBoundary]

@[simp] theorem startHeating_frame :
    (startHeating s).travel = s.travel ∧ (startHeating s).seq = s.seq ∧ (startHeating s).lev = s.lev
      ∧ (startHeating s).feed = s.feed ∧ (startHeating s).scan = s.scan ∧ (startHeating s).store = s.store
      ∧ (startHeating s).settings = s.settings ∧ (startHeating s).pins = s.pins ∧ (startHeating s).now = s.now
      ∧ (startHeating s).free = s.free ∧ (startHeating s).pending = s.pending := by
  simp [startHeating]

@[simp] theorem cutGrants_frame :
    (cutGrants s).travel = s.travel ∧ (cutGrants s).seq = s.seq ∧ (cutGrants s).lev = s.lev ∧ (cutGrants s).feed = s.feed
      ∧ (cutGrants s).scan = s.scan ∧ (cutGrants s).record = s.record ∧ (cutGrants s).store = s.store
      ∧ (cutGrants s).settings = s.settings ∧ (cutGrants s).ports = s.ports ∧ (cutGrants s).timers = s.timers
      ∧ (cutGrants s).pins = s.pins ∧ (cutGrants s).now = s.now ∧ (cutGrants s).free = s.free
      ∧ (cutGrants s).pending = s.pending := by
  simp [cutGrants]

@[simp] theorem stopHeating_frame :
    (stopHeating s).travel = s.travel ∧ (stopHeating s).seq = s.seq ∧ (stopHeating s).lev = s.lev
      ∧ (stopHeating s).feed = s.feed ∧ (stopHeating s).scan = s.scan ∧ (stopHeating s).record = s.record
      ∧ (stopHeating s).store = s.store ∧ (stopHeating s).settings = s.settings ∧ (stopHeating s).ports = s.ports
      ∧ (stopHeating s).pins = s.pins ∧ (stopHeating s).now = s.now ∧ (stopHeating s).free = s.free
      ∧ (stopHeating s).pending = s.pending := by
  simp [stopHeating]

@[simp] theorem restartHeating_frame :
    (restartHeating s).travel = s.travel ∧ (restartHeating s).seq = s.seq ∧ (restartHeating s).lev = s.lev
      ∧ (restartHeating s).feed = s.feed ∧ (restartHeating s).scan = s.scan ∧ (restartHeating s).store = s.store
      ∧ (restartHeating s).settings = s.settings ∧ (restartHeating s).pins = s.pins ∧ (restartHeating s).now = s.now
      ∧ (restartHeating s).free = s.free ∧ (restartHeating s).pending = s.pending := by
  simp only [restartHeating]; (repeat' split) <;> simp

@[simp] theorem tripRunning_frame :
    (tripRunning s).travel = s.travel ∧ (tripRunning s).seq = s.seq ∧ (tripRunning s).lev = s.lev
      ∧ (tripRunning s).feed = s.feed ∧ (tripRunning s).scan = s.scan ∧ (tripRunning s).record = s.record
      ∧ (tripRunning s).store = s.store ∧ (tripRunning s).settings = s.settings ∧ (tripRunning s).timers = s.timers
      ∧ (tripRunning s).pins = s.pins ∧ (tripRunning s).now = s.now ∧ (tripRunning s).free = s.free
      ∧ (tripRunning s).pending = s.pending := by
  simp only [tripRunning]; (repeat' split) <;> simp

@[simp] theorem slowRound_frame :
    (slowRound s).travel = s.travel ∧ (slowRound s).lev = s.lev ∧ (slowRound s).feed = s.feed
      ∧ (slowRound s).heat = s.heat ∧ (slowRound s).zones = s.zones ∧ (slowRound s).scan = s.scan
      ∧ (slowRound s).store = s.store ∧ (slowRound s).settings = s.settings ∧ (slowRound s).timers = s.timers
      ∧ (slowRound s).pins = s.pins ∧ (slowRound s).now = s.now ∧ (slowRound s).free = s.free
      ∧ (slowRound s).pending = s.pending := by
  simp only [slowRound]; (repeat' split) <;> simp

@[simp] theorem mediumRound_frame :
    (mediumRound s).seq = s.seq ∧ (mediumRound s).lev = s.lev ∧ (mediumRound s).zones = s.zones
      ∧ (mediumRound s).scan = s.scan ∧ (mediumRound s).store = s.store ∧ (mediumRound s).settings = s.settings
      ∧ (mediumRound s).timers = s.timers ∧ (mediumRound s).pins = s.pins ∧ (mediumRound s).now = s.now
      ∧ (mediumRound s).pending = s.pending := by
  simp only [mediumRound]; (repeat' split) <;> simp

@[simp] theorem roundCompletion_frame (cls : SampleClass) :
    (roundCompletion cls s).zones = s.zones ∧ (roundCompletion cls s).scan = s.scan
      ∧ (roundCompletion cls s).store = s.store ∧ (roundCompletion cls s).settings = s.settings
      ∧ (roundCompletion cls s).pins = s.pins ∧ (roundCompletion cls s).now = s.now
      ∧ (roundCompletion cls s).pending = s.pending := by
  cases cls <;> simp [roundCompletion]

@[simp] theorem writeResult_frame (c : Fin 34) (tag count : Nat) :
    (writeResult s c tag count).travel = s.travel ∧ (writeResult s c tag count).lev = s.lev
      ∧ (writeResult s c tag count).feed = s.feed ∧ (writeResult s c tag count).heat = s.heat
      ∧ (writeResult s c tag count).zones = s.zones ∧ (writeResult s c tag count).scan = s.scan
      ∧ (writeResult s c tag count).record = s.record ∧ (writeResult s c tag count).store = s.store
      ∧ (writeResult s c tag count).settings = s.settings ∧ (writeResult s c tag count).ports = s.ports
      ∧ (writeResult s c tag count).timers = s.timers ∧ (writeResult s c tag count).pins = s.pins
      ∧ (writeResult s c tag count).now = s.now ∧ (writeResult s c tag count).free = s.free
      ∧ (writeResult s c tag count).pending = s.pending := by
  simp [writeResult]

@[simp] theorem postEntry_frame (p : Port) (e : PostEntry) :
    (postEntry p e s).travel = s.travel ∧ (postEntry p e s).seq = s.seq ∧ (postEntry p e s).lev = s.lev
      ∧ (postEntry p e s).feed = s.feed ∧ (postEntry p e s).heat = s.heat ∧ (postEntry p e s).zones = s.zones
      ∧ (postEntry p e s).scan = s.scan ∧ (postEntry p e s).record = s.record ∧ (postEntry p e s).store = s.store
      ∧ (postEntry p e s).settings = s.settings ∧ (postEntry p e s).timers = s.timers ∧ (postEntry p e s).pins = s.pins
      ∧ (postEntry p e s).now = s.now ∧ (postEntry p e s).free = s.free + 1 ∧ (postEntry p e s).pending = s.pending := by
  simp [postEntry]

@[simp] theorem refModeApplied_frame (sd : Side) (old : RefMode) :
    (refModeApplied sd old s).travel = s.travel ∧ (refModeApplied sd old s).seq = s.seq
      ∧ (refModeApplied sd old s).feed = s.feed ∧ (refModeApplied sd old s).heat = s.heat
      ∧ (refModeApplied sd old s).zones = s.zones ∧ (refModeApplied sd old s).scan = s.scan
      ∧ (refModeApplied sd old s).record = s.record ∧ (refModeApplied sd old s).store = s.store
      ∧ (refModeApplied sd old s).settings = s.settings ∧ (refModeApplied sd old s).timers = s.timers
      ∧ (refModeApplied sd old s).pins = s.pins ∧ (refModeApplied sd old s).now = s.now
      ∧ (refModeApplied sd old s).free = s.free ∧ (refModeApplied sd old s).pending = s.pending := by
  simp only [refModeApplied]; (repeat' split) <;> simp

@[simp] theorem dutyApplied_frame (sd : Side) :
    (dutyApplied sd s).travel = s.travel ∧ (dutyApplied sd s).seq = s.seq ∧ (dutyApplied sd s).feed = s.feed
      ∧ (dutyApplied sd s).heat = s.heat ∧ (dutyApplied sd s).zones = s.zones ∧ (dutyApplied sd s).scan = s.scan
      ∧ (dutyApplied sd s).record = s.record ∧ (dutyApplied sd s).store = s.store
      ∧ (dutyApplied sd s).settings = s.settings ∧ (dutyApplied sd s).ports = s.ports
      ∧ (dutyApplied sd s).timers = s.timers ∧ (dutyApplied sd s).pins = s.pins ∧ (dutyApplied sd s).now = s.now
      ∧ (dutyApplied sd s).free = s.free ∧ (dutyApplied sd s).pending = s.pending := by
  simp [dutyApplied]

@[simp] theorem capacityApplied_frame :
    (capacityApplied s).travel = s.travel ∧ (capacityApplied s).seq = s.seq ∧ (capacityApplied s).lev = s.lev
      ∧ (capacityApplied s).feed = s.feed ∧ (capacityApplied s).zones = s.zones ∧ (capacityApplied s).scan = s.scan
      ∧ (capacityApplied s).record = s.record ∧ (capacityApplied s).store = s.store
      ∧ (capacityApplied s).settings = s.settings ∧ (capacityApplied s).ports = s.ports
      ∧ (capacityApplied s).timers = s.timers ∧ (capacityApplied s).pins = s.pins ∧ (capacityApplied s).now = s.now
      ∧ (capacityApplied s).free = s.free ∧ (capacityApplied s).pending = s.pending := by
  simp [capacityApplied]

@[simp] theorem changeToTravel_frame (old : Mode) :
    (changeToTravel old s).travel = s.travel ∧ (changeToTravel old s).seq = s.seq ∧ (changeToTravel old s).scan = s.scan
      ∧ (changeToTravel old s).settings = s.settings ∧ (changeToTravel old s).pins = s.pins
      ∧ (changeToTravel old s).now = s.now ∧ (changeToTravel old s).free = s.free
      ∧ (changeToTravel old s).pending = s.pending := by
  simp only [changeToTravel]; (repeat' split) <;> simp

@[simp] theorem leavePave_frame :
    (leavePave s).travel = s.travel ∧ (leavePave s).seq = s.seq ∧ (leavePave s).feed = s.feed
      ∧ (leavePave s).heat = s.heat ∧ (leavePave s).scan = s.scan ∧ (leavePave s).settings = s.settings
      ∧ (leavePave s).timers = s.timers ∧ (leavePave s).pins = s.pins ∧ (leavePave s).now = s.now
      ∧ (leavePave s).free = s.free ∧ (leavePave s).pending = s.pending := by
  simp [leavePave]

@[simp] theorem modeChanged_frame (old : Mode) :
    (modeChanged old s).travel = s.travel ∧ (modeChanged old s).seq = s.seq ∧ (modeChanged old s).scan = s.scan
      ∧ (modeChanged old s).settings = s.settings ∧ (modeChanged old s).pins = s.pins ∧ (modeChanged old s).now = s.now
      ∧ (modeChanged old s).free = s.free ∧ (modeChanged old s).pending = s.pending := by
  simp only [modeChanged]; (repeat' split) <;> simp

@[simp] theorem modeApplied_frame (old : Mode) :
    (modeApplied old s).travel = s.travel ∧ (modeApplied old s).seq = s.seq ∧ (modeApplied old s).scan = s.scan
      ∧ (modeApplied old s).settings = s.settings ∧ (modeApplied old s).pins = s.pins ∧ (modeApplied old s).now = s.now
      ∧ (modeApplied old s).free = s.free ∧ (modeApplied old s).pending = s.pending := by
  simp only [modeApplied]; (repeat' split) <;> simp

@[simp] theorem settingApplied_frame (st : Setting) (old : Settings) :
    (settingApplied st old s).travel = s.travel ∧ (settingApplied st old s).seq = s.seq
      ∧ (settingApplied st old s).scan = s.scan ∧ (settingApplied st old s).settings = s.settings
      ∧ (settingApplied st old s).pins = s.pins ∧ (settingApplied st old s).now = s.now
      ∧ (settingApplied st old s).free = s.free ∧ (settingApplied st old s).pending = s.pending := by
  simp only [settingApplied]; (repeat' split) <;> simp

@[simp] theorem storeSetting_frame (st : Setting) (v : Word) :
    (storeSetting st v s).travel = s.travel ∧ (storeSetting st v s).seq = s.seq ∧ (storeSetting st v s).scan = s.scan
      ∧ (storeSetting st v s).pins = s.pins ∧ (storeSetting st v s).now = s.now ∧ (storeSetting st v s).free = s.free
      ∧ (storeSetting st v s).pending = s.pending := by
  simp [storeSetting]

@[simp] theorem popEntry_frame (p : Port) (rest : List PostEntry) :
    (popEntry p rest s).travel = s.travel ∧ (popEntry p rest s).seq = s.seq ∧ (popEntry p rest s).lev = s.lev
      ∧ (popEntry p rest s).feed = s.feed ∧ (popEntry p rest s).heat = s.heat ∧ (popEntry p rest s).zones = s.zones
      ∧ (popEntry p rest s).scan = s.scan ∧ (popEntry p rest s).record = s.record ∧ (popEntry p rest s).store = s.store
      ∧ (popEntry p rest s).settings = s.settings ∧ (popEntry p rest s).timers = s.timers
      ∧ (popEntry p rest s).pins = s.pins ∧ (popEntry p rest s).now = s.now ∧ (popEntry p rest s).free = s.free
      ∧ (popEntry p rest s).pending = s.pending := by
  simp [popEntry]

@[simp] theorem applyEntry_frame (p : Port) (e : PostEntry) :
    (applyEntry p e s).travel = s.travel ∧ (applyEntry p e s).seq = s.seq ∧ (applyEntry p e s).scan = s.scan
      ∧ (applyEntry p e s).pins = s.pins ∧ (applyEntry p e s).now = s.now ∧ (applyEntry p e s).free = s.free
      ∧ (applyEntry p e s).pending = s.pending := by
  simp [applyEntry]

@[simp] theorem rejectEntry_frame (p : Port) (e : PostEntry) :
    (rejectEntry p e s).travel = s.travel ∧ (rejectEntry p e s).seq = s.seq ∧ (rejectEntry p e s).lev = s.lev
      ∧ (rejectEntry p e s).feed = s.feed ∧ (rejectEntry p e s).heat = s.heat ∧ (rejectEntry p e s).zones = s.zones
      ∧ (rejectEntry p e s).scan = s.scan ∧ (rejectEntry p e s).record = s.record ∧ (rejectEntry p e s).store = s.store
      ∧ (rejectEntry p e s).settings = s.settings ∧ (rejectEntry p e s).timers = s.timers
      ∧ (rejectEntry p e s).pins = s.pins ∧ (rejectEntry p e s).now = s.now ∧ (rejectEntry p e s).free = s.free
      ∧ (rejectEntry p e s).pending = s.pending := by
  simp [rejectEntry]

@[simp] theorem goAbsent_frame (p : Port) :
    (goAbsent p s).travel = s.travel ∧ (goAbsent p s).seq = s.seq ∧ (goAbsent p s).feed = s.feed
      ∧ (goAbsent p s).heat = s.heat ∧ (goAbsent p s).zones = s.zones ∧ (goAbsent p s).scan = s.scan
      ∧ (goAbsent p s).record = s.record ∧ (goAbsent p s).store = s.store ∧ (goAbsent p s).settings = s.settings
      ∧ (goAbsent p s).timers = s.timers ∧ (goAbsent p s).pins = s.pins ∧ (goAbsent p s).now = s.now
      ∧ (goAbsent p s).free = s.free ∧ (goAbsent p s).pending = s.pending := by
  simp only [goAbsent]; (repeat' split) <;> simp

@[simp] theorem restartLevelling_frame :
    (restartLevelling s).travel = s.travel ∧ (restartLevelling s).seq = s.seq ∧ (restartLevelling s).feed = s.feed
      ∧ (restartLevelling s).heat = s.heat ∧ (restartLevelling s).zones = s.zones ∧ (restartLevelling s).scan = s.scan
      ∧ (restartLevelling s).record = s.record ∧ (restartLevelling s).store = s.store
      ∧ (restartLevelling s).settings = s.settings ∧ (restartLevelling s).timers = s.timers
      ∧ (restartLevelling s).pins = s.pins ∧ (restartLevelling s).now = s.now ∧ (restartLevelling s).free = s.free
      ∧ (restartLevelling s).pending = s.pending := by
  simp [restartLevelling]

@[simp] theorem restartPart_frame :
    (restartPart s).scan = s.scan ∧ (restartPart s).settings = s.settings ∧ (restartPart s).pins = s.pins
      ∧ (restartPart s).now = s.now ∧ (restartPart s).free = s.free ∧ (restartPart s).pending = s.pending := by
  simp [restartPart]

@[simp] theorem passTick_frame :
    (passTick s).travel = s.travel ∧ (passTick s).seq = s.seq ∧ (passTick s).lev = s.lev ∧ (passTick s).feed = s.feed
      ∧ (passTick s).heat = s.heat ∧ (passTick s).zones = s.zones ∧ (passTick s).scan = s.scan
      ∧ (passTick s).record = s.record ∧ (passTick s).store = s.store ∧ (passTick s).settings = s.settings
      ∧ (passTick s).ports = s.ports ∧ (passTick s).timers = s.timers ∧ (passTick s).pins = s.pins
      ∧ (passTick s).free = s.free ∧ (passTick s).pending = s.pending := by
  simp [passTick]

end Sys2Proof.Machine
end

