-- ==== Sys2Proof/Laws/Ports.lean ====
section
/-! SUPPORT. What the shared operations do at the ports: a raise, an answer, the drop of a side, a port's absence. -/

namespace Sys2Proof.Machine

set_option linter.unusedVariables false
set_option linter.unnecessarySeqFocus false
set_option linter.unusedTactic false
set_option linter.unreachableTactic false
set_option linter.unusedSimpArgs false

theorem AlertKind.set_eq (k : AlertKind) : k.set = alertBit k := by cases k <;> rfl

theorem raised_eq (mask k) (p : PortState) : p.raised mask k = portRaised mask k p := by
  simp only [PortState.raised, PortState.reline, lineLevel, portRaised, AlertKind.set_eq]; congr 1; simp [bne, BEq.beq]

theorem raiseOn_get (on k) (s : State) (q) : (raiseOn on k s).ports.get q = if on q then portRaised (s.settings.masks.get q) k (s.ports.get q) else s.ports.get q := by
  simp [raiseOn, PerPort.get_map, raised_eq]

theorem raiseAll_get (k) (s : State) (q) : (raiseAll k s).ports.get q = portRaised (s.settings.masks.get q) k (s.ports.get q) := by
  simp [raiseAll, raiseOn_get]

theorem raiseOthers_get (p k) (s : State) (q) : (raiseOthers p k s).ports.get q = if q = p then s.ports.get q else portRaised (s.settings.masks.get q) k (s.ports.get q) := by
  simp [raiseOthers, raiseOn_get]

theorem answer_ports (p a) (s : State) : (answer p a s).ports = s.ports.set p { s.ports.get p with answer := some a } := rfl

theorem PerPort.set_set' {α} (v : PerPort α) (i x y) : (v.set i x).set i y = v.set i y := by cases i <;> rfl

theorem answer_take (p a) (s : State) : (answer p a (takeRequest p s)).ports = s.ports.set p (portAnswered s p a) := by
  simp only [answer, takeRequest, heard, State.modifyPort, State.withPorts_ports, PerPort.set_set', PerPort.get_set, if_true]
  rfl

theorem setOf_bit' {n : Nat} (f : Fin n → Bool) (k : Fin n) : (Machine.setOf f).getLsbD k.val = f k := by
  simp [Machine.setOf, BitVec.getLsbD_ofFnLE]

theorem dropSideAndJog_lev (sd : Side) (s : State) : (dropSideAndJog sd s).lev = s.lev.set sd (if (s.lev.get sd).engaged then (s.lev.get sd).toManual else (s.lev.get sd).endJog) := by
  simp only [dropSideAndJog, dropSide]; split <;> simp [State.modifySide]

theorem drop_ports (sd : Side) (s : State) (q) : (dropSideAndJog sd s).ports.get q =
    if (s.lev.get sd).engaged then portRaised (s.settings.masks.get q) (droppedKind sd) (s.ports.get q) else s.ports.get q := by
  simp only [dropSideAndJog, dropSide]; split <;> simp [raiseAll_get]

theorem goAbsent_ports (p : Port) (s : State) (q) : (goAbsent p s).ports.get q =
   let own := if q = p then { s.ports.get q with present := false, presenceDue := none } else portRaised (s.settings.masks.get q) .stationAbsent (s.ports.get q)
   match sideOfStation p with
   | none => own
   | some sd => if (s.lev.get sd).engaged then portRaised (s.settings.masks.get q) (droppedKind sd) own else own := by
  have ho : (raiseOthers p .stationAbsent (s.modifyPort p fun u => { u with present := false, presenceDue := none })).ports.get q = if q = p then { s.ports.get q with present := false, presenceDue := none } else portRaised (s.settings.masks.get q) .stationAbsent (s.ports.get q) := by
    rw [raiseOthers_get]
    by_cases h : q = p
    · subst h; simp [State.modifyPort]
    · have h' : p ≠ q := fun x => h x.symm
      simp [State.modifyPort, h, PerPort.get_set, h']
  simp only [goAbsent]
  cases sideOfStation p with
  | none => exact ho
  | some sd => rw [drop_ports, ho]; simp

theorem goAbsent_lev (p : Port) (s : State) (sd) : (goAbsent p s).lev.get sd =
   if sideOfStation p = some sd then (if (s.lev.get sd).engaged then (s.lev.get sd).toManual else (s.lev.get sd).endJog) else s.lev.get sd := by
  simp only [goAbsent]
  split
  · simp_all
  · rename_i sd' h
    rw [h, dropSideAndJog_lev]
    cases sd <;> cases sd' <;> simp [PerSide.set, PerSide.get] <;> rfl

end Sys2Proof.Machine
end

