-- ==== Sys2Proof/Laws/Exchange.lean ====
section
/-! SUPPORT. The bytes of an exchange: the check byte, the values of several bytes, and how a frame is taken. -/

namespace Sys2Proof.Machine

set_option linter.unusedVariables false
set_option linter.unnecessarySeqFocus false
set_option linter.unusedTactic false
set_option linter.unreachableTactic false
set_option linter.unusedSimpArgs false

theorem byteSum_check (bs : List Byte) : byteSum (withCheckByte bs) = 0#8 := by
  simp only [byteSum, withCheckByte, List.foldl_append, List.foldl_cons, List.foldl_nil]
  exact BitVec.add_right_neg _

theorem frameCommand_frameOf (p : Port) (pins) (code item : Byte) (data : List Byte) (h : data.length ≤ 8) :
    byteSum (frameOf code item data) = 0#8 ∧
    frameCommand p pins (frameOf code item data) = some ((requestCommand p pins code item data).getD (.badFrame p true)) := by
  have h1 : byteSum (frameOf code item data) = 0#8 := byteSum_check _
  refine ⟨h1, ?_⟩
  have hl : (BitVec.ofNat 8 data.length).toNat = data.length := by
    rw [BitVec.toNat_ofNat]; exact Nat.mod_eq_of_lt (by omega)
  simp only [frameOf, withCheckByte, List.cons_append] at h1 ⊢
  simp only [frameCommand, hl]
  rw [if_neg (by omega), if_neg (by simp), List.take_of_length_le (by simp), if_neg (by simpa using h1)]
  simp

theorem word_back (w : Word) : wordOfBytes (w.extractLsb' 8 8) (w.extractLsb' 0 8) = w := by
  apply BitVec.eq_of_getLsbD_eq; intro i hi
  simp only [wordOfBytes, BitVec.getLsbD_append, BitVec.getLsbD_extractLsb']
  (repeat' split) <;> simp_all <;> (try (intro)) <;> (congr 1; omega)

theorem dword_back (w : DWord) : dwordOfBytes (w.extractLsb' 24 8) (w.extractLsb' 16 8) (w.extractLsb' 8 8) (w.extractLsb' 0 8) = w := by
  apply BitVec.eq_of_getLsbD_eq; intro i hi
  simp only [dwordOfBytes, BitVec.getLsbD_append, BitVec.getLsbD_extractLsb']
  have : 8 + 8 = 16 ∧ 16 + 8 = 24 := ⟨rfl, rfl⟩
  interval_cases i <;> simp

end Sys2Proof.Machine
end

