-- ==== Sys2Proof/Laws/Geometry.lean ====
section
/-! SUPPORT. The geometry of the mat: the bands of the extension zones, and that the bands cover the mat once. -/

namespace Sys2Proof.Machine

set_option linter.unusedVariables false
set_option linter.unnecessarySeqFocus false
set_option linter.unusedTactic false
set_option linter.unreachableTactic false
set_option linter.unusedSimpArgs false

theorem left_band (L R : Nat) (k : Fin 4) : zoneBand L R ⟨4 + k.val, by omega⟩ = (-1500 - (L:Int) + 750 * (k.val : Int), -1500 - (L:Int) + 750 * (k.val:Int) + exposure L (k.val + 1)) := by
  have h1 : ¬ (4 + k.val < 4) := by omega
  have h2 : (4 + k.val < 8) := by omega
  have h3 : 4 + k.val - 3 = k.val + 1 := by omega
  have h4 : (((4 + k.val : Nat) : Int) - 4) * 750 = 750 * (k.val : Int) := by omega
  simp only [zoneBand, h1, h2, if_true, if_false, h3, h4]

theorem right_band (L R : Nat) (k : Fin 4) : zoneBand L R ⟨8 + k.val, by omega⟩ = (1500 + (R:Int) - 750 * (k.val : Int) - exposure R (k.val + 1), 1500 + (R:Int) - 750 * (k.val:Int)) := by
  have h1 : ¬ (8 + k.val < 4) := by omega
  have h2 : ¬ (8 + k.val < 8) := by omega
  have h3 : 8 + k.val - 7 = k.val + 1 := by omega
  have h4 : (((8 + k.val : Nat) : Int) - 8) * 750 = 750 * (k.val : Int) := by omega
  simp only [zoneBand, h1, h2, if_true, if_false, h3, h4]

theorem main_band (L R : Nat) (k : Fin 4) : zoneBand L R ⟨k.val, by omega⟩ = (-1500 + 750 * (k.val : Int), -1500 + 750 * (k.val : Int) + 750) := by
  have h1 : (k.val < 4) := by omega
  simp only [zoneBand, h1, if_true]
  ext <;> simp only <;> omega

theorem zone_cases (z : Fin 12) : (∃ k : Fin 4, z = ⟨k.val, by omega⟩) ∨ (∃ k : Fin 4, z = ⟨4 + k.val, by omega⟩) ∨ (∃ k : Fin 4, z = ⟨8 + k.val, by omega⟩) := by
  by_cases h : z.val < 4
  · exact .inl ⟨⟨z.val, h⟩, rfl⟩
  · by_cases h2 : z.val < 8
    · exact .inr (.inl ⟨⟨z.val - 4, by omega⟩, Fin.ext (by simp; omega)⟩)
    · exact .inr (.inr ⟨⟨z.val - 8, by omega⟩, Fin.ext (by simp; omega)⟩)

/-- x lies in the band of a zone. -/
def inBand (L R : Nat) (x : Int) (z : Fin 12) : Prop := (zoneBand L R z).1 ≤ x ∧ x < (zoneBand L R z).2

theorem inBand_main {L R x} (k : Fin 4) : inBand L R x ⟨k.val, by omega⟩ ↔ -1500 + 750 * (k.val : Int) ≤ x ∧ x < -1500 + 750 * (k.val : Int) + 750 := by
  unfold inBand; rw [main_band]

theorem inBand_left {L R : Nat} {x : Int} (hL : L ≤ 3000) (k : Fin 4) : inBand L R x ⟨4 + k.val, by omega⟩ ↔ -1500 - (L:Int) + 750 * (k.val : Int) ≤ x ∧ x < -1500 - (L:Int) + 750 * (k.val : Int) + 750 ∧ x < -1500 := by
  unfold inBand; rw [left_band]; unfold exposure; simp only; omega

theorem inBand_right {L R : Nat} {x : Int} (hL : R ≤ 3000) (k : Fin 4) : inBand L R x ⟨8 + k.val, by omega⟩ ↔ 1500 + (R:Int) - 750 * (k.val : Int) - 750 ≤ x ∧ x < 1500 + (R:Int) - 750 * (k.val : Int) ∧ 1500 ≤ x := by
  unfold inBand; rw [right_band]; unfold exposure; simp only; omega

theorem inBand_unique {L R : Nat} {x : Int} (hL : L ≤ 3000) (hR : R ≤ 3000) {z z'} (h : inBand L R x z) (h' : inBand L R x z') : z' = z := by
  apply Fin.ext
  rcases zone_cases z with ⟨k, rfl⟩ | ⟨k, rfl⟩ | ⟨k, rfl⟩ <;> rcases zone_cases z' with ⟨j, rfl⟩ | ⟨j, rfl⟩ | ⟨j, rfl⟩ <;> simp only [inBand_main, inBand_left hL, inBand_right hR] at h h' ⊢ <;> omega

theorem inBand_exists {L R : Nat} {x : Int} (hL : L ≤ 3000) (hR : R ≤ 3000) : (∃ z, inBand L R x z) ↔ -1500 - (L:Int) ≤ x ∧ x < 1500 + (R : Int) := by
  constructor
  · rintro ⟨z, h⟩
    rcases zone_cases z with ⟨k, rfl⟩ | ⟨k, rfl⟩ | ⟨k, rfl⟩ <;> simp only [inBand_main, inBand_left hL, inBand_right hR] at h <;> omega
  · intro h
    by_cases h1 : x < -1500
    · exact ⟨⟨4 + ((x + 1500 + L).toNat / 750), by omega⟩, (inBand_left hL ⟨(x + 1500 + L).toNat / 750, by omega⟩).2 (by simp only; omega)⟩
    · by_cases h2 : x < 1500
      · exact ⟨⟨((x + 1500).toNat / 750), by omega⟩, (inBand_main ⟨(x + 1500).toNat / 750, by omega⟩).2 (by simp only; omega)⟩
      · exact ⟨⟨8 + ((1500 + R - 1 - x).toNat / 750), by omega⟩, (inBand_right hR ⟨(1500 + R - 1 - x).toNat / 750, by omega⟩).2 (by simp only; omega)⟩

end Sys2Proof.Machine
end

