-- ==== Sys2Proof/Laws/Records.lean ====
section
/-! SUPPORT. What the shared operations do at the open record and at an application: reports, the close, the head entry. -/

namespace Sys2Proof.Machine

set_option linter.unusedVariables false
set_option linter.unnecessarySeqFocus false
set_option linter.unusedTactic false
set_option linter.unreachableTactic false
set_option linter.unusedSimpArgs false

theorem report_record (f) (v : State) : (report f v).record = match v.record.current with | none => v.record | some r => { v.record with current := some (f r) } := by
  simp only [report]; split <;> simp_all

theorem application_eq {s : State} {p e rest} (h : (s.ports.get p).queue = e :: rest) : exec (.application p) s = .next (if applicationPasses s.settings e then applyEntry p e (popEntry p rest (s.reach (max e.due (s.ports.get p).applyAfter))) else rejectEntry p e (popEntry p rest (s.reach (max e.due (s.ports.get p).applyAfter)))) := by
  simp only [exec, execApplication, h]
  simp

theorem closeRecord_record (a b : Bool) (s : State) : (closeRecord a b s).record = match s.record.current with | none => s.record | some r => { s.record with current := none, summary := some (storeRecord (assembleHeader s r a b) r.pause (s.scan.columns.map (Column.word s.settings.record.coldLimit)) s).2 } := by
  simp only [closeRecord]; split
  · simp_all
  · rename_i r hr
    simp only [State.withRecord_record]
    split <;> simp [hr]

theorem closeRecord_none {a b : Bool} {s : State} (h : s.record.current = none) : closeRecord a b s = s := by simp [closeRecord, h]

theorem closeRecord_some {a b : Bool} {s : State} {r} (h : s.record.current = some r) : closeRecord a b s =
   let stored := storeRecord (assembleHeader s r a b) r.pause (s.scan.columns.map (Column.word s.settings.record.coldLimit)) s
   (if b then raiseAll .recordClosed stored.1 else boostZones (coldZones s r) (raiseAll .recordClosed stored.1)).withRecord { s.record with current := none, summary := some stored.2 } := by
  simp only [closeRecord, h]
  congr 1
  · split <;> simp [h]

theorem closeRecord_zone {a b : Bool} {s : State} {k : Fin 12} : (closeRecord a b s).zones[k] = { s.zones[k] with boost := ((closeRecord a b s).zones[k]).boost } := by
  cases h : s.record.current with
  | none => rw [closeRecord_none h]
  | some r =>
    rw [closeRecord_some h]
    cases b <;> simp [boostZones]
    split <;> simp

theorem app_mode {s : State} {p e rest} {m : Mode} (h : (s.ports.get p).queue = e :: rest) (hi : e.item = .machineMode) (hv : e.value = BitVec.ofNat 16 m.code) :
   ∃ u : State, u.settings = { s.settings with mode := m } ∧ changesOnly [.settings, .ports, .now] s u ∧ u.ports = s.ports.set p { s.ports.get p with queue := rest, applyAfter := u.now + 200 } ∧
    exec (.application p) s = .next ((raiseOthers p .settingChanged (modeApplied s.settings.mode u)).modifyPort p fun t => { t with lastApplied := some e.item, lastClamped := e.clamped }) := by
  obtain ⟨i, v, c, d⟩ := e
  simp only at hi hv; subst hi hv
  rw [application_eq h]
  refine ⟨(popEntry p rest (s.reach (max d (s.ports.get p).applyAfter))).withSettings { s.settings with mode := m }, ?_, ?_, ?_, ?_⟩
  · simp
  · intro part hp; cases part <;> simp at hp <;> simp [Part.kept]
  · simp [popEntry, State.modifyPort, Config.applicationTime, Config.ms, Config.ticksPerMs]
  · have : (Mode.ofCode? (BitVec.ofNat 16 m.code).toNat).getD s.settings.mode = m := by cases m <;> rfl
    simp only [applicationPasses, if_true, applyEntry, storeSetting, settingApplied, Settings.write, popEntry_frame, State.reach_frame, this]

end Sys2Proof.Machine
end

