-- ==== Sys2Proof/Laws/Heat.lean ====
section
/-! SUPPORT. What a slice start and a cycle boundary do: the grant pass and the grant order, a zone's cycle start, the reports. -/

namespace Sys2Proof.Machine

set_option linter.unusedVariables false
set_option linter.unnecessarySeqFocus false
set_option linter.unusedTactic false
set_option linter.unreachableTactic false
set_option linter.unusedSimpArgs false

/-- The sum of `r` over the zones of a list that `f` picks. -/
def ratedTotal (r : Fin 12 → Nat) (f : Fin 12 → Bool) (l : List (Fin 12)) : Nat := ((l.filter f).map r).sum

theorem pass_spec (r : Fin 12 → Nat) (A : Int) : ∀ (l : List (Fin 12)) (g : List (Fin 12)) (w : Nat), l.Nodup → (∀ k ∈ l, k ∉ g) →
    let res := grantPass r A l (g, w)
    (∀ k, k ∉ l → (k ∈ res.1 ↔ k ∈ g)) ∧ res.2 = w + ratedTotal r (fun k => decide (k ∈ res.1)) l ∧
    (∀ pre k post, l = pre ++ k :: post → (k ∈ res.1 ↔ ((w + ratedTotal r (fun j => decide (j ∈ res.1)) pre : Nat) : Int) + r k ≤ A))
  | [], g, w, _, _ => by simp [grantPass, ratedTotal]
  | a :: l, g, w, hn, hg => by
    have hna := (List.nodup_cons.1 hn).1
    have hnl := (List.nodup_cons.1 hn).2
    simp only [grantPass]
    split
    · rename_i hfit
      obtain ⟨h1, h2, h3⟩ := pass_spec r A l (a :: g) (w + r a) hnl (by
        intro k hk; simp only [List.mem_cons, not_or]; exact ⟨fun h => hna (h ▸ hk), hg k (by simp [hk])⟩)
      have ha : a ∈ (grantPass r A l (a :: g, w + r a)).1 := (h1 a hna).2 (by simp)
      refine ⟨?_, ?_, ?_⟩
      · intro k hk; simp only [List.mem_cons, not_or] at hk
        rw [h1 k hk.2]; simp [hk.1]
      · simp only [ratedTotal, List.filter_cons, ha, decide_true, if_true, List.map_cons, List.sum_cons] at h2 ⊢; omega
      · intro pre k post he
        cases pre with
        | nil =>
          simp only [List.nil_append, List.cons.injEq] at he; obtain ⟨rfl, rfl⟩ := he
          simp only [ha, true_iff, ratedTotal, List.filter_nil, List.map_nil, List.sum_nil]; exact_mod_cast hfit
        | cons b pre =>
          simp only [List.cons_append, List.cons.injEq] at he; obtain ⟨rfl, rfl⟩ := he
          rw [h3 pre k post rfl]
          simp only [ratedTotal, List.filter_cons, ha, decide_true, if_true, List.map_cons, List.sum_cons]
          push_cast; constructor <;> intro h <;> omega
    · rename_i hfit
      obtain ⟨h1, h2, h3⟩ := pass_spec r A l g w hnl (fun k hk => hg k (by simp [hk]))
      have ha : a ∉ (grantPass r A l (g, w)).1 := fun h => hg a (by simp) ((h1 a hna).1 h)
      refine ⟨?_, ?_, ?_⟩
      · intro k hk; simp only [List.mem_cons, not_or] at hk
        exact h1 k hk.2
      · simpa only [ratedTotal, List.filter_cons, ha, decide_false, Bool.false_eq_true, if_false] using h2
      · intro pre k post he
        cases pre with
        | nil =>
          simp only [List.nil_append, List.cons.injEq] at he; obtain ⟨rfl, rfl⟩ := he
          simp only [ha, false_iff, ratedTotal, List.filter_nil, List.map_nil, List.sum_nil]; exact_mod_cast hfit
        | cons b pre =>
          simp only [List.cons_append, List.cons.injEq] at he; obtain ⟨rfl, rfl⟩ := he
          rw [h3 pre k post rfl]
          simp only [ratedTotal, List.filter_cons, ha, decide_false, Bool.false_eq_true, if_false]

theorem insertGrant_perm (s : State) (a) : ∀ l, (insertGrant s a l).Perm (a :: l)
  | [] => by simp [insertGrant]
  | b :: l => by
    simp only [insertGrant]; split
    · exact .refl _
    · exact ((insertGrant_perm s a l).cons b).trans (.swap a b l)

/-- Zone a stands before zone b in grant order (R85), as one condition. -/
def grantedBefore (s : State) (a b : Fin 12) : Bool := decide (0 < s.zones[a].boost ∧ s.zones[b].boost = 0)
             || decide ((0 < s.zones[a].boost ↔ 0 < s.zones[b].boost)
                  ∧ (s.zones[b].remaining < s.zones[a].remaining
                      ∨ s.zones[a].remaining = s.zones[b].remaining ∧ a.val < b.val))

theorem grantedBefore_eq (s : State) (a b) : grantBefore s a b = grantedBefore s a b := by
  rw [Bool.eq_iff_iff]
  simp only [grantBefore, grantedBefore, Bool.or_eq_true, decide_eq_true_eq]
  generalize s.zones[a] = za; generalize s.zones[b] = zb
  by_cases h1 : 0 < za.boost <;> by_cases h2 : 0 < zb.boost <;> by_cases h3 : za.remaining = zb.remaining <;> simp [h1, h2, h3] <;> try omega

theorem grantedBefore_iff (s : State) (a b) : grantedBefore s a b = true ↔ (0 < s.zones[a].boost ∧ s.zones[b].boost = 0) ∨ ((0 < s.zones[a].boost ↔ 0 < s.zones[b].boost)
                  ∧ (s.zones[b].remaining < s.zones[a].remaining
                      ∨ s.zones[a].remaining = s.zones[b].remaining ∧ a.val < b.val)) := by simp [grantedBefore]

theorem grantedBefore_trans {s : State} {a b c} (h : grantedBefore s a b = true) (g : grantedBefore s b c = true) : grantedBefore s a c = true := by
  rw [grantedBefore_iff] at *; omega

theorem grantedBefore_total {s : State} {a b} (h : ¬ grantedBefore s a b = true) (hn : a ≠ b) : grantedBefore s b a = true := by
  rw [grantedBefore_iff] at *; have : a.val ≠ b.val := fun h => hn (Fin.ext h); omega

theorem grantedBefore_asymm {s : State} {a b} (h : grantedBefore s a b = true) : ¬ grantedBefore s b a = true := by
  rw [grantedBefore_iff] at *; omega

theorem insertGrant_sorted (s : State) (a) : ∀ l, a ∉ l → l.Pairwise (fun x y => grantedBefore s x y = true) → (insertGrant s a l).Pairwise (fun x y => grantedBefore s x y = true)
  | [], _, _ => by simp [insertGrant]
  | b :: l, hn, hp => by
    simp only [List.mem_cons, not_or] at hn
    obtain ⟨hb, hl⟩ := List.pairwise_cons.1 hp
    simp only [insertGrant, grantedBefore_eq]; split
    · rename_i h
      refine List.pairwise_cons.2 ⟨?_, hp⟩
      intro x hx; rcases List.mem_cons.1 hx with rfl | hx
      · exact h
      · exact grantedBefore_trans h (hb x hx)
    · rename_i h
      refine List.pairwise_cons.2 ⟨?_, insertGrant_sorted s a l hn.2 hl⟩
      intro x hx
      rcases List.mem_cons.1 ((insertGrant_perm s a l).mem_iff.1 hx) with rfl | hx
      · exact grantedBefore_total h hn.1
      · exact hb x hx

theorem grantOrder_spec (s : State) : (grantOrder s).Perm ((List.finRange 12).filter (candidate s)) ∧ (grantOrder s).Pairwise (fun x y => grantedBefore s x y = true) := by
  unfold grantOrder
  have hn : ((List.finRange 12).filter (candidate s)).Nodup := (List.nodup_finRange 12).filter _
  revert hn
  generalize (List.finRange 12).filter (candidate s) = l
  induction l with
  | nil => simp
  | cons a l ih =>
    intro hn
    obtain ⟨h1, h2⟩ := ih (List.nodup_cons.1 hn).2
    simp only [List.foldr_cons]
    exact ⟨(insertGrant_perm s a _).trans (h1.cons a), insertGrant_sorted s a _ (fun h => (List.nodup_cons.1 hn).1 (h1.mem_iff.1 h)) h2⟩

theorem ratedTotal_perm {r f} {l l' : List (Fin 12)} (h : l.Perm l') : ratedTotal r f l = ratedTotal r f l' := ((h.filter f).map r).sum_eq

theorem startSlice_spec (s : State) : let t := startSlice s
    (∀ k, t.heat.grants.getLsbD k.val = true ↔ candidate s k = true ∧ ((ratedTotal (fun k => s.settings.zones[k].rated) (fun j => t.heat.grants.getLsbD j.val && grantedBefore s j k) (List.finRange 12) : Nat) : Int) + s.settings.zones[k].rated ≤ t.heat.available)
    ∧ t.heat.grantedPower = ratedTotal (fun k => s.settings.zones[k].rated) (fun j => t.heat.grants.getLsbD j.val) (List.finRange 12) := by
  intro t
  obtain ⟨hp, hs⟩ := grantOrder_spec s
  have hn : (grantOrder s).Nodup := hs.imp fun {a b} h => by rintro rfl; exact grantedBefore_asymm h h
  have hm : ∀ k, k ∈ grantOrder s ↔ candidate s k = true := fun k => by rw [hp.mem_iff]; simp
  obtain ⟨h1, h2, h3⟩ := pass_spec (fun k => s.settings.zones[k].rated) (formBudget s).available (grantOrder s) [] 0 hn (by simp)
  have ha : t.heat.available = (formBudget s).available := rfl
  have hg : ∀ k : Fin 12, t.heat.grants.getLsbD k.val = decide (k ∈ (grantPass (fun k => s.settings.zones[k].rated) (formBudget s).available (grantOrder s) ([], 0)).1) := by
    intro k
    show (setOf _).getLsbD k.val = _
    rw [setOf_bit']; simp
  have hgp : t.heat.grantedPower = (grantPass (fun k => s.settings.zones[k].rated) (formBudget s).available (grantOrder s) ([], 0)).2 := rfl
  simp only [hg, ha, hgp, decide_eq_true_eq]
  generalize hG : (grantPass (fun k => s.settings.zones[k].rated) (formBudget s).available (grantOrder s) ([], 0)) = G at *
  have hsub : ∀ k, k ∈ G.1 → k ∈ grantOrder s := fun k h => by
    by_contra hc; have := (h1 k hc).1 h; simp at this
  have hfil : ∀ (f : Fin 12 → Bool), (∀ k, f k = true → k ∈ G.1) → ratedTotal (fun k => s.settings.zones[k].rated) f (List.finRange 12) = ratedTotal (fun k => s.settings.zones[k].rated) f (grantOrder s) := by
    intro f hf
    rw [ratedTotal_perm hp]
    unfold ratedTotal
    rw [List.filter_filter]
    congr 2
    apply List.filter_congr
    intro k _
    cases h : f k
    · simp
    · simp [(hm k).1 (hsub k (hf k h))]
  refine ⟨?_, ?_⟩
  · intro k
    rw [hfil _ (by intro j hj; simp at hj; exact hj.1)]
    constructor
    · intro hk
      obtain ⟨pre, post, he⟩ := List.append_of_mem (hsub k hk)
      refine ⟨(hm k).1 (hsub k hk), ?_⟩
      have h4 := (h3 pre k post he).1 hk
      suffices hpk : ratedTotal (fun k => s.settings.zones[k].rated) (fun j => decide (j ∈ G.1) && grantedBefore s j k) (grantOrder s) = ratedTotal (fun k => s.settings.zones[k].rated) (fun j => decide (j ∈ G.1)) pre by
        rw [hpk]; simpa using h4
      rw [he] at hs ⊢
      obtain ⟨_, s2, s3⟩ := List.pairwise_append.1 hs
      have s4 := (List.pairwise_cons.1 s2).1
      unfold ratedTotal
      rw [List.filter_append, List.filter_cons]
      have e1 : post.filter (fun j => decide (j ∈ G.1) && grantedBefore s j k) = [] := by
        rw [List.filter_eq_nil_iff]; intro j hj hc; simp at hc; exact grantedBefore_asymm (s4 j hj) hc.2
      have e2 : ¬ ((decide (k ∈ G.1) && grantedBefore s k k) = true) := by simp; intro _; by_contra hc; simp at hc; exact grantedBefore_asymm hc hc
      have e3 : pre.filter (fun j => decide (j ∈ G.1) && grantedBefore s j k) = pre.filter (fun j => decide (j ∈ G.1)) := by
        apply List.filter_congr; intro j hj; simp [s3 j hj k (by simp)]
      rw [if_neg e2, e1, e3]; simp
    · rintro ⟨hc, hfit⟩
      obtain ⟨pre, post, he⟩ := List.append_of_mem ((hm k).2 hc)
      refine (h3 pre k post he).2 ?_
      suffices hpk : ratedTotal (fun k => s.settings.zones[k].rated) (fun j => decide (j ∈ G.1) && grantedBefore s j k) (grantOrder s) = ratedTotal (fun k => s.settings.zones[k].rated) (fun j => decide (j ∈ G.1)) pre by
        rw [hpk] at hfit; simpa using hfit
      rw [he] at hs ⊢
      obtain ⟨_, s2, s3⟩ := List.pairwise_append.1 hs
      have s4 := (List.pairwise_cons.1 s2).1
      unfold ratedTotal
      rw [List.filter_append, List.filter_cons]
      have e1 : post.filter (fun j => decide (j ∈ G.1) && grantedBefore s j k) = [] := by
        rw [List.filter_eq_nil_iff]; intro j hj hc; simp at hc; exact grantedBefore_asymm (s4 j hj) hc.2
      have e2 : ¬ ((decide (k ∈ G.1) && grantedBefore s k k) = true) := by simp; intro _; by_contra hc; simp at hc; exact grantedBefore_asymm hc hc
      have e3 : pre.filter (fun j => decide (j ∈ G.1) && grantedBefore s j k) = pre.filter (fun j => decide (j ∈ G.1)) := by
        apply List.filter_congr; intro j hj; simp [s3 j hj k (by simp)]
      rw [if_neg e2, e1, e3]; simp
  · rw [h2, hfil _ (by intro j hj; simpa using hj)]; simp

theorem divint (b : Nat) (x : Int) (hx : 0 ≤ x) : divHalfUp (32 * x.toNat) b = ((32 * x + (b:Int) / 2) / b).toNat := by
  obtain ⟨n, rfl⟩ := Int.eq_ofNat_of_zero_le hx
  unfold divHalfUp
  have h1 : ((n : Int)).toNat = n := Int.toNat_natCast n
  have h2 : (32 * (n : Int) + (b:Int)/2) / b = (((32 * n + b / 2) / b : Nat) : Int) := by push_cast; rfl
  show (32 * ((n : Int)).toNat + b / 2) / b = ((32 * (n : Int) + (b:Int)/2) / b).toNat
  rw [h1, h2]; exact (Int.toNat_natCast _).symm

theorem setOf_ne {f : Fin 12 → Bool} : (Sys2Proof.Machine.setOf f != 0#12) = true ↔ ∃ k, f k = true := by
  rw [bne_iff_ne]
  constructor
  · intro h; by_contra hc; apply h
    refine BitVec.eq_of_getLsbD_eq fun i hi => ?_
    have : f ⟨i, hi⟩ = false := by by_contra hh; exact hc ⟨_, by simpa using hh⟩
    have h2 := setOf_bit' f ⟨i, hi⟩
    simp only at h2; rw [h2, this]; simp
  · rintro ⟨k, hk⟩ h0
    have h2 := setOf_bit' f k
    rw [h0, hk] at h2; simp at h2

theorem zstep (z : ZoneUnit) (e : ResultEntry) (c : ZoneSettings) (act : Bool) :
    let usable : Option Int := if e.quality = .good then some e.value else z.lastGood
    let missed : Nat := if e.quality = .good then 0 else if e.round = 0 then z.missed else min 255 (z.missed + 1)
    let asked : Nat := 
      match usable with
      | none => 0
      | some temp =>
        if c.enabled = false ∨ c.setpoint = 0 ∨ act = false then 0
        else if temp ≤ (c.setpoint : Int) - c.band then 32
        else if (c.setpoint : Int) ≤ temp then 0
        else ((32 * ((c.setpoint : Int) - temp) + (c.band : Int) / 2) / c.band).toNat
    let after : ZoneState × Nat := 
      if z.state = .faultOpen ∨ z.state = .faultWelded then (z.state, 0)
      else if 3 ≤ missed then (.sensorLost, 0)
      else if z.state = .sensorLost then (.idle, 0)
      else if 0 < asked then (.heating, asked)
      else (.idle, 0)
    (z.takeTemperature e).startCycle (zoneDemand c act (z.takeTemperature e).usable) = { z with
            state := after.1, demand := after.2, remaining := after.2, granted := 0
            boost := z.boost - 1, usable := usable
            lastGood := if e.quality = .good then some e.value else z.lastGood
            missed := missed
            output := z.output && decide (after.1 = .heating) } := by
  intro usable missed asked after
  have h1 : z.takeTemperature e = { z with usable := usable, missed := missed, lastGood := if e.quality = .good then some e.value else z.lastGood } := by
    simp only [usable, missed, ZoneUnit.takeTemperature, satAdd]
    by_cases hq : e.quality = .good <;> by_cases hr : e.round = 0 <;> simp [hq, hr]
  have h2 : zoneDemand c act usable = asked := by
    simp only [asked]
    cases usable with
    | none => rfl
    | some temp =>
      simp only [zoneDemand]
      by_cases h : c.enabled = false ∨ c.setpoint = 0 ∨ act = false
      · rw [if_pos h, if_pos (by simpa [or_assoc] using h)]
      · rw [if_neg h, if_neg (by simpa [or_assoc] using h)]
        split
        · rfl
        · split
          · rfl
          · exact divint _ _ (by omega)
  have h3 : evaluateZone (z.takeTemperature e) asked = after := by
    rw [h1]; simp only [evaluateZone, after]
    cases hz : z.state <;> simp [hz]
  rw [h1] at h3 ⊢
  simp only [ZoneUnit.startCycle, h2, h3]

theorem closeCycle_zone (v : State) (k : Fin 12) : (closeCycle v).zones[k] = { v.zones[k] with starved := v.zones[k].remaining } := by
  simp [closeCycle, State.mapZones]

theorem cycleStart_zone (b : Bool) (v : State) (k : Fin 12) : (cycleStart b v).zones[k] =
    (let z : ZoneUnit := { v.zones[k] with starved := if b then v.zones[k].remaining else v.zones[k].starved }
     let e := v.seq.results[zoneChannel k]
     (z.takeTemperature e).startCycle (zoneDemand v.settings.zones[k] (v.travel.activity.getLsbD k.val) (z.takeTemperature e).usable)) := by
  have : ∀ w : State, (w.mapZones (cycleZone w)).zones[k] = cycleZone w k w.zones[k] := fun w => by simp [State.mapZones]
  cases b
  · simp only [cycleStart, Bool.false_eq_true, if_false, reportFaulted_frame, raiseAllIf_frame]
    rw [this]; rfl
  · simp only [cycleStart, if_true, reportFaulted_frame, raiseAllIf_frame]
    rw [this, cycleZone, closeCycle_zone]; simp only [closeCycle_frame]

theorem closeCycle_ports (v : State) (q) : (closeCycle v).ports.get q = if ∃ k : Fin 12, 0 < v.zones[k].remaining then portRaised (v.settings.masks.get q) .starving (v.ports.get q) else v.ports.get q := by
  simp only [closeCycle, reportStarved_frame, raiseAllIf]
  by_cases h : ∃ k : Fin 12, 0 < v.zones[k].remaining
  · rw [if_pos h, if_pos (setOf_ne.2 (by simpa using h)), raiseAll_get]; simp [State.mapZones]
  · rw [if_neg h, if_neg (by rw [setOf_ne]; simpa using h)]; simp [State.mapZones]

theorem cycleStart_ports (b : Bool) (v : State) (q) : (cycleStart b v).ports.get q =
    (let p1 := if b = true ∧ ∃ k : Fin 12, 0 < v.zones[k].remaining then portRaised (v.settings.masks.get q) .starving (v.ports.get q) else v.ports.get q
     if ∃ k : Fin 12, v.zones[k].state ≠ .sensorLost ∧ (cycleStart b v).zones[k].state = .sensorLost then portRaised (v.settings.masks.get q) .zoneFault p1 else p1) := by
  have hz : ∀ k : Fin 12, (cycleStart b v).zones[k] = ((if b then closeCycle v else v).mapZones (cycleZone (if b then closeCycle v else v))).zones[k] := by
    intro k; simp only [cycleStart, reportFaulted_frame, raiseAllIf_frame]
  have hst : ∀ k : Fin 12, (if b then closeCycle v else v).zones[k].state = v.zones[k].state := by
    intro k; cases b
    · rfl
    · simp only [if_true]; rw [closeCycle_zone]
  have hpt : (if b then closeCycle v else v).ports.get q = if b = true ∧ ∃ k : Fin 12, 0 < v.zones[k].remaining then portRaised (v.settings.masks.get q) .starving (v.ports.get q) else v.ports.get q := by
    cases b
    · simp
    · simp only [if_true, true_and]; exact closeCycle_ports v q
  have hse : (if b then closeCycle v else v).settings = v.settings := by cases b <;> simp
  simp only
  rw [← hpt]
  simp only [hz]
  simp only [cycleStart, reportFaulted_frame]
  generalize (if b then closeCycle v else v) = t at *
  simp only [raiseAllIf]
  have hiff : (Sys2Proof.Machine.setOf (fun k : Fin 12 => t.zones[k].state != .sensorLost && (t.mapZones (cycleZone t)).zones[k].state = .sensorLost) != 0#12) = true ↔ ∃ k : Fin 12, v.zones[k].state ≠ .sensorLost ∧ (t.mapZones (cycleZone t)).zones[k].state = .sensorLost := by
    rw [setOf_ne]; simp only [Bool.and_eq_true, bne_iff_ne, decide_eq_true_eq, hst]
  by_cases h : ∃ k : Fin 12, v.zones[k].state ≠ .sensorLost ∧ (t.mapZones (cycleZone t)).zones[k].state = .sensorLost
  · rw [if_pos h, if_pos (hiff.2 h), raiseAll_get]; simp [State.mapZones, hse]
  · rw [if_neg h, if_neg (fun hh => h (hiff.1 hh))]; simp [State.mapZones]

theorem closeCycle_record (v : State) : (closeCycle v).record = match v.record.current with | none => v.record | some r => { v.record with current := some { r with starved := r.starved ||| Sys2Proof.Machine.setOf fun k : Fin 12 => 0 < v.zones[k].remaining } } := by
  simp only [closeCycle, reportStarved, report_record, raiseAllIf_frame]; simp [State.mapZones] <;> rfl

theorem cycleStart_lost (b : Bool) (v : State) : ∃ lost : ZoneSet, (∀ k : Fin 12, lost.getLsbD k.val = true ↔ v.zones[k].state ≠ .sensorLost ∧ (cycleStart b v).zones[k].state = .sensorLost) ∧
    (cycleStart b v).record = match v.record.current with | none => v.record | some r => { v.record with current := some { r with starved := (if b then r.starved ||| Sys2Proof.Machine.setOf fun k : Fin 12 => 0 < v.zones[k].remaining else r.starved), faulted := r.faulted ||| lost } } := by
  have hz : ∀ k : Fin 12, (cycleStart b v).zones[k] = ((if b then closeCycle v else v).mapZones (cycleZone (if b then closeCycle v else v))).zones[k] := by
    intro k; simp only [cycleStart, reportFaulted_frame, raiseAllIf_frame]
  have hst : ∀ k : Fin 12, (if b then closeCycle v else v).zones[k].state = v.zones[k].state := by
    intro k; cases b
    · rfl
    · simp only [if_true]; rw [closeCycle_zone]
  refine ⟨Sys2Proof.Machine.setOf (fun k : Fin 12 => (if b then closeCycle v else v).zones[k].state != .sensorLost && ((if b then closeCycle v else v).mapZones (cycleZone (if b then closeCycle v else v))).zones[k].state = .sensorLost), ?_, ?_⟩
  · intro k; rw [setOf_bit']; simp only [Bool.and_eq_true, bne_iff_ne, decide_eq_true_eq, hst, hz]
  · simp only [cycleStart, reportFaulted, report_record, raiseAllIf_frame]
    have : ∀ w : State, (w.mapZones (cycleZone w)).record = w.record := fun w => by simp [State.mapZones]
    simp only [this]
    cases b
    · simp only [Bool.false_eq_true, if_false] <;> rfl
    · simp only [if_true, closeCycle_record]
      cases hr : v.record.current with
      | none => simp only [hr]
      | some r => rfl

theorem startSlice_zone (u : State) (k : Fin 12) : (startSlice u).zones[k] = u.zones[k].startSlice ((startSlice u).heat.grants.getLsbD k.val) := by
  simp [startSlice, State.mapZones]

theorem startHeating_zone (v : State) (k : Fin 12) : ∃ g,
    let e := v.seq.results[zoneChannel k]
    (startHeating v).zones[k] = ((v.zones[k].takeTemperature e).startCycle (zoneDemand v.settings.zones[k] (v.travel.activity.getLsbD k.val) (v.zones[k].takeTemperature e).usable)).startSlice g := by
  refine ⟨(startHeating v).heat.grants.getLsbD k.val, ?_⟩
  simp only [startHeating, cycleBoundary]
  rw [startSlice_zone]
  congr 1
  simp only [State.withHeat_zones]
  rw [cycleStart_zone]
  simp

/-- RESTART at the heating (R96, R115): outside TRAVEL `startHeating` on a state that differs from the one before in the heat grant
unit, the zones and the timers only; in TRAVEL that state itself. -/
theorem restartHeating_eq (s : State) : ∃ u : State, (restartHeating s = if s.settings.mode = .travel then u else startHeating u)
    ∧ u.heat = { s.heat with grants := 0#12, grantedPower := 0, tripped := false }
    ∧ (∀ k : Fin 12, u.zones[k] = ZoneUnit.restarted { s.zones[k] with output := false })
    ∧ u.timers = { s.timers with slice := none, readback := none, heatingWait := none }
    ∧ changesOnly [.heat, .zones, .timers] s u := by
  refine ⟨_, rfl, ?_, ?_, ?_, ?_⟩
  · simp [cutGrants, outputsOff]
  · intro k; simp [cutGrants, outputsOff, State.mapZones]
  · simp [cutGrants, outputsOff]
  · intro part hp; cases part <;> simp at hp <;> simp [Part.kept, cutGrants, outputsOff, State.mapZones]

theorem startHeating_timers (u : State) : (startHeating u).timers = { u.timers with slice := some (u.now + Config.sliceTime), readback := some (u.now + Config.readbackTime) } := by
  simp [startHeating, cycleBoundary, startSlice, State.mapZones]

theorem startHeating_ports (v : State) (q : Port) : (startHeating v).ports.get q =
    if ∃ k : Fin 12, v.zones[k].state ≠ .sensorLost ∧ (startHeating v).zones[k].state = .sensorLost then
      portRaised (v.settings.masks.get q) .zoneFault (v.ports.get q) else v.ports.get q := by
  have started : ∃ u : State, u.zones = v.zones ∧ u.settings = v.settings ∧ u.ports = v.ports
      ∧ (startHeating v).ports = (cycleStart false u).ports
      ∧ ∀ k : Fin 12, (startHeating v).zones[k].state = (cycleStart false u).zones[k].state := by
    refine ⟨(v.withHeat { v.heat with running := true }).withHeat (HeatUnit.nextCycle { v.heat with running := true }),
      by simp, by simp, by simp, by simp [startHeating, cycleBoundary, startSlice, State.mapZones], fun k => ?_⟩
    simp only [startHeating, cycleBoundary]
    rw [startSlice_zone]
    simp only [ZoneUnit.startSlice, State.withHeat_zones]; split <;> rfl
  obtain ⟨u, hz, hs, hp, ports, zones⟩ := started
  simp only [zones]
  rw [ports, cycleStart_ports]
  simp [hz, hs, hp]

theorem restartHeating_ports (s : State) (q : Port) : (restartHeating s).ports.get q =
    if ∃ k : Fin 12, s.zones[k].state ≠ .sensorLost ∧ (restartHeating s).zones[k].state = .sensorLost then
      portRaised (s.settings.masks.get q) .zoneFault (s.ports.get q) else s.ports.get q := by
  obtain ⟨u, h1, -, h4, -, kept⟩ := restartHeating_eq s
  have h3 : u.settings = s.settings := kept .settings (by simp)
  have h6 : u.ports = s.ports := kept .ports (by simp)
  rw [h1]
  split
  · rw [if_neg, h6]
    rintro ⟨k, hk1, hk2⟩
    rw [h4] at hk2
    simp only [ZoneUnit.restarted] at hk2
    split at hk2
    · cases hk2
    · exact hk1 hk2
  · rw [startHeating_ports, h3, h6]
    have same : ∀ k : Fin 12, u.zones[k].state ≠ .sensorLost ↔ s.zones[k].state ≠ .sensorLost := by
      intro k; rw [h4]; simp only [ZoneUnit.restarted]; split
      · rename_i h; constructor
        · intro _ hc; rw [hc] at h; simp at h
        · intro _ hc; cases hc
      · rfl
    simp only [same]

end Sys2Proof.Machine
end

