-- ==== Sys2Proof/Laws/Step.lean ====
section
/-! SUPPORT. What one step can do, said once, and how a property of the state is carried over a step. -/

namespace Sys2Proof.Machine

/-- A step runs the front command on the rest of the queue, or, on an empty queue, the part's own event that is due, or passes
one tick. -/
theorem step_cases {s t : State} (h : step s = .next t) :
    (∃ c rest, s.pending = c :: rest ∧ exec c (s.withPending rest) = .next t)
      ∨ (∃ c, s.pending = [] ∧ dueCommand s = some c ∧ exec c (s.withFree (s.free + 1)) = .next t)
      ∨ (s.pending = [] ∧ dueCommand s = none ∧ t = s.withNow (s.now + 1)) := by
  unfold step at h
  split at h
  · exact .inl ⟨_, _, ‹_›, h⟩
  · unfold idleStep at h
    split at h
    · exact .inr (.inl ⟨_, ‹_›, ‹_›, h⟩)
    · cases h
      exact .inr (.inr ⟨‹_›, ‹_›, rfl⟩)

/-- A property that every command keeps, and that does not look at the queue, the free values or the time, is kept by every
step. -/
theorem step_keeps {law : State → Prop} (queue : ∀ s q, law s → law (s.withPending q))
    (free : ∀ s n, law s → law (s.withFree n)) (time : ∀ s n, law s → law (s.withNow n))
    (command : ∀ c s t, law s → exec c s = .next t → law t) {s t : State} (hs : law s) (h : step s = .next t) :
    law t := by
  rcases step_cases h with ⟨c, rest, -, hc⟩ | ⟨c, -, -, hc⟩ | ⟨-, -, rfl⟩
  · exact command c _ _ (queue s rest hs) hc
  · exact command c _ _ (free s _ hs) hc
  · exact time s _ hs

end Sys2Proof.Machine
end

