-- ==== Sys2Proof/Laws/Untouched.lean ====
section
/-! SUPPORT. For every law and every shared operation that touches nothing the law reads: the law holds after the operation
exactly when it held before. As simp lemmas they leave to a proof only the operations that touch the law. -/

namespace Sys2Proof.Machine

theorem PortLaw_congr {s t : State} (h0 : t.settings = s.settings) (h1 : t.ports = s.ports) : PortLaw t ↔ PortLaw s := by
  unfold PortLaw; simp only [h0, h1]

@[simp] theorem PortLaw_withTravel (s : State) (x) : PortLaw (s.withTravel x) ↔ PortLaw s := Iff.rfl

@[simp] theorem PortLaw_withSeq (s : State) (x) : PortLaw (s.withSeq x) ↔ PortLaw s := Iff.rfl

@[simp] theorem PortLaw_withLev (s : State) (x) : PortLaw (s.withLev x) ↔ PortLaw s := Iff.rfl

@[simp] theorem PortLaw_withFeed (s : State) (x) : PortLaw (s.withFeed x) ↔ PortLaw s := Iff.rfl

@[simp] theorem PortLaw_withHeat (s : State) (x) : PortLaw (s.withHeat x) ↔ PortLaw s := Iff.rfl

@[simp] theorem PortLaw_withZones (s : State) (x) : PortLaw (s.withZones x) ↔ PortLaw s := Iff.rfl

@[simp] theorem PortLaw_withScan (s : State) (x) : PortLaw (s.withScan x) ↔ PortLaw s := Iff.rfl

@[simp] theorem PortLaw_withRecord (s : State) (x) : PortLaw (s.withRecord x) ↔ PortLaw s := Iff.rfl

@[simp] theorem PortLaw_withStore (s : State) (x) : PortLaw (s.withStore x) ↔ PortLaw s := Iff.rfl

@[simp] theorem PortLaw_withTimers (s : State) (x) : PortLaw (s.withTimers x) ↔ PortLaw s := Iff.rfl

@[simp] theorem PortLaw_withPins (s : State) (x) : PortLaw (s.withPins x) ↔ PortLaw s := Iff.rfl

@[simp] theorem PortLaw_withNow (s : State) (x) : PortLaw (s.withNow x) ↔ PortLaw s := Iff.rfl

@[simp] theorem PortLaw_withFree (s : State) (x) : PortLaw (s.withFree x) ↔ PortLaw s := Iff.rfl

@[simp] theorem PortLaw_withPending (s : State) (x) : PortLaw (s.withPending x) ↔ PortLaw s := Iff.rfl

@[simp] theorem PortLaw_report (s : State) (f : OpenRecord → OpenRecord) : PortLaw (report f s) ↔ PortLaw s := PortLaw_congr (by simp) (by simp)

@[simp] theorem PortLaw_reportFlags (s : State) (f : RecordFlags → RecordFlags) : PortLaw (reportFlags f s) ↔ PortLaw s := PortLaw_congr (by simp) (by simp)

@[simp] theorem PortLaw_reportStarved (s : State) (z : ZoneSet) : PortLaw (reportStarved z s) ↔ PortLaw s := PortLaw_congr (by simp) (by simp)

@[simp] theorem PortLaw_reportFaulted (s : State) (z : ZoneSet) : PortLaw (reportFaulted z s) ↔ PortLaw s := PortLaw_congr (by simp) (by simp)

@[simp] theorem PortLaw_reportTrip (s : State)  : PortLaw (reportTrip s) ↔ PortLaw s := PortLaw_congr (by simp) (by simp)

@[simp] theorem PortLaw_State_reach (s : State) (due : Nat) : PortLaw (s.reach due) ↔ PortLaw s := PortLaw_congr (by simp) (by simp)

@[simp] theorem PortLaw_State_reachOpt (s : State) (due : Option Nat) : PortLaw (s.reachOpt due) ↔ PortLaw s := PortLaw_congr (by simp) (by simp)

@[simp] theorem PortLaw_State_modifySide (s : State) (sd : Side) (f : SideUnit → SideUnit) : PortLaw (s.modifySide sd f) ↔ PortLaw s := PortLaw_congr (by simp) (by simp)

@[simp] theorem PortLaw_autoValvesZero (s : State)  : PortLaw (autoValvesZero s) ↔ PortLaw s := PortLaw_congr (by simp) (by simp)

@[simp] theorem PortLaw_State_modifyDrive (s : State) (d : Drive) (f : DriveUnit → DriveUnit) : PortLaw (s.modifyDrive d f) ↔ PortLaw s := PortLaw_congr (by simp) (by simp)

@[simp] theorem PortLaw_openRecord (s : State)  : PortLaw (openRecord s) ↔ PortLaw s := PortLaw_congr (by simp) (by simp)

@[simp] theorem PortLaw_boostZones (s : State) (z : ZoneSet) : PortLaw (boostZones z s) ↔ PortLaw s := PortLaw_congr (by simp) (by simp)

@[simp] theorem PortLaw_recordWindow (s : State)  : PortLaw (recordWindow s) ↔ PortLaw s := PortLaw_congr (by simp) (by simp)

@[simp] theorem PortLaw_prefillWindow (s : State)  : PortLaw (prefillWindow s) ↔ PortLaw s := PortLaw_congr (by simp) (by simp)

@[simp] theorem PortLaw_valvesWindow (s : State)  : PortLaw (valvesWindow s) ↔ PortLaw s := PortLaw_congr (by simp) (by simp)

@[simp] theorem PortLaw_widthUpdate (s : State)  : PortLaw (widthUpdate s) ↔ PortLaw s := PortLaw_congr (by simp) (by simp)

@[simp] theorem PortLaw_feedLoad (s : State)  : PortLaw (feedLoad s) ↔ PortLaw s := PortLaw_congr (by simp) (by simp)

@[simp] theorem PortLaw_State_mapZones (s : State) (f : Fin 12 → ZoneUnit → ZoneUnit) : PortLaw (s.mapZones f) ↔ PortLaw s := PortLaw_congr (by simp) (by simp)

@[simp] theorem PortLaw_outputsOff (s : State)  : PortLaw (outputsOff s) ↔ PortLaw s := PortLaw_congr (by simp) (by simp)

@[simp] theorem PortLaw_startSlice (s : State)  : PortLaw (startSlice s) ↔ PortLaw s := PortLaw_congr (by simp) (by simp)

@[simp] theorem PortLaw_cutGrants (s : State)  : PortLaw (cutGrants s) ↔ PortLaw s := PortLaw_congr (by simp) (by simp)

@[simp] theorem PortLaw_stopHeating (s : State)  : PortLaw (stopHeating s) ↔ PortLaw s := PortLaw_congr (by simp) (by simp)

@[simp] theorem PortLaw_writeResult (s : State) (c : Fin 34) (tag count : Nat) : PortLaw (writeResult s c tag count) ↔ PortLaw s := PortLaw_congr (by simp) (by simp)

@[simp] theorem PortLaw_dutyApplied (s : State) (sd : Side) : PortLaw (dutyApplied sd s) ↔ PortLaw s := PortLaw_congr (by simp) (by simp)

@[simp] theorem PortLaw_capacityApplied (s : State)  : PortLaw (capacityApplied s) ↔ PortLaw s := PortLaw_congr (by simp) (by simp)

@[simp] theorem PortLaw_passTick (s : State)  : PortLaw (passTick s) ↔ PortLaw s := PortLaw_congr (by simp) (by simp)

theorem SettingsLaw_congr {s t : State} (h0 : t.settings = s.settings) (h1 : t.ports = s.ports) : SettingsLaw t ↔ SettingsLaw s := by
  unfold SettingsLaw; simp only [h0, h1]

@[simp] theorem SettingsLaw_withTravel (s : State) (x) : SettingsLaw (s.withTravel x) ↔ SettingsLaw s := Iff.rfl

@[simp] theorem SettingsLaw_withSeq (s : State) (x) : SettingsLaw (s.withSeq x) ↔ SettingsLaw s := Iff.rfl

@[simp] theorem SettingsLaw_withLev (s : State) (x) : SettingsLaw (s.withLev x) ↔ SettingsLaw s := Iff.rfl

@[simp] theorem SettingsLaw_withFeed (s : State) (x) : SettingsLaw (s.withFeed x) ↔ SettingsLaw s := Iff.rfl

@[simp] theorem SettingsLaw_withHeat (s : State) (x) : SettingsLaw (s.withHeat x) ↔ SettingsLaw s := Iff.rfl

@[simp] theorem SettingsLaw_withZones (s : State) (x) : SettingsLaw (s.withZones x) ↔ SettingsLaw s := Iff.rfl

@[simp] theorem SettingsLaw_withScan (s : State) (x) : SettingsLaw (s.withScan x) ↔ SettingsLaw s := Iff.rfl

@[simp] theorem SettingsLaw_withRecord (s : State) (x) : SettingsLaw (s.withRecord x) ↔ SettingsLaw s := Iff.rfl

@[simp] theorem SettingsLaw_withStore (s : State) (x) : SettingsLaw (s.withStore x) ↔ SettingsLaw s := Iff.rfl

@[simp] theorem SettingsLaw_withTimers (s : State) (x) : SettingsLaw (s.withTimers x) ↔ SettingsLaw s := Iff.rfl

@[simp] theorem SettingsLaw_withPins (s : State) (x) : SettingsLaw (s.withPins x) ↔ SettingsLaw s := Iff.rfl

@[simp] theorem SettingsLaw_withNow (s : State) (x) : SettingsLaw (s.withNow x) ↔ SettingsLaw s := Iff.rfl

@[simp] theorem SettingsLaw_withFree (s : State) (x) : SettingsLaw (s.withFree x) ↔ SettingsLaw s := Iff.rfl

@[simp] theorem SettingsLaw_withPending (s : State) (x) : SettingsLaw (s.withPending x) ↔ SettingsLaw s := Iff.rfl

@[simp] theorem SettingsLaw_report (s : State) (f : OpenRecord → OpenRecord) : SettingsLaw (report f s) ↔ SettingsLaw s := SettingsLaw_congr (by simp) (by simp)

@[simp] theorem SettingsLaw_reportFlags (s : State) (f : RecordFlags → RecordFlags) : SettingsLaw (reportFlags f s) ↔ SettingsLaw s := SettingsLaw_congr (by simp) (by simp)

@[simp] theorem SettingsLaw_reportStarved (s : State) (z : ZoneSet) : SettingsLaw (reportStarved z s) ↔ SettingsLaw s := SettingsLaw_congr (by simp) (by simp)

@[simp] theorem SettingsLaw_reportFaulted (s : State) (z : ZoneSet) : SettingsLaw (reportFaulted z s) ↔ SettingsLaw s := SettingsLaw_congr (by simp) (by simp)

@[simp] theorem SettingsLaw_reportTrip (s : State)  : SettingsLaw (reportTrip s) ↔ SettingsLaw s := SettingsLaw_congr (by simp) (by simp)

@[simp] theorem SettingsLaw_State_reach (s : State) (due : Nat) : SettingsLaw (s.reach due) ↔ SettingsLaw s := SettingsLaw_congr (by simp) (by simp)

@[simp] theorem SettingsLaw_State_reachOpt (s : State) (due : Option Nat) : SettingsLaw (s.reachOpt due) ↔ SettingsLaw s := SettingsLaw_congr (by simp) (by simp)

@[simp] theorem SettingsLaw_State_modifySide (s : State) (sd : Side) (f : SideUnit → SideUnit) : SettingsLaw (s.modifySide sd f) ↔ SettingsLaw s := SettingsLaw_congr (by simp) (by simp)

@[simp] theorem SettingsLaw_autoValvesZero (s : State)  : SettingsLaw (autoValvesZero s) ↔ SettingsLaw s := SettingsLaw_congr (by simp) (by simp)

@[simp] theorem SettingsLaw_State_modifyDrive (s : State) (d : Drive) (f : DriveUnit → DriveUnit) : SettingsLaw (s.modifyDrive d f) ↔ SettingsLaw s := SettingsLaw_congr (by simp) (by simp)

@[simp] theorem SettingsLaw_openRecord (s : State)  : SettingsLaw (openRecord s) ↔ SettingsLaw s := SettingsLaw_congr (by simp) (by simp)

@[simp] theorem SettingsLaw_boostZones (s : State) (z : ZoneSet) : SettingsLaw (boostZones z s) ↔ SettingsLaw s := SettingsLaw_congr (by simp) (by simp)

@[simp] theorem SettingsLaw_recordWindow (s : State)  : SettingsLaw (recordWindow s) ↔ SettingsLaw s := SettingsLaw_congr (by simp) (by simp)

@[simp] theorem SettingsLaw_prefillWindow (s : State)  : SettingsLaw (prefillWindow s) ↔ SettingsLaw s := SettingsLaw_congr (by simp) (by simp)

@[simp] theorem SettingsLaw_valvesWindow (s : State)  : SettingsLaw (valvesWindow s) ↔ SettingsLaw s := SettingsLaw_congr (by simp) (by simp)

@[simp] theorem SettingsLaw_widthUpdate (s : State)  : SettingsLaw (widthUpdate s) ↔ SettingsLaw s := SettingsLaw_congr (by simp) (by simp)

@[simp] theorem SettingsLaw_feedLoad (s : State)  : SettingsLaw (feedLoad s) ↔ SettingsLaw s := SettingsLaw_congr (by simp) (by simp)

@[simp] theorem SettingsLaw_State_mapZones (s : State) (f : Fin 12 → ZoneUnit → ZoneUnit) : SettingsLaw (s.mapZones f) ↔ SettingsLaw s := SettingsLaw_congr (by simp) (by simp)

@[simp] theorem SettingsLaw_outputsOff (s : State)  : SettingsLaw (outputsOff s) ↔ SettingsLaw s := SettingsLaw_congr (by simp) (by simp)

@[simp] theorem SettingsLaw_startSlice (s : State)  : SettingsLaw (startSlice s) ↔ SettingsLaw s := SettingsLaw_congr (by simp) (by simp)

@[simp] theorem SettingsLaw_cutGrants (s : State)  : SettingsLaw (cutGrants s) ↔ SettingsLaw s := SettingsLaw_congr (by simp) (by simp)

@[simp] theorem SettingsLaw_stopHeating (s : State)  : SettingsLaw (stopHeating s) ↔ SettingsLaw s := SettingsLaw_congr (by simp) (by simp)

@[simp] theorem SettingsLaw_writeResult (s : State) (c : Fin 34) (tag count : Nat) : SettingsLaw (writeResult s c tag count) ↔ SettingsLaw s := SettingsLaw_congr (by simp) (by simp)

@[simp] theorem SettingsLaw_dutyApplied (s : State) (sd : Side) : SettingsLaw (dutyApplied sd s) ↔ SettingsLaw s := SettingsLaw_congr (by simp) (by simp)

@[simp] theorem SettingsLaw_capacityApplied (s : State)  : SettingsLaw (capacityApplied s) ↔ SettingsLaw s := SettingsLaw_congr (by simp) (by simp)

@[simp] theorem SettingsLaw_passTick (s : State)  : SettingsLaw (passTick s) ↔ SettingsLaw s := SettingsLaw_congr (by simp) (by simp)

theorem TravelLaw_congr {s t : State} (h0 : t.travel = s.travel) : TravelLaw t ↔ TravelLaw s := by
  unfold TravelLaw; simp only [h0]

@[simp] theorem TravelLaw_withSeq (s : State) (x) : TravelLaw (s.withSeq x) ↔ TravelLaw s := Iff.rfl

@[simp] theorem TravelLaw_withLev (s : State) (x) : TravelLaw (s.withLev x) ↔ TravelLaw s := Iff.rfl

@[simp] theorem TravelLaw_withFeed (s : State) (x) : TravelLaw (s.withFeed x) ↔ TravelLaw s := Iff.rfl

@[simp] theorem TravelLaw_withHeat (s : State) (x) : TravelLaw (s.withHeat x) ↔ TravelLaw s := Iff.rfl

@[simp] theorem TravelLaw_withZones (s : State) (x) : TravelLaw (s.withZones x) ↔ TravelLaw s := Iff.rfl

@[simp] theorem TravelLaw_withScan (s : State) (x) : TravelLaw (s.withScan x) ↔ TravelLaw s := Iff.rfl

@[simp] theorem TravelLaw_withRecord (s : State) (x) : TravelLaw (s.withRecord x) ↔ TravelLaw s := Iff.rfl

@[simp] theorem TravelLaw_withStore (s : State) (x) : TravelLaw (s.withStore x) ↔ TravelLaw s := Iff.rfl

@[simp] theorem TravelLaw_withSettings (s : State) (x) : TravelLaw (s.withSettings x) ↔ TravelLaw s := Iff.rfl

@[simp] theorem TravelLaw_withPorts (s : State) (x) : TravelLaw (s.withPorts x) ↔ TravelLaw s := Iff.rfl

@[simp] theorem TravelLaw_withTimers (s : State) (x) : TravelLaw (s.withTimers x) ↔ TravelLaw s := Iff.rfl

@[simp] theorem TravelLaw_withPins (s : State) (x) : TravelLaw (s.withPins x) ↔ TravelLaw s := Iff.rfl

@[simp] theorem TravelLaw_withNow (s : State) (x) : TravelLaw (s.withNow x) ↔ TravelLaw s := Iff.rfl

@[simp] theorem TravelLaw_withFree (s : State) (x) : TravelLaw (s.withFree x) ↔ TravelLaw s := Iff.rfl

@[simp] theorem TravelLaw_withPending (s : State) (x) : TravelLaw (s.withPending x) ↔ TravelLaw s := Iff.rfl

@[simp] theorem TravelLaw_raiseOn (s : State) (on : Port → Bool) (k : AlertKind) : TravelLaw (raiseOn on k s) ↔ TravelLaw s := TravelLaw_congr (by simp)

@[simp] theorem TravelLaw_raiseAll (s : State) (k : AlertKind) : TravelLaw (raiseAll k s) ↔ TravelLaw s := TravelLaw_congr (by simp)

@[simp] theorem TravelLaw_raiseOthers (s : State) (p : Port) (k : AlertKind) : TravelLaw (raiseOthers p k s) ↔ TravelLaw s := TravelLaw_congr (by simp)

@[simp] theorem TravelLaw_raiseAllIf (s : State) (c : Bool) (k : AlertKind) : TravelLaw (raiseAllIf c k s) ↔ TravelLaw s := TravelLaw_congr (by simp)

@[simp] theorem TravelLaw_report (s : State) (f : OpenRecord → OpenRecord) : TravelLaw (report f s) ↔ TravelLaw s := TravelLaw_congr (by simp)

@[simp] theorem TravelLaw_reportFlags (s : State) (f : RecordFlags → RecordFlags) : TravelLaw (reportFlags f s) ↔ TravelLaw s := TravelLaw_congr (by simp)

@[simp] theorem TravelLaw_reportStarved (s : State) (z : ZoneSet) : TravelLaw (reportStarved z s) ↔ TravelLaw s := TravelLaw_congr (by simp)

@[simp] theorem TravelLaw_reportFaulted (s : State) (z : ZoneSet) : TravelLaw (reportFaulted z s) ↔ TravelLaw s := TravelLaw_congr (by simp)

@[simp] theorem TravelLaw_reportTrip (s : State)  : TravelLaw (reportTrip s) ↔ TravelLaw s := TravelLaw_congr (by simp)

@[simp] theorem TravelLaw_State_reach (s : State) (due : Nat) : TravelLaw (s.reach due) ↔ TravelLaw s := TravelLaw_congr (by simp)

@[simp] theorem TravelLaw_State_reachOpt (s : State) (due : Option Nat) : TravelLaw (s.reachOpt due) ↔ TravelLaw s := TravelLaw_congr (by simp)

@[simp] theorem TravelLaw_State_modifyPort (s : State) (p : Port) (f : PortState → PortState) : TravelLaw (s.modifyPort p f) ↔ TravelLaw s := TravelLaw_congr (by simp)

@[simp] theorem TravelLaw_heard (s : State) (p : Port) : TravelLaw (heard p s) ↔ TravelLaw s := TravelLaw_congr (by simp)

@[simp] theorem TravelLaw_takeRequest (s : State) (p : Port) : TravelLaw (takeRequest p s) ↔ TravelLaw s := TravelLaw_congr (by simp)

@[simp] theorem TravelLaw_answer (s : State) (p : Port) (a : Answer) : TravelLaw (answer p a s) ↔ TravelLaw s := TravelLaw_congr (by simp)

@[simp] theorem TravelLaw_answerCode (s : State) (p : Port) (c : AnswerCode) : TravelLaw (answerCode p c s) ↔ TravelLaw s := TravelLaw_congr (by simp)

@[simp] theorem TravelLaw_State_modifySide (s : State) (sd : Side) (f : SideUnit → SideUnit) : TravelLaw (s.modifySide sd f) ↔ TravelLaw s := TravelLaw_congr (by simp)

@[simp] theorem TravelLaw_dropSide (s : State) (sd : Side) : TravelLaw (dropSide sd s) ↔ TravelLaw s := TravelLaw_congr (by simp)

@[simp] theorem TravelLaw_dropSideAndJog (s : State) (sd : Side) : TravelLaw (dropSideAndJog sd s) ↔ TravelLaw s := TravelLaw_congr (by simp)

@[simp] theorem TravelLaw_autoValvesZero (s : State)  : TravelLaw (autoValvesZero s) ↔ TravelLaw s := TravelLaw_congr (by simp)

@[simp] theorem TravelLaw_State_modifyDrive (s : State) (d : Drive) (f : DriveUnit → DriveUnit) : TravelLaw (s.modifyDrive d f) ↔ TravelLaw s := TravelLaw_congr (by simp)

@[simp] theorem TravelLaw_fetchFromD (s : State)  : TravelLaw (fetchFromD s) ↔ TravelLaw s := TravelLaw_congr (by simp)

@[simp] theorem TravelLaw_releaseFromD (s : State) (n : Nat) : TravelLaw (releaseFromD n s) ↔ TravelLaw s := TravelLaw_congr (by simp)

@[simp] theorem TravelLaw_openRecord (s : State)  : TravelLaw (openRecord s) ↔ TravelLaw s := TravelLaw_congr (by simp)

@[simp] theorem TravelLaw_boostZones (s : State) (z : ZoneSet) : TravelLaw (boostZones z s) ↔ TravelLaw s := TravelLaw_congr (by simp)

@[simp] theorem TravelLaw_storeRecord (s : State) (h : Header) (pause : Nat) (columns : List Word) : TravelLaw ((storeRecord h pause columns s).1) ↔ TravelLaw s := TravelLaw_congr (by simp)

@[simp] theorem TravelLaw_closeRecord (s : State) (partialClose restartClose : Bool) : TravelLaw (closeRecord partialClose restartClose s) ↔ TravelLaw s := TravelLaw_congr (by simp)

@[simp] theorem TravelLaw_closeByStep (s : State)  : TravelLaw (closeByStep s) ↔ TravelLaw s := TravelLaw_congr (by simp)

@[simp] theorem TravelLaw_recordWindow (s : State)  : TravelLaw (recordWindow s) ↔ TravelLaw s := TravelLaw_congr (by simp)

@[simp] theorem TravelLaw_prefillWindow (s : State)  : TravelLaw (prefillWindow s) ↔ TravelLaw s := TravelLaw_congr (by simp)

@[simp] theorem TravelLaw_valvesWindow (s : State)  : TravelLaw (valvesWindow s) ↔ TravelLaw s := TravelLaw_congr (by simp)

@[simp] theorem TravelLaw_sampleSide (s : State) (sd : Side) : TravelLaw (sampleSide sd s) ↔ TravelLaw s := TravelLaw_congr (by simp)

@[simp] theorem TravelLaw_levellingRound (s : State)  : TravelLaw (levellingRound s) ↔ TravelLaw s := TravelLaw_congr (by simp)

@[simp] theorem TravelLaw_engageSide (s : State) (p : Port) (sd : Side) : TravelLaw (engageSide p sd s) ↔ TravelLaw s := TravelLaw_congr (by simp)

@[simp] theorem TravelLaw_disengageSide (s : State) (p : Port) (sd : Side) : TravelLaw (disengageSide p sd s) ↔ TravelLaw s := TravelLaw_congr (by simp)

@[simp] theorem TravelLaw_setZeroSide (s : State) (p : Port) (sd : Side) : TravelLaw (setZeroSide p sd s) ↔ TravelLaw s := TravelLaw_congr (by simp)

@[simp] theorem TravelLaw_jogSide (s : State) (p : Port) (dir : Direction) (duty : Word) (sd : Side) : TravelLaw (jogSide p dir duty sd s) ↔ TravelLaw s := TravelLaw_congr (by simp)

@[simp] theorem TravelLaw_feedTick (s : State)  : TravelLaw (feedTick s) ↔ TravelLaw s := TravelLaw_congr (by simp)

@[simp] theorem TravelLaw_feedLoad (s : State)  : TravelLaw (feedLoad s) ↔ TravelLaw s := TravelLaw_congr (by simp)

@[simp] theorem TravelLaw_feedRound (s : State)  : TravelLaw (feedRound s) ↔ TravelLaw s := TravelLaw_congr (by simp)

@[simp] theorem TravelLaw_clearDrive (s : State) (p : Port) (d : Drive) : TravelLaw (clearDrive p d s) ↔ TravelLaw s := TravelLaw_congr (by simp)

@[simp] theorem TravelLaw_State_mapZones (s : State) (f : Fin 12 → ZoneUnit → ZoneUnit) : TravelLaw (s.mapZones f) ↔ TravelLaw s := TravelLaw_congr (by simp)

@[simp] theorem TravelLaw_closeCycle (s : State)  : TravelLaw (closeCycle s) ↔ TravelLaw s := TravelLaw_congr (by simp)

@[simp] theorem TravelLaw_cycleStart (s : State) (closes : Bool) : TravelLaw (cycleStart closes s) ↔ TravelLaw s := TravelLaw_congr (by simp)

@[simp] theorem TravelLaw_outputsOff (s : State)  : TravelLaw (outputsOff s) ↔ TravelLaw s := TravelLaw_congr (by simp)

@[simp] theorem TravelLaw_clearZone (s : State) (p : Port) (k : Fin 12) : TravelLaw (clearZone p k s) ↔ TravelLaw s := TravelLaw_congr (by simp)

@[simp] theorem TravelLaw_startSlice (s : State)  : TravelLaw (startSlice s) ↔ TravelLaw s := TravelLaw_congr (by simp)

@[simp] theorem TravelLaw_cycleBoundary (s : State) (closes : Bool) : TravelLaw (cycleBoundary closes s) ↔ TravelLaw s := TravelLaw_congr (by simp)

@[simp] theorem TravelLaw_startHeating (s : State)  : TravelLaw (startHeating s) ↔ TravelLaw s := TravelLaw_congr (by simp)

@[simp] theorem TravelLaw_cutGrants (s : State)  : TravelLaw (cutGrants s) ↔ TravelLaw s := TravelLaw_congr (by simp)

@[simp] theorem TravelLaw_stopHeating (s : State)  : TravelLaw (stopHeating s) ↔ TravelLaw s := TravelLaw_congr (by simp)

@[simp] theorem TravelLaw_restartHeating (s : State)  : TravelLaw (restartHeating s) ↔ TravelLaw s := TravelLaw_congr (by simp)

@[simp] theorem TravelLaw_tripRunning (s : State)  : TravelLaw (tripRunning s) ↔ TravelLaw s := TravelLaw_congr (by simp)

@[simp] theorem TravelLaw_slowRound (s : State)  : TravelLaw (slowRound s) ↔ TravelLaw s := TravelLaw_congr (by simp)

@[simp] theorem TravelLaw_writeResult (s : State) (c : Fin 34) (tag count : Nat) : TravelLaw (writeResult s c tag count) ↔ TravelLaw s := TravelLaw_congr (by simp)

@[simp] theorem TravelLaw_postEntry (s : State) (p : Port) (e : PostEntry) : TravelLaw (postEntry p e s) ↔ TravelLaw s := TravelLaw_congr (by simp)

@[simp] theorem TravelLaw_refModeApplied (s : State) (sd : Side) (old : RefMode) : TravelLaw (refModeApplied sd old s) ↔ TravelLaw s := TravelLaw_congr (by simp)

@[simp] theorem TravelLaw_dutyApplied (s : State) (sd : Side) : TravelLaw (dutyApplied sd s) ↔ TravelLaw s := TravelLaw_congr (by simp)

@[simp] theorem TravelLaw_capacityApplied (s : State)  : TravelLaw (capacityApplied s) ↔ TravelLaw s := TravelLaw_congr (by simp)

@[simp] theorem TravelLaw_changeToTravel (s : State) (old : Mode) : TravelLaw (changeToTravel old s) ↔ TravelLaw s := TravelLaw_congr (by simp)

@[simp] theorem TravelLaw_leavePave (s : State)  : TravelLaw (leavePave s) ↔ TravelLaw s := TravelLaw_congr (by simp)

@[simp] theorem TravelLaw_modeChanged (s : State) (old : Mode) : TravelLaw (modeChanged old s) ↔ TravelLaw s := TravelLaw_congr (by simp)

@[simp] theorem TravelLaw_modeApplied (s : State) (old : Mode) : TravelLaw (modeApplied old s) ↔ TravelLaw s := TravelLaw_congr (by simp)

@[simp] theorem TravelLaw_settingApplied (s : State) (st : Setting) (old : Settings) : TravelLaw (settingApplied st old s) ↔ TravelLaw s := TravelLaw_congr (by simp)

@[simp] theorem TravelLaw_storeSetting (s : State) (st : Setting) (v : Word) : TravelLaw (storeSetting st v s) ↔ TravelLaw s := TravelLaw_congr (by simp)

@[simp] theorem TravelLaw_popEntry (s : State) (p : Port) (rest : List PostEntry) : TravelLaw (popEntry p rest s) ↔ TravelLaw s := TravelLaw_congr (by simp)

@[simp] theorem TravelLaw_applyEntry (s : State) (p : Port) (e : PostEntry) : TravelLaw (applyEntry p e s) ↔ TravelLaw s := TravelLaw_congr (by simp)

@[simp] theorem TravelLaw_rejectEntry (s : State) (p : Port) (e : PostEntry) : TravelLaw (rejectEntry p e s) ↔ TravelLaw s := TravelLaw_congr (by simp)

@[simp] theorem TravelLaw_goAbsent (s : State) (p : Port) : TravelLaw (goAbsent p s) ↔ TravelLaw s := TravelLaw_congr (by simp)

@[simp] theorem TravelLaw_restartLevelling (s : State)  : TravelLaw (restartLevelling s) ↔ TravelLaw s := TravelLaw_congr (by simp)

@[simp] theorem TravelLaw_passTick (s : State)  : TravelLaw (passTick s) ↔ TravelLaw s := TravelLaw_congr (by simp)

theorem SequencerLaw_congr {s t : State} (h0 : t.seq = s.seq) : SequencerLaw t ↔ SequencerLaw s := by
  unfold SequencerLaw; simp only [h0]

@[simp] theorem SequencerLaw_withTravel (s : State) (x) : SequencerLaw (s.withTravel x) ↔ SequencerLaw s := Iff.rfl

@[simp] theorem SequencerLaw_withLev (s : State) (x) : SequencerLaw (s.withLev x) ↔ SequencerLaw s := Iff.rfl

@[simp] theorem SequencerLaw_withFeed (s : State) (x) : SequencerLaw (s.withFeed x) ↔ SequencerLaw s := Iff.rfl

@[simp] theorem SequencerLaw_withHeat (s : State) (x) : SequencerLaw (s.withHeat x) ↔ SequencerLaw s := Iff.rfl

@[simp] theorem SequencerLaw_withZones (s : State) (x) : SequencerLaw (s.withZones x) ↔ SequencerLaw s := Iff.rfl

@[simp] theorem SequencerLaw_withScan (s : State) (x) : SequencerLaw (s.withScan x) ↔ SequencerLaw s := Iff.rfl

@[simp] theorem SequencerLaw_withRecord (s : State) (x) : SequencerLaw (s.withRecord x) ↔ SequencerLaw s := Iff.rfl

@[simp] theorem SequencerLaw_withStore (s : State) (x) : SequencerLaw (s.withStore x) ↔ SequencerLaw s := Iff.rfl

@[simp] theorem SequencerLaw_withSettings (s : State) (x) : SequencerLaw (s.withSettings x) ↔ SequencerLaw s := Iff.rfl

@[simp] theorem SequencerLaw_withPorts (s : State) (x) : SequencerLaw (s.withPorts x) ↔ SequencerLaw s := Iff.rfl

@[simp] theorem SequencerLaw_withTimers (s : State) (x) : SequencerLaw (s.withTimers x) ↔ SequencerLaw s := Iff.rfl

@[simp] theorem SequencerLaw_withPins (s : State) (x) : SequencerLaw (s.withPins x) ↔ SequencerLaw s := Iff.rfl

@[simp] theorem SequencerLaw_withNow (s : State) (x) : SequencerLaw (s.withNow x) ↔ SequencerLaw s := Iff.rfl

@[simp] theorem SequencerLaw_withFree (s : State) (x) : SequencerLaw (s.withFree x) ↔ SequencerLaw s := Iff.rfl

@[simp] theorem SequencerLaw_withPending (s : State) (x) : SequencerLaw (s.withPending x) ↔ SequencerLaw s := Iff.rfl

@[simp] theorem SequencerLaw_raiseOn (s : State) (on : Port → Bool) (k : AlertKind) : SequencerLaw (raiseOn on k s) ↔ SequencerLaw s := SequencerLaw_congr (by simp)

@[simp] theorem SequencerLaw_raiseAll (s : State) (k : AlertKind) : SequencerLaw (raiseAll k s) ↔ SequencerLaw s := SequencerLaw_congr (by simp)

@[simp] theorem SequencerLaw_raiseOthers (s : State) (p : Port) (k : AlertKind) : SequencerLaw (raiseOthers p k s) ↔ SequencerLaw s := SequencerLaw_congr (by simp)

@[simp] theorem SequencerLaw_raiseAllIf (s : State) (c : Bool) (k : AlertKind) : SequencerLaw (raiseAllIf c k s) ↔ SequencerLaw s := SequencerLaw_congr (by simp)

@[simp] theorem SequencerLaw_report (s : State) (f : OpenRecord → OpenRecord) : SequencerLaw (report f s) ↔ SequencerLaw s := SequencerLaw_congr (by simp)

@[simp] theorem SequencerLaw_reportFlags (s : State) (f : RecordFlags → RecordFlags) : SequencerLaw (reportFlags f s) ↔ SequencerLaw s := SequencerLaw_congr (by simp)

@[simp] theorem SequencerLaw_reportStarved (s : State) (z : ZoneSet) : SequencerLaw (reportStarved z s) ↔ SequencerLaw s := SequencerLaw_congr (by simp)

@[simp] theorem SequencerLaw_reportFaulted (s : State) (z : ZoneSet) : SequencerLaw (reportFaulted z s) ↔ SequencerLaw s := SequencerLaw_congr (by simp)

@[simp] theorem SequencerLaw_reportTrip (s : State)  : SequencerLaw (reportTrip s) ↔ SequencerLaw s := SequencerLaw_congr (by simp)

@[simp] theorem SequencerLaw_State_reach (s : State) (due : Nat) : SequencerLaw (s.reach due) ↔ SequencerLaw s := SequencerLaw_congr (by simp)

@[simp] theorem SequencerLaw_State_reachOpt (s : State) (due : Option Nat) : SequencerLaw (s.reachOpt due) ↔ SequencerLaw s := SequencerLaw_congr (by simp)

@[simp] theorem SequencerLaw_State_modifyPort (s : State) (p : Port) (f : PortState → PortState) : SequencerLaw (s.modifyPort p f) ↔ SequencerLaw s := SequencerLaw_congr (by simp)

@[simp] theorem SequencerLaw_heard (s : State) (p : Port) : SequencerLaw (heard p s) ↔ SequencerLaw s := SequencerLaw_congr (by simp)

@[simp] theorem SequencerLaw_takeRequest (s : State) (p : Port) : SequencerLaw (takeRequest p s) ↔ SequencerLaw s := SequencerLaw_congr (by simp)

@[simp] theorem SequencerLaw_answer (s : State) (p : Port) (a : Answer) : SequencerLaw (answer p a s) ↔ SequencerLaw s := SequencerLaw_congr (by simp)

@[simp] theorem SequencerLaw_answerCode (s : State) (p : Port) (c : AnswerCode) : SequencerLaw (answerCode p c s) ↔ SequencerLaw s := SequencerLaw_congr (by simp)

@[simp] theorem SequencerLaw_State_modifySide (s : State) (sd : Side) (f : SideUnit → SideUnit) : SequencerLaw (s.modifySide sd f) ↔ SequencerLaw s := SequencerLaw_congr (by simp)

@[simp] theorem SequencerLaw_dropSide (s : State) (sd : Side) : SequencerLaw (dropSide sd s) ↔ SequencerLaw s := SequencerLaw_congr (by simp)

@[simp] theorem SequencerLaw_dropSideAndJog (s : State) (sd : Side) : SequencerLaw (dropSideAndJog sd s) ↔ SequencerLaw s := SequencerLaw_congr (by simp)

@[simp] theorem SequencerLaw_autoValvesZero (s : State)  : SequencerLaw (autoValvesZero s) ↔ SequencerLaw s := SequencerLaw_congr (by simp)

@[simp] theorem SequencerLaw_State_modifyDrive (s : State) (d : Drive) (f : DriveUnit → DriveUnit) : SequencerLaw (s.modifyDrive d f) ↔ SequencerLaw s := SequencerLaw_congr (by simp)

@[simp] theorem SequencerLaw_fetchFromD (s : State)  : SequencerLaw (fetchFromD s) ↔ SequencerLaw s := SequencerLaw_congr (by simp)

@[simp] theorem SequencerLaw_releaseFromD (s : State) (n : Nat) : SequencerLaw (releaseFromD n s) ↔ SequencerLaw s := SequencerLaw_congr (by simp)

@[simp] theorem SequencerLaw_openRecord (s : State)  : SequencerLaw (openRecord s) ↔ SequencerLaw s := SequencerLaw_congr (by simp)

@[simp] theorem SequencerLaw_boostZones (s : State) (z : ZoneSet) : SequencerLaw (boostZones z s) ↔ SequencerLaw s := SequencerLaw_congr (by simp)

@[simp] theorem SequencerLaw_storeRecord (s : State) (h : Header) (pause : Nat) (columns : List Word) : SequencerLaw ((storeRecord h pause columns s).1) ↔ SequencerLaw s := SequencerLaw_congr (by simp)

@[simp] theorem SequencerLaw_closeRecord (s : State) (partialClose restartClose : Bool) : SequencerLaw (closeRecord partialClose restartClose s) ↔ SequencerLaw s := SequencerLaw_congr (by simp)

@[simp] theorem SequencerLaw_closeByStep (s : State)  : SequencerLaw (closeByStep s) ↔ SequencerLaw s := SequencerLaw_congr (by simp)

@[simp] theorem SequencerLaw_recordWindow (s : State)  : SequencerLaw (recordWindow s) ↔ SequencerLaw s := SequencerLaw_congr (by simp)

@[simp] theorem SequencerLaw_prefillWindow (s : State)  : SequencerLaw (prefillWindow s) ↔ SequencerLaw s := SequencerLaw_congr (by simp)

@[simp] theorem SequencerLaw_valvesWindow (s : State)  : SequencerLaw (valvesWindow s) ↔ SequencerLaw s := SequencerLaw_congr (by simp)

@[simp] theorem SequencerLaw_widthUpdate (s : State)  : SequencerLaw (widthUpdate s) ↔ SequencerLaw s := SequencerLaw_congr (by simp)

@[simp] theorem SequencerLaw_sampleSide (s : State) (sd : Side) : SequencerLaw (sampleSide sd s) ↔ SequencerLaw s := SequencerLaw_congr (by simp)

@[simp] theorem SequencerLaw_levellingRound (s : State)  : SequencerLaw (levellingRound s) ↔ SequencerLaw s := SequencerLaw_congr (by simp)

@[simp] theorem SequencerLaw_engageSide (s : State) (p : Port) (sd : Side) : SequencerLaw (engageSide p sd s) ↔ SequencerLaw s := SequencerLaw_congr (by simp)

@[simp] theorem SequencerLaw_disengageSide (s : State) (p : Port) (sd : Side) : SequencerLaw (disengageSide p sd s) ↔ SequencerLaw s := SequencerLaw_congr (by simp)

@[simp] theorem SequencerLaw_setZeroSide (s : State) (p : Port) (sd : Side) : SequencerLaw (setZeroSide p sd s) ↔ SequencerLaw s := SequencerLaw_congr (by simp)

@[simp] theorem SequencerLaw_jogSide (s : State) (p : Port) (dir : Direction) (duty : Word) (sd : Side) : SequencerLaw (jogSide p dir duty sd s) ↔ SequencerLaw s := SequencerLaw_congr (by simp)

@[simp] theorem SequencerLaw_feedTick (s : State)  : SequencerLaw (feedTick s) ↔ SequencerLaw s := SequencerLaw_congr (by simp)

@[simp] theorem SequencerLaw_feedLoad (s : State)  : SequencerLaw (feedLoad s) ↔ SequencerLaw s := SequencerLaw_congr (by simp)

@[simp] theorem SequencerLaw_feedRound (s : State)  : SequencerLaw (feedRound s) ↔ SequencerLaw s := SequencerLaw_congr (by simp)

@[simp] theorem SequencerLaw_clearDrive (s : State) (p : Port) (d : Drive) : SequencerLaw (clearDrive p d s) ↔ SequencerLaw s := SequencerLaw_congr (by simp)

@[simp] theorem SequencerLaw_State_mapZones (s : State) (f : Fin 12 → ZoneUnit → ZoneUnit) : SequencerLaw (s.mapZones f) ↔ SequencerLaw s := SequencerLaw_congr (by simp)

@[simp] theorem SequencerLaw_closeCycle (s : State)  : SequencerLaw (closeCycle s) ↔ SequencerLaw s := SequencerLaw_congr (by simp)

@[simp] theorem SequencerLaw_cycleStart (s : State) (closes : Bool) : SequencerLaw (cycleStart closes s) ↔ SequencerLaw s := SequencerLaw_congr (by simp)

@[simp] theorem SequencerLaw_outputsOff (s : State)  : SequencerLaw (outputsOff s) ↔ SequencerLaw s := SequencerLaw_congr (by simp)

@[simp] theorem SequencerLaw_clearZone (s : State) (p : Port) (k : Fin 12) : SequencerLaw (clearZone p k s) ↔ SequencerLaw s := SequencerLaw_congr (by simp)

@[simp] theorem SequencerLaw_startSlice (s : State)  : SequencerLaw (startSlice s) ↔ SequencerLaw s := SequencerLaw_congr (by simp)

@[simp] theorem SequencerLaw_cycleBoundary (s : State) (closes : Bool) : SequencerLaw (cycleBoundary closes s) ↔ SequencerLaw s := SequencerLaw_congr (by simp)

@[simp] theorem SequencerLaw_startHeating (s : State)  : SequencerLaw (startHeating s) ↔ SequencerLaw s := SequencerLaw_congr (by simp)

@[simp] theorem SequencerLaw_cutGrants (s : State)  : SequencerLaw (cutGrants s) ↔ SequencerLaw s := SequencerLaw_congr (by simp)

@[simp] theorem SequencerLaw_stopHeating (s : State)  : SequencerLaw (stopHeating s) ↔ SequencerLaw s := SequencerLaw_congr (by simp)

@[simp] theorem SequencerLaw_restartHeating (s : State)  : SequencerLaw (restartHeating s) ↔ SequencerLaw s := SequencerLaw_congr (by simp)

@[simp] theorem SequencerLaw_tripRunning (s : State)  : SequencerLaw (tripRunning s) ↔ SequencerLaw s := SequencerLaw_congr (by simp)

@[simp] theorem SequencerLaw_mediumRound (s : State)  : SequencerLaw (mediumRound s) ↔ SequencerLaw s := SequencerLaw_congr (by simp)

@[simp] theorem SequencerLaw_postEntry (s : State) (p : Port) (e : PostEntry) : SequencerLaw (postEntry p e s) ↔ SequencerLaw s := SequencerLaw_congr (by simp)

@[simp] theorem SequencerLaw_refModeApplied (s : State) (sd : Side) (old : RefMode) : SequencerLaw (refModeApplied sd old s) ↔ SequencerLaw s := SequencerLaw_congr (by simp)

@[simp] theorem SequencerLaw_dutyApplied (s : State) (sd : Side) : SequencerLaw (dutyApplied sd s) ↔ SequencerLaw s := SequencerLaw_congr (by simp)

@[simp] theorem SequencerLaw_capacityApplied (s : State)  : SequencerLaw (capacityApplied s) ↔ SequencerLaw s := SequencerLaw_congr (by simp)

@[simp] theorem SequencerLaw_changeToTravel (s : State) (old : Mode) : SequencerLaw (changeToTravel old s) ↔ SequencerLaw s := SequencerLaw_congr (by simp)

@[simp] theorem SequencerLaw_leavePave (s : State)  : SequencerLaw (leavePave s) ↔ SequencerLaw s := SequencerLaw_congr (by simp)

@[simp] theorem SequencerLaw_modeChanged (s : State) (old : Mode) : SequencerLaw (modeChanged old s) ↔ SequencerLaw s := SequencerLaw_congr (by simp)

@[simp] theorem SequencerLaw_modeApplied (s : State) (old : Mode) : SequencerLaw (modeApplied old s) ↔ SequencerLaw s := SequencerLaw_congr (by simp)

@[simp] theorem SequencerLaw_settingApplied (s : State) (st : Setting) (old : Settings) : SequencerLaw (settingApplied st old s) ↔ SequencerLaw s := SequencerLaw_congr (by simp)

@[simp] theorem SequencerLaw_storeSetting (s : State) (st : Setting) (v : Word) : SequencerLaw (storeSetting st v s) ↔ SequencerLaw s := SequencerLaw_congr (by simp)

@[simp] theorem SequencerLaw_popEntry (s : State) (p : Port) (rest : List PostEntry) : SequencerLaw (popEntry p rest s) ↔ SequencerLaw s := SequencerLaw_congr (by simp)

@[simp] theorem SequencerLaw_applyEntry (s : State) (p : Port) (e : PostEntry) : SequencerLaw (applyEntry p e s) ↔ SequencerLaw s := SequencerLaw_congr (by simp)

@[simp] theorem SequencerLaw_rejectEntry (s : State) (p : Port) (e : PostEntry) : SequencerLaw (rejectEntry p e s) ↔ SequencerLaw s := SequencerLaw_congr (by simp)

@[simp] theorem SequencerLaw_goAbsent (s : State) (p : Port) : SequencerLaw (goAbsent p s) ↔ SequencerLaw s := SequencerLaw_congr (by simp)

@[simp] theorem SequencerLaw_restartLevelling (s : State)  : SequencerLaw (restartLevelling s) ↔ SequencerLaw s := SequencerLaw_congr (by simp)

@[simp] theorem SequencerLaw_passTick (s : State)  : SequencerLaw (passTick s) ↔ SequencerLaw s := SequencerLaw_congr (by simp)

theorem LevellingLaw_congr {s t : State} (h0 : t.lev = s.lev) (h1 : t.settings = s.settings) (h2 : t.travel = s.travel) : LevellingLaw t ↔ LevellingLaw s := by
  unfold LevellingLaw; simp only [h0, h1, h2]

@[simp] theorem LevellingLaw_withSeq (s : State) (x) : LevellingLaw (s.withSeq x) ↔ LevellingLaw s := Iff.rfl

@[simp] theorem LevellingLaw_withFeed (s : State) (x) : LevellingLaw (s.withFeed x) ↔ LevellingLaw s := Iff.rfl

@[simp] theorem LevellingLaw_withHeat (s : State) (x) : LevellingLaw (s.withHeat x) ↔ LevellingLaw s := Iff.rfl

@[simp] theorem LevellingLaw_withZones (s : State) (x) : LevellingLaw (s.withZones x) ↔ LevellingLaw s := Iff.rfl

@[simp] theorem LevellingLaw_withScan (s : State) (x) : LevellingLaw (s.withScan x) ↔ LevellingLaw s := Iff.rfl

@[simp] theorem LevellingLaw_withRecord (s : State) (x) : LevellingLaw (s.withRecord x) ↔ LevellingLaw s := Iff.rfl

@[simp] theorem LevellingLaw_withStore (s : State) (x) : LevellingLaw (s.withStore x) ↔ LevellingLaw s := Iff.rfl

@[simp] theorem LevellingLaw_withPorts (s : State) (x) : LevellingLaw (s.withPorts x) ↔ LevellingLaw s := Iff.rfl

@[simp] theorem LevellingLaw_withTimers (s : State) (x) : LevellingLaw (s.withTimers x) ↔ LevellingLaw s := Iff.rfl

@[simp] theorem LevellingLaw_withPins (s : State) (x) : LevellingLaw (s.withPins x) ↔ LevellingLaw s := Iff.rfl

@[simp] theorem LevellingLaw_withNow (s : State) (x) : LevellingLaw (s.withNow x) ↔ LevellingLaw s := Iff.rfl

@[simp] theorem LevellingLaw_withFree (s : State) (x) : LevellingLaw (s.withFree x) ↔ LevellingLaw s := Iff.rfl

@[simp] theorem LevellingLaw_withPending (s : State) (x) : LevellingLaw (s.withPending x) ↔ LevellingLaw s := Iff.rfl

@[simp] theorem LevellingLaw_raiseOn (s : State) (on : Port → Bool) (k : AlertKind) : LevellingLaw (raiseOn on k s) ↔ LevellingLaw s := LevellingLaw_congr (by simp) (by simp) (by simp)

@[simp] theorem LevellingLaw_raiseAll (s : State) (k : AlertKind) : LevellingLaw (raiseAll k s) ↔ LevellingLaw s := LevellingLaw_congr (by simp) (by simp) (by simp)

@[simp] theorem LevellingLaw_raiseOthers (s : State) (p : Port) (k : AlertKind) : LevellingLaw (raiseOthers p k s) ↔ LevellingLaw s := LevellingLaw_congr (by simp) (by simp) (by simp)

@[simp] theorem LevellingLaw_raiseAllIf (s : State) (c : Bool) (k : AlertKind) : LevellingLaw (raiseAllIf c k s) ↔ LevellingLaw s := LevellingLaw_congr (by simp) (by simp) (by simp)

@[simp] theorem LevellingLaw_report (s : State) (f : OpenRecord → OpenRecord) : LevellingLaw (report f s) ↔ LevellingLaw s := LevellingLaw_congr (by simp) (by simp) (by simp)

@[simp] theorem LevellingLaw_reportFlags (s : State) (f : RecordFlags → RecordFlags) : LevellingLaw (reportFlags f s) ↔ LevellingLaw s := LevellingLaw_congr (by simp) (by simp) (by simp)

@[simp] theorem LevellingLaw_reportStarved (s : State) (z : ZoneSet) : LevellingLaw (reportStarved z s) ↔ LevellingLaw s := LevellingLaw_congr (by simp) (by simp) (by simp)

@[simp] theorem LevellingLaw_reportFaulted (s : State) (z : ZoneSet) : LevellingLaw (reportFaulted z s) ↔ LevellingLaw s := LevellingLaw_congr (by simp) (by simp) (by simp)

@[simp] theorem LevellingLaw_reportTrip (s : State)  : LevellingLaw (reportTrip s) ↔ LevellingLaw s := LevellingLaw_congr (by simp) (by simp) (by simp)

@[simp] theorem LevellingLaw_State_reach (s : State) (due : Nat) : LevellingLaw (s.reach due) ↔ LevellingLaw s := LevellingLaw_congr (by simp) (by simp) (by simp)

@[simp] theorem LevellingLaw_State_reachOpt (s : State) (due : Option Nat) : LevellingLaw (s.reachOpt due) ↔ LevellingLaw s := LevellingLaw_congr (by simp) (by simp) (by simp)

@[simp] theorem LevellingLaw_State_modifyPort (s : State) (p : Port) (f : PortState → PortState) : LevellingLaw (s.modifyPort p f) ↔ LevellingLaw s := LevellingLaw_congr (by simp) (by simp) (by simp)

@[simp] theorem LevellingLaw_heard (s : State) (p : Port) : LevellingLaw (heard p s) ↔ LevellingLaw s := LevellingLaw_congr (by simp) (by simp) (by simp)

@[simp] theorem LevellingLaw_takeRequest (s : State) (p : Port) : LevellingLaw (takeRequest p s) ↔ LevellingLaw s := LevellingLaw_congr (by simp) (by simp) (by simp)

@[simp] theorem LevellingLaw_answer (s : State) (p : Port) (a : Answer) : LevellingLaw (answer p a s) ↔ LevellingLaw s := LevellingLaw_congr (by simp) (by simp) (by simp)

@[simp] theorem LevellingLaw_answerCode (s : State) (p : Port) (c : AnswerCode) : LevellingLaw (answerCode p c s) ↔ LevellingLaw s := LevellingLaw_congr (by simp) (by simp) (by simp)

@[simp] theorem LevellingLaw_State_modifyDrive (s : State) (d : Drive) (f : DriveUnit → DriveUnit) : LevellingLaw (s.modifyDrive d f) ↔ LevellingLaw s := LevellingLaw_congr (by simp) (by simp) (by simp)

@[simp] theorem LevellingLaw_fetchFromD (s : State)  : LevellingLaw (fetchFromD s) ↔ LevellingLaw s := LevellingLaw_congr (by simp) (by simp) (by simp)

@[simp] theorem LevellingLaw_releaseFromD (s : State) (n : Nat) : LevellingLaw (releaseFromD n s) ↔ LevellingLaw s := LevellingLaw_congr (by simp) (by simp) (by simp)

@[simp] theorem LevellingLaw_boostZones (s : State) (z : ZoneSet) : LevellingLaw (boostZones z s) ↔ LevellingLaw s := LevellingLaw_congr (by simp) (by simp) (by simp)

@[simp] theorem LevellingLaw_storeRecord (s : State) (h : Header) (pause : Nat) (columns : List Word) : LevellingLaw ((storeRecord h pause columns s).1) ↔ LevellingLaw s := LevellingLaw_congr (by simp) (by simp) (by simp)

@[simp] theorem LevellingLaw_closeRecord (s : State) (partialClose restartClose : Bool) : LevellingLaw (closeRecord partialClose restartClose s) ↔ LevellingLaw s := LevellingLaw_congr (by simp) (by simp) (by simp)

@[simp] theorem LevellingLaw_prefillWindow (s : State)  : LevellingLaw (prefillWindow s) ↔ LevellingLaw s := LevellingLaw_congr (by simp) (by simp) (by simp)

@[simp] theorem LevellingLaw_feedTick (s : State)  : LevellingLaw (feedTick s) ↔ LevellingLaw s := LevellingLaw_congr (by simp) (by simp) (by simp)

@[simp] theorem LevellingLaw_feedLoad (s : State)  : LevellingLaw (feedLoad s) ↔ LevellingLaw s := LevellingLaw_congr (by simp) (by simp) (by simp)

@[simp] theorem LevellingLaw_feedRound (s : State)  : LevellingLaw (feedRound s) ↔ LevellingLaw s := LevellingLaw_congr (by simp) (by simp) (by simp)

@[simp] theorem LevellingLaw_clearDrive (s : State) (p : Port) (d : Drive) : LevellingLaw (clearDrive p d s) ↔ LevellingLaw s := LevellingLaw_congr (by simp) (by simp) (by simp)

@[simp] theorem LevellingLaw_State_mapZones (s : State) (f : Fin 12 → ZoneUnit → ZoneUnit) : LevellingLaw (s.mapZones f) ↔ LevellingLaw s := LevellingLaw_congr (by simp) (by simp) (by simp)

@[simp] theorem LevellingLaw_closeCycle (s : State)  : LevellingLaw (closeCycle s) ↔ LevellingLaw s := LevellingLaw_congr (by simp) (by simp) (by simp)

@[simp] theorem LevellingLaw_cycleStart (s : State) (closes : Bool) : LevellingLaw (cycleStart closes s) ↔ LevellingLaw s := LevellingLaw_congr (by simp) (by simp) (by simp)

@[simp] theorem LevellingLaw_outputsOff (s : State)  : LevellingLaw (outputsOff s) ↔ LevellingLaw s := LevellingLaw_congr (by simp) (by simp) (by simp)

@[simp] theorem LevellingLaw_clearZone (s : State) (p : Port) (k : Fin 12) : LevellingLaw (clearZone p k s) ↔ LevellingLaw s := LevellingLaw_congr (by simp) (by simp) (by simp)

@[simp] theorem LevellingLaw_startSlice (s : State)  : LevellingLaw (startSlice s) ↔ LevellingLaw s := LevellingLaw_congr (by simp) (by simp) (by simp)

@[simp] theorem LevellingLaw_cycleBoundary (s : State) (closes : Bool) : LevellingLaw (cycleBoundary closes s) ↔ LevellingLaw s := LevellingLaw_congr (by simp) (by simp) (by simp)

@[simp] theorem LevellingLaw_startHeating (s : State)  : LevellingLaw (startHeating s) ↔ LevellingLaw s := LevellingLaw_congr (by simp) (by simp) (by simp)

@[simp] theorem LevellingLaw_cutGrants (s : State)  : LevellingLaw (cutGrants s) ↔ LevellingLaw s := LevellingLaw_congr (by simp) (by simp) (by simp)

@[simp] theorem LevellingLaw_stopHeating (s : State)  : LevellingLaw (stopHeating s) ↔ LevellingLaw s := LevellingLaw_congr (by simp) (by simp) (by simp)

@[simp] theorem LevellingLaw_restartHeating (s : State)  : LevellingLaw (restartHeating s) ↔ LevellingLaw s := LevellingLaw_congr (by simp) (by simp) (by simp)

@[simp] theorem LevellingLaw_tripRunning (s : State)  : LevellingLaw (tripRunning s) ↔ LevellingLaw s := LevellingLaw_congr (by simp) (by simp) (by simp)

@[simp] theorem LevellingLaw_slowRound (s : State)  : LevellingLaw (slowRound s) ↔ LevellingLaw s := LevellingLaw_congr (by simp) (by simp) (by simp)

@[simp] theorem LevellingLaw_writeResult (s : State) (c : Fin 34) (tag count : Nat) : LevellingLaw (writeResult s c tag count) ↔ LevellingLaw s := LevellingLaw_congr (by simp) (by simp) (by simp)

@[simp] theorem LevellingLaw_postEntry (s : State) (p : Port) (e : PostEntry) : LevellingLaw (postEntry p e s) ↔ LevellingLaw s := LevellingLaw_congr (by simp) (by simp) (by simp)

@[simp] theorem LevellingLaw_capacityApplied (s : State)  : LevellingLaw (capacityApplied s) ↔ LevellingLaw s := LevellingLaw_congr (by simp) (by simp) (by simp)

@[simp] theorem LevellingLaw_popEntry (s : State) (p : Port) (rest : List PostEntry) : LevellingLaw (popEntry p rest s) ↔ LevellingLaw s := LevellingLaw_congr (by simp) (by simp) (by simp)

@[simp] theorem LevellingLaw_rejectEntry (s : State) (p : Port) (e : PostEntry) : LevellingLaw (rejectEntry p e s) ↔ LevellingLaw s := LevellingLaw_congr (by simp) (by simp) (by simp)

@[simp] theorem LevellingLaw_passTick (s : State)  : LevellingLaw (passTick s) ↔ LevellingLaw s := LevellingLaw_congr (by simp) (by simp) (by simp)

theorem ReadingLaw_congr {s t : State} (h0 : t.lev = s.lev) (h1 : t.settings = s.settings) : ReadingLaw t ↔ ReadingLaw s := by
  unfold ReadingLaw; simp only [h0, h1]

@[simp] theorem ReadingLaw_withTravel (s : State) (x) : ReadingLaw (s.withTravel x) ↔ ReadingLaw s := Iff.rfl

@[simp] theorem ReadingLaw_withSeq (s : State) (x) : ReadingLaw (s.withSeq x) ↔ ReadingLaw s := Iff.rfl

@[simp] theorem ReadingLaw_withFeed (s : State) (x) : ReadingLaw (s.withFeed x) ↔ ReadingLaw s := Iff.rfl

@[simp] theorem ReadingLaw_withHeat (s : State) (x) : ReadingLaw (s.withHeat x) ↔ ReadingLaw s := Iff.rfl

@[simp] theorem ReadingLaw_withZones (s : State) (x) : ReadingLaw (s.withZones x) ↔ ReadingLaw s := Iff.rfl

@[simp] theorem ReadingLaw_withScan (s : State) (x) : ReadingLaw (s.withScan x) ↔ ReadingLaw s := Iff.rfl

@[simp] theorem ReadingLaw_withRecord (s : State) (x) : ReadingLaw (s.withRecord x) ↔ ReadingLaw s := Iff.rfl

@[simp] theorem ReadingLaw_withStore (s : State) (x) : ReadingLaw (s.withStore x) ↔ ReadingLaw s := Iff.rfl

@[simp] theorem ReadingLaw_withPorts (s : State) (x) : ReadingLaw (s.withPorts x) ↔ ReadingLaw s := Iff.rfl

@[simp] theorem ReadingLaw_withTimers (s : State) (x) : ReadingLaw (s.withTimers x) ↔ ReadingLaw s := Iff.rfl

@[simp] theorem ReadingLaw_withPins (s : State) (x) : ReadingLaw (s.withPins x) ↔ ReadingLaw s := Iff.rfl

@[simp] theorem ReadingLaw_withNow (s : State) (x) : ReadingLaw (s.withNow x) ↔ ReadingLaw s := Iff.rfl

@[simp] theorem ReadingLaw_withFree (s : State) (x) : ReadingLaw (s.withFree x) ↔ ReadingLaw s := Iff.rfl

@[simp] theorem ReadingLaw_withPending (s : State) (x) : ReadingLaw (s.withPending x) ↔ ReadingLaw s := Iff.rfl

@[simp] theorem ReadingLaw_raiseOn (s : State) (on : Port → Bool) (k : AlertKind) : ReadingLaw (raiseOn on k s) ↔ ReadingLaw s := ReadingLaw_congr (by simp) (by simp)

@[simp] theorem ReadingLaw_raiseAll (s : State) (k : AlertKind) : ReadingLaw (raiseAll k s) ↔ ReadingLaw s := ReadingLaw_congr (by simp) (by simp)

@[simp] theorem ReadingLaw_raiseOthers (s : State) (p : Port) (k : AlertKind) : ReadingLaw (raiseOthers p k s) ↔ ReadingLaw s := ReadingLaw_congr (by simp) (by simp)

@[simp] theorem ReadingLaw_raiseAllIf (s : State) (c : Bool) (k : AlertKind) : ReadingLaw (raiseAllIf c k s) ↔ ReadingLaw s := ReadingLaw_congr (by simp) (by simp)

@[simp] theorem ReadingLaw_report (s : State) (f : OpenRecord → OpenRecord) : ReadingLaw (report f s) ↔ ReadingLaw s := ReadingLaw_congr (by simp) (by simp)

@[simp] theorem ReadingLaw_reportFlags (s : State) (f : RecordFlags → RecordFlags) : ReadingLaw (reportFlags f s) ↔ ReadingLaw s := ReadingLaw_congr (by simp) (by simp)

@[simp] theorem ReadingLaw_reportStarved (s : State) (z : ZoneSet) : ReadingLaw (reportStarved z s) ↔ ReadingLaw s := ReadingLaw_congr (by simp) (by simp)

@[simp] theorem ReadingLaw_reportFaulted (s : State) (z : ZoneSet) : ReadingLaw (reportFaulted z s) ↔ ReadingLaw s := ReadingLaw_congr (by simp) (by simp)

@[simp] theorem ReadingLaw_reportTrip (s : State)  : ReadingLaw (reportTrip s) ↔ ReadingLaw s := ReadingLaw_congr (by simp) (by simp)

@[simp] theorem ReadingLaw_State_reach (s : State) (due : Nat) : ReadingLaw (s.reach due) ↔ ReadingLaw s := ReadingLaw_congr (by simp) (by simp)

@[simp] theorem ReadingLaw_State_reachOpt (s : State) (due : Option Nat) : ReadingLaw (s.reachOpt due) ↔ ReadingLaw s := ReadingLaw_congr (by simp) (by simp)

@[simp] theorem ReadingLaw_State_modifyPort (s : State) (p : Port) (f : PortState → PortState) : ReadingLaw (s.modifyPort p f) ↔ ReadingLaw s := ReadingLaw_congr (by simp) (by simp)

@[simp] theorem ReadingLaw_heard (s : State) (p : Port) : ReadingLaw (heard p s) ↔ ReadingLaw s := ReadingLaw_congr (by simp) (by simp)

@[simp] theorem ReadingLaw_takeRequest (s : State) (p : Port) : ReadingLaw (takeRequest p s) ↔ ReadingLaw s := ReadingLaw_congr (by simp) (by simp)

@[simp] theorem ReadingLaw_answer (s : State) (p : Port) (a : Answer) : ReadingLaw (answer p a s) ↔ ReadingLaw s := ReadingLaw_congr (by simp) (by simp)

@[simp] theorem ReadingLaw_answerCode (s : State) (p : Port) (c : AnswerCode) : ReadingLaw (answerCode p c s) ↔ ReadingLaw s := ReadingLaw_congr (by simp) (by simp)

@[simp] theorem ReadingLaw_State_modifyDrive (s : State) (d : Drive) (f : DriveUnit → DriveUnit) : ReadingLaw (s.modifyDrive d f) ↔ ReadingLaw s := ReadingLaw_congr (by simp) (by simp)

@[simp] theorem ReadingLaw_fetchFromD (s : State)  : ReadingLaw (fetchFromD s) ↔ ReadingLaw s := ReadingLaw_congr (by simp) (by simp)

@[simp] theorem ReadingLaw_releaseFromD (s : State) (n : Nat) : ReadingLaw (releaseFromD n s) ↔ ReadingLaw s := ReadingLaw_congr (by simp) (by simp)

@[simp] theorem ReadingLaw_boostZones (s : State) (z : ZoneSet) : ReadingLaw (boostZones z s) ↔ ReadingLaw s := ReadingLaw_congr (by simp) (by simp)

@[simp] theorem ReadingLaw_storeRecord (s : State) (h : Header) (pause : Nat) (columns : List Word) : ReadingLaw ((storeRecord h pause columns s).1) ↔ ReadingLaw s := ReadingLaw_congr (by simp) (by simp)

@[simp] theorem ReadingLaw_closeRecord (s : State) (partialClose restartClose : Bool) : ReadingLaw (closeRecord partialClose restartClose s) ↔ ReadingLaw s := ReadingLaw_congr (by simp) (by simp)

@[simp] theorem ReadingLaw_prefillWindow (s : State)  : ReadingLaw (prefillWindow s) ↔ ReadingLaw s := ReadingLaw_congr (by simp) (by simp)

@[simp] theorem ReadingLaw_widthUpdate (s : State)  : ReadingLaw (widthUpdate s) ↔ ReadingLaw s := ReadingLaw_congr (by simp) (by simp)

@[simp] theorem ReadingLaw_feedTick (s : State)  : ReadingLaw (feedTick s) ↔ ReadingLaw s := ReadingLaw_congr (by simp) (by simp)

@[simp] theorem ReadingLaw_feedLoad (s : State)  : ReadingLaw (feedLoad s) ↔ ReadingLaw s := ReadingLaw_congr (by simp) (by simp)

@[simp] theorem ReadingLaw_feedRound (s : State)  : ReadingLaw (feedRound s) ↔ ReadingLaw s := ReadingLaw_congr (by simp) (by simp)

@[simp] theorem ReadingLaw_clearDrive (s : State) (p : Port) (d : Drive) : ReadingLaw (clearDrive p d s) ↔ ReadingLaw s := ReadingLaw_congr (by simp) (by simp)

@[simp] theorem ReadingLaw_State_mapZones (s : State) (f : Fin 12 → ZoneUnit → ZoneUnit) : ReadingLaw (s.mapZones f) ↔ ReadingLaw s := ReadingLaw_congr (by simp) (by simp)

@[simp] theorem ReadingLaw_closeCycle (s : State)  : ReadingLaw (closeCycle s) ↔ ReadingLaw s := ReadingLaw_congr (by simp) (by simp)

@[simp] theorem ReadingLaw_cycleStart (s : State) (closes : Bool) : ReadingLaw (cycleStart closes s) ↔ ReadingLaw s := ReadingLaw_congr (by simp) (by simp)

@[simp] theorem ReadingLaw_outputsOff (s : State)  : ReadingLaw (outputsOff s) ↔ ReadingLaw s := ReadingLaw_congr (by simp) (by simp)

@[simp] theorem ReadingLaw_clearZone (s : State) (p : Port) (k : Fin 12) : ReadingLaw (clearZone p k s) ↔ ReadingLaw s := ReadingLaw_congr (by simp) (by simp)

@[simp] theorem ReadingLaw_startSlice (s : State)  : ReadingLaw (startSlice s) ↔ ReadingLaw s := ReadingLaw_congr (by simp) (by simp)

@[simp] theorem ReadingLaw_cycleBoundary (s : State) (closes : Bool) : ReadingLaw (cycleBoundary closes s) ↔ ReadingLaw s := ReadingLaw_congr (by simp) (by simp)

@[simp] theorem ReadingLaw_startHeating (s : State)  : ReadingLaw (startHeating s) ↔ ReadingLaw s := ReadingLaw_congr (by simp) (by simp)

@[simp] theorem ReadingLaw_cutGrants (s : State)  : ReadingLaw (cutGrants s) ↔ ReadingLaw s := ReadingLaw_congr (by simp) (by simp)

@[simp] theorem ReadingLaw_stopHeating (s : State)  : ReadingLaw (stopHeating s) ↔ ReadingLaw s := ReadingLaw_congr (by simp) (by simp)

@[simp] theorem ReadingLaw_restartHeating (s : State)  : ReadingLaw (restartHeating s) ↔ ReadingLaw s := ReadingLaw_congr (by simp) (by simp)

@[simp] theorem ReadingLaw_tripRunning (s : State)  : ReadingLaw (tripRunning s) ↔ ReadingLaw s := ReadingLaw_congr (by simp) (by simp)

@[simp] theorem ReadingLaw_slowRound (s : State)  : ReadingLaw (slowRound s) ↔ ReadingLaw s := ReadingLaw_congr (by simp) (by simp)

@[simp] theorem ReadingLaw_mediumRound (s : State)  : ReadingLaw (mediumRound s) ↔ ReadingLaw s := ReadingLaw_congr (by simp) (by simp)

@[simp] theorem ReadingLaw_writeResult (s : State) (c : Fin 34) (tag count : Nat) : ReadingLaw (writeResult s c tag count) ↔ ReadingLaw s := ReadingLaw_congr (by simp) (by simp)

@[simp] theorem ReadingLaw_postEntry (s : State) (p : Port) (e : PostEntry) : ReadingLaw (postEntry p e s) ↔ ReadingLaw s := ReadingLaw_congr (by simp) (by simp)

@[simp] theorem ReadingLaw_capacityApplied (s : State)  : ReadingLaw (capacityApplied s) ↔ ReadingLaw s := ReadingLaw_congr (by simp) (by simp)

@[simp] theorem ReadingLaw_popEntry (s : State) (p : Port) (rest : List PostEntry) : ReadingLaw (popEntry p rest s) ↔ ReadingLaw s := ReadingLaw_congr (by simp) (by simp)

@[simp] theorem ReadingLaw_rejectEntry (s : State) (p : Port) (e : PostEntry) : ReadingLaw (rejectEntry p e s) ↔ ReadingLaw s := ReadingLaw_congr (by simp) (by simp)

@[simp] theorem ReadingLaw_passTick (s : State)  : ReadingLaw (passTick s) ↔ ReadingLaw s := ReadingLaw_congr (by simp) (by simp)

theorem FeedLaw_congr {s t : State} (h0 : t.feed = s.feed) (h1 : t.settings = s.settings) (h2 : t.heat = s.heat) : FeedLaw t ↔ FeedLaw s := by
  unfold FeedLaw; simp only [h0, h1, h2]

@[simp] theorem FeedLaw_withTravel (s : State) (x) : FeedLaw (s.withTravel x) ↔ FeedLaw s := Iff.rfl

@[simp] theorem FeedLaw_withSeq (s : State) (x) : FeedLaw (s.withSeq x) ↔ FeedLaw s := Iff.rfl

@[simp] theorem FeedLaw_withLev (s : State) (x) : FeedLaw (s.withLev x) ↔ FeedLaw s := Iff.rfl

@[simp] theorem FeedLaw_withZones (s : State) (x) : FeedLaw (s.withZones x) ↔ FeedLaw s := Iff.rfl

@[simp] theorem FeedLaw_withScan (s : State) (x) : FeedLaw (s.withScan x) ↔ FeedLaw s := Iff.rfl

@[simp] theorem FeedLaw_withRecord (s : State) (x) : FeedLaw (s.withRecord x) ↔ FeedLaw s := Iff.rfl

@[simp] theorem FeedLaw_withStore (s : State) (x) : FeedLaw (s.withStore x) ↔ FeedLaw s := Iff.rfl

@[simp] theorem FeedLaw_withPorts (s : State) (x) : FeedLaw (s.withPorts x) ↔ FeedLaw s := Iff.rfl

@[simp] theorem FeedLaw_withTimers (s : State) (x) : FeedLaw (s.withTimers x) ↔ FeedLaw s := Iff.rfl

@[simp] theorem FeedLaw_withPins (s : State) (x) : FeedLaw (s.withPins x) ↔ FeedLaw s := Iff.rfl

@[simp] theorem FeedLaw_withNow (s : State) (x) : FeedLaw (s.withNow x) ↔ FeedLaw s := Iff.rfl

@[simp] theorem FeedLaw_withFree (s : State) (x) : FeedLaw (s.withFree x) ↔ FeedLaw s := Iff.rfl

@[simp] theorem FeedLaw_withPending (s : State) (x) : FeedLaw (s.withPending x) ↔ FeedLaw s := Iff.rfl

@[simp] theorem FeedLaw_raiseOn (s : State) (on : Port → Bool) (k : AlertKind) : FeedLaw (raiseOn on k s) ↔ FeedLaw s := FeedLaw_congr (by simp) (by simp) (by simp)

@[simp] theorem FeedLaw_raiseAll (s : State) (k : AlertKind) : FeedLaw (raiseAll k s) ↔ FeedLaw s := FeedLaw_congr (by simp) (by simp) (by simp)

@[simp] theorem FeedLaw_raiseOthers (s : State) (p : Port) (k : AlertKind) : FeedLaw (raiseOthers p k s) ↔ FeedLaw s := FeedLaw_congr (by simp) (by simp) (by simp)

@[simp] theorem FeedLaw_raiseAllIf (s : State) (c : Bool) (k : AlertKind) : FeedLaw (raiseAllIf c k s) ↔ FeedLaw s := FeedLaw_congr (by simp) (by simp) (by simp)

@[simp] theorem FeedLaw_report (s : State) (f : OpenRecord → OpenRecord) : FeedLaw (report f s) ↔ FeedLaw s := FeedLaw_congr (by simp) (by simp) (by simp)

@[simp] theorem FeedLaw_reportFlags (s : State) (f : RecordFlags → RecordFlags) : FeedLaw (reportFlags f s) ↔ FeedLaw s := FeedLaw_congr (by simp) (by simp) (by simp)

@[simp] theorem FeedLaw_reportStarved (s : State) (z : ZoneSet) : FeedLaw (reportStarved z s) ↔ FeedLaw s := FeedLaw_congr (by simp) (by simp) (by simp)

@[simp] theorem FeedLaw_reportFaulted (s : State) (z : ZoneSet) : FeedLaw (reportFaulted z s) ↔ FeedLaw s := FeedLaw_congr (by simp) (by simp) (by simp)

@[simp] theorem FeedLaw_reportTrip (s : State)  : FeedLaw (reportTrip s) ↔ FeedLaw s := FeedLaw_congr (by simp) (by simp) (by simp)

@[simp] theorem FeedLaw_State_reach (s : State) (due : Nat) : FeedLaw (s.reach due) ↔ FeedLaw s := FeedLaw_congr (by simp) (by simp) (by simp)

@[simp] theorem FeedLaw_State_reachOpt (s : State) (due : Option Nat) : FeedLaw (s.reachOpt due) ↔ FeedLaw s := FeedLaw_congr (by simp) (by simp) (by simp)

@[simp] theorem FeedLaw_State_modifyPort (s : State) (p : Port) (f : PortState → PortState) : FeedLaw (s.modifyPort p f) ↔ FeedLaw s := FeedLaw_congr (by simp) (by simp) (by simp)

@[simp] theorem FeedLaw_heard (s : State) (p : Port) : FeedLaw (heard p s) ↔ FeedLaw s := FeedLaw_congr (by simp) (by simp) (by simp)

@[simp] theorem FeedLaw_takeRequest (s : State) (p : Port) : FeedLaw (takeRequest p s) ↔ FeedLaw s := FeedLaw_congr (by simp) (by simp) (by simp)

@[simp] theorem FeedLaw_answer (s : State) (p : Port) (a : Answer) : FeedLaw (answer p a s) ↔ FeedLaw s := FeedLaw_congr (by simp) (by simp) (by simp)

@[simp] theorem FeedLaw_answerCode (s : State) (p : Port) (c : AnswerCode) : FeedLaw (answerCode p c s) ↔ FeedLaw s := FeedLaw_congr (by simp) (by simp) (by simp)

@[simp] theorem FeedLaw_State_modifySide (s : State) (sd : Side) (f : SideUnit → SideUnit) : FeedLaw (s.modifySide sd f) ↔ FeedLaw s := FeedLaw_congr (by simp) (by simp) (by simp)

@[simp] theorem FeedLaw_dropSide (s : State) (sd : Side) : FeedLaw (dropSide sd s) ↔ FeedLaw s := FeedLaw_congr (by simp) (by simp) (by simp)

@[simp] theorem FeedLaw_dropSideAndJog (s : State) (sd : Side) : FeedLaw (dropSideAndJog sd s) ↔ FeedLaw s := FeedLaw_congr (by simp) (by simp) (by simp)

@[simp] theorem FeedLaw_autoValvesZero (s : State)  : FeedLaw (autoValvesZero s) ↔ FeedLaw s := FeedLaw_congr (by simp) (by simp) (by simp)

@[simp] theorem FeedLaw_fetchFromD (s : State)  : FeedLaw (fetchFromD s) ↔ FeedLaw s := FeedLaw_congr (by simp) (by simp) (by simp)

@[simp] theorem FeedLaw_releaseFromD (s : State) (n : Nat) : FeedLaw (releaseFromD n s) ↔ FeedLaw s := FeedLaw_congr (by simp) (by simp) (by simp)

@[simp] theorem FeedLaw_openRecord (s : State)  : FeedLaw (openRecord s) ↔ FeedLaw s := FeedLaw_congr (by simp) (by simp) (by simp)

@[simp] theorem FeedLaw_boostZones (s : State) (z : ZoneSet) : FeedLaw (boostZones z s) ↔ FeedLaw s := FeedLaw_congr (by simp) (by simp) (by simp)

@[simp] theorem FeedLaw_storeRecord (s : State) (h : Header) (pause : Nat) (columns : List Word) : FeedLaw ((storeRecord h pause columns s).1) ↔ FeedLaw s := FeedLaw_congr (by simp) (by simp) (by simp)

@[simp] theorem FeedLaw_closeRecord (s : State) (partialClose restartClose : Bool) : FeedLaw (closeRecord partialClose restartClose s) ↔ FeedLaw s := FeedLaw_congr (by simp) (by simp) (by simp)

@[simp] theorem FeedLaw_closeByStep (s : State)  : FeedLaw (closeByStep s) ↔ FeedLaw s := FeedLaw_congr (by simp) (by simp) (by simp)

@[simp] theorem FeedLaw_recordWindow (s : State)  : FeedLaw (recordWindow s) ↔ FeedLaw s := FeedLaw_congr (by simp) (by simp) (by simp)

@[simp] theorem FeedLaw_valvesWindow (s : State)  : FeedLaw (valvesWindow s) ↔ FeedLaw s := FeedLaw_congr (by simp) (by simp) (by simp)

@[simp] theorem FeedLaw_widthUpdate (s : State)  : FeedLaw (widthUpdate s) ↔ FeedLaw s := FeedLaw_congr (by simp) (by simp) (by simp)

@[simp] theorem FeedLaw_sampleSide (s : State) (sd : Side) : FeedLaw (sampleSide sd s) ↔ FeedLaw s := FeedLaw_congr (by simp) (by simp) (by simp)

@[simp] theorem FeedLaw_levellingRound (s : State)  : FeedLaw (levellingRound s) ↔ FeedLaw s := FeedLaw_congr (by simp) (by simp) (by simp)

@[simp] theorem FeedLaw_engageSide (s : State) (p : Port) (sd : Side) : FeedLaw (engageSide p sd s) ↔ FeedLaw s := FeedLaw_congr (by simp) (by simp) (by simp)

@[simp] theorem FeedLaw_disengageSide (s : State) (p : Port) (sd : Side) : FeedLaw (disengageSide p sd s) ↔ FeedLaw s := FeedLaw_congr (by simp) (by simp) (by simp)

@[simp] theorem FeedLaw_jogSide (s : State) (p : Port) (dir : Direction) (duty : Word) (sd : Side) : FeedLaw (jogSide p dir duty sd s) ↔ FeedLaw s := FeedLaw_congr (by simp) (by simp) (by simp)

@[simp] theorem FeedLaw_State_mapZones (s : State) (f : Fin 12 → ZoneUnit → ZoneUnit) : FeedLaw (s.mapZones f) ↔ FeedLaw s := FeedLaw_congr (by simp) (by simp) (by simp)

@[simp] theorem FeedLaw_closeCycle (s : State)  : FeedLaw (closeCycle s) ↔ FeedLaw s := FeedLaw_congr (by simp) (by simp) (by simp)

@[simp] theorem FeedLaw_cycleStart (s : State) (closes : Bool) : FeedLaw (cycleStart closes s) ↔ FeedLaw s := FeedLaw_congr (by simp) (by simp) (by simp)

@[simp] theorem FeedLaw_outputsOff (s : State)  : FeedLaw (outputsOff s) ↔ FeedLaw s := FeedLaw_congr (by simp) (by simp) (by simp)

@[simp] theorem FeedLaw_clearZone (s : State) (p : Port) (k : Fin 12) : FeedLaw (clearZone p k s) ↔ FeedLaw s := FeedLaw_congr (by simp) (by simp) (by simp)

@[simp] theorem FeedLaw_slowRound (s : State)  : FeedLaw (slowRound s) ↔ FeedLaw s := FeedLaw_congr (by simp) (by simp) (by simp)

@[simp] theorem FeedLaw_writeResult (s : State) (c : Fin 34) (tag count : Nat) : FeedLaw (writeResult s c tag count) ↔ FeedLaw s := FeedLaw_congr (by simp) (by simp) (by simp)

@[simp] theorem FeedLaw_postEntry (s : State) (p : Port) (e : PostEntry) : FeedLaw (postEntry p e s) ↔ FeedLaw s := FeedLaw_congr (by simp) (by simp) (by simp)

@[simp] theorem FeedLaw_refModeApplied (s : State) (sd : Side) (old : RefMode) : FeedLaw (refModeApplied sd old s) ↔ FeedLaw s := FeedLaw_congr (by simp) (by simp) (by simp)

@[simp] theorem FeedLaw_dutyApplied (s : State) (sd : Side) : FeedLaw (dutyApplied sd s) ↔ FeedLaw s := FeedLaw_congr (by simp) (by simp) (by simp)

@[simp] theorem FeedLaw_leavePave (s : State)  : FeedLaw (leavePave s) ↔ FeedLaw s := FeedLaw_congr (by simp) (by simp) (by simp)

@[simp] theorem FeedLaw_popEntry (s : State) (p : Port) (rest : List PostEntry) : FeedLaw (popEntry p rest s) ↔ FeedLaw s := FeedLaw_congr (by simp) (by simp) (by simp)

@[simp] theorem FeedLaw_rejectEntry (s : State) (p : Port) (e : PostEntry) : FeedLaw (rejectEntry p e s) ↔ FeedLaw s := FeedLaw_congr (by simp) (by simp) (by simp)

@[simp] theorem FeedLaw_goAbsent (s : State) (p : Port) : FeedLaw (goAbsent p s) ↔ FeedLaw s := FeedLaw_congr (by simp) (by simp) (by simp)

@[simp] theorem FeedLaw_restartLevelling (s : State)  : FeedLaw (restartLevelling s) ↔ FeedLaw s := FeedLaw_congr (by simp) (by simp) (by simp)

@[simp] theorem FeedLaw_passTick (s : State)  : FeedLaw (passTick s) ↔ FeedLaw s := FeedLaw_congr (by simp) (by simp) (by simp)

theorem CapacityLaw_congr {s t : State} (h0 : t.heat = s.heat) (h1 : t.settings = s.settings) : CapacityLaw t ↔ CapacityLaw s := by
  unfold CapacityLaw; simp only [h0, h1]

@[simp] theorem CapacityLaw_withTravel (s : State) (x) : CapacityLaw (s.withTravel x) ↔ CapacityLaw s := Iff.rfl

@[simp] theorem CapacityLaw_withSeq (s : State) (x) : CapacityLaw (s.withSeq x) ↔ CapacityLaw s := Iff.rfl

@[simp] theorem CapacityLaw_withLev (s : State) (x) : CapacityLaw (s.withLev x) ↔ CapacityLaw s := Iff.rfl

@[simp] theorem CapacityLaw_withFeed (s : State) (x) : CapacityLaw (s.withFeed x) ↔ CapacityLaw s := Iff.rfl

@[simp] theorem CapacityLaw_withZones (s : State) (x) : CapacityLaw (s.withZones x) ↔ CapacityLaw s := Iff.rfl

@[simp] theorem CapacityLaw_withScan (s : State) (x) : CapacityLaw (s.withScan x) ↔ CapacityLaw s := Iff.rfl

@[simp] theorem CapacityLaw_withRecord (s : State) (x) : CapacityLaw (s.withRecord x) ↔ CapacityLaw s := Iff.rfl

@[simp] theorem CapacityLaw_withStore (s : State) (x) : CapacityLaw (s.withStore x) ↔ CapacityLaw s := Iff.rfl

@[simp] theorem CapacityLaw_withPorts (s : State) (x) : CapacityLaw (s.withPorts x) ↔ CapacityLaw s := Iff.rfl

@[simp] theorem CapacityLaw_withTimers (s : State) (x) : CapacityLaw (s.withTimers x) ↔ CapacityLaw s := Iff.rfl

@[simp] theorem CapacityLaw_withPins (s : State) (x) : CapacityLaw (s.withPins x) ↔ CapacityLaw s := Iff.rfl

@[simp] theorem CapacityLaw_withNow (s : State) (x) : CapacityLaw (s.withNow x) ↔ CapacityLaw s := Iff.rfl

@[simp] theorem CapacityLaw_withFree (s : State) (x) : CapacityLaw (s.withFree x) ↔ CapacityLaw s := Iff.rfl

@[simp] theorem CapacityLaw_withPending (s : State) (x) : CapacityLaw (s.withPending x) ↔ CapacityLaw s := Iff.rfl

@[simp] theorem CapacityLaw_raiseOn (s : State) (on : Port → Bool) (k : AlertKind) : CapacityLaw (raiseOn on k s) ↔ CapacityLaw s := CapacityLaw_congr (by simp) (by simp)

@[simp] theorem CapacityLaw_raiseAll (s : State) (k : AlertKind) : CapacityLaw (raiseAll k s) ↔ CapacityLaw s := CapacityLaw_congr (by simp) (by simp)

@[simp] theorem CapacityLaw_raiseOthers (s : State) (p : Port) (k : AlertKind) : CapacityLaw (raiseOthers p k s) ↔ CapacityLaw s := CapacityLaw_congr (by simp) (by simp)

@[simp] theorem CapacityLaw_raiseAllIf (s : State) (c : Bool) (k : AlertKind) : CapacityLaw (raiseAllIf c k s) ↔ CapacityLaw s := CapacityLaw_congr (by simp) (by simp)

@[simp] theorem CapacityLaw_report (s : State) (f : OpenRecord → OpenRecord) : CapacityLaw (report f s) ↔ CapacityLaw s := CapacityLaw_congr (by simp) (by simp)

@[simp] theorem CapacityLaw_reportFlags (s : State) (f : RecordFlags → RecordFlags) : CapacityLaw (reportFlags f s) ↔ CapacityLaw s := CapacityLaw_congr (by simp) (by simp)

@[simp] theorem CapacityLaw_reportStarved (s : State) (z : ZoneSet) : CapacityLaw (reportStarved z s) ↔ CapacityLaw s := CapacityLaw_congr (by simp) (by simp)

@[simp] theorem CapacityLaw_reportFaulted (s : State) (z : ZoneSet) : CapacityLaw (reportFaulted z s) ↔ CapacityLaw s := CapacityLaw_congr (by simp) (by simp)

@[simp] theorem CapacityLaw_reportTrip (s : State)  : CapacityLaw (reportTrip s) ↔ CapacityLaw s := CapacityLaw_congr (by simp) (by simp)

@[simp] theorem CapacityLaw_State_reach (s : State) (due : Nat) : CapacityLaw (s.reach due) ↔ CapacityLaw s := CapacityLaw_congr (by simp) (by simp)

@[simp] theorem CapacityLaw_State_reachOpt (s : State) (due : Option Nat) : CapacityLaw (s.reachOpt due) ↔ CapacityLaw s := CapacityLaw_congr (by simp) (by simp)

@[simp] theorem CapacityLaw_State_modifyPort (s : State) (p : Port) (f : PortState → PortState) : CapacityLaw (s.modifyPort p f) ↔ CapacityLaw s := CapacityLaw_congr (by simp) (by simp)

@[simp] theorem CapacityLaw_heard (s : State) (p : Port) : CapacityLaw (heard p s) ↔ CapacityLaw s := CapacityLaw_congr (by simp) (by simp)

@[simp] theorem CapacityLaw_takeRequest (s : State) (p : Port) : CapacityLaw (takeRequest p s) ↔ CapacityLaw s := CapacityLaw_congr (by simp) (by simp)

@[simp] theorem CapacityLaw_answer (s : State) (p : Port) (a : Answer) : CapacityLaw (answer p a s) ↔ CapacityLaw s := CapacityLaw_congr (by simp) (by simp)

@[simp] theorem CapacityLaw_answerCode (s : State) (p : Port) (c : AnswerCode) : CapacityLaw (answerCode p c s) ↔ CapacityLaw s := CapacityLaw_congr (by simp) (by simp)

@[simp] theorem CapacityLaw_State_modifySide (s : State) (sd : Side) (f : SideUnit → SideUnit) : CapacityLaw (s.modifySide sd f) ↔ CapacityLaw s := CapacityLaw_congr (by simp) (by simp)

@[simp] theorem CapacityLaw_dropSide (s : State) (sd : Side) : CapacityLaw (dropSide sd s) ↔ CapacityLaw s := CapacityLaw_congr (by simp) (by simp)

@[simp] theorem CapacityLaw_dropSideAndJog (s : State) (sd : Side) : CapacityLaw (dropSideAndJog sd s) ↔ CapacityLaw s := CapacityLaw_congr (by simp) (by simp)

@[simp] theorem CapacityLaw_autoValvesZero (s : State)  : CapacityLaw (autoValvesZero s) ↔ CapacityLaw s := CapacityLaw_congr (by simp) (by simp)

@[simp] theorem CapacityLaw_State_modifyDrive (s : State) (d : Drive) (f : DriveUnit → DriveUnit) : CapacityLaw (s.modifyDrive d f) ↔ CapacityLaw s := CapacityLaw_congr (by simp) (by simp)

@[simp] theorem CapacityLaw_fetchFromD (s : State)  : CapacityLaw (fetchFromD s) ↔ CapacityLaw s := CapacityLaw_congr (by simp) (by simp)

@[simp] theorem CapacityLaw_releaseFromD (s : State) (n : Nat) : CapacityLaw (releaseFromD n s) ↔ CapacityLaw s := CapacityLaw_congr (by simp) (by simp)

@[simp] theorem CapacityLaw_openRecord (s : State)  : CapacityLaw (openRecord s) ↔ CapacityLaw s := CapacityLaw_congr (by simp) (by simp)

@[simp] theorem CapacityLaw_boostZones (s : State) (z : ZoneSet) : CapacityLaw (boostZones z s) ↔ CapacityLaw s := CapacityLaw_congr (by simp) (by simp)

@[simp] theorem CapacityLaw_storeRecord (s : State) (h : Header) (pause : Nat) (columns : List Word) : CapacityLaw ((storeRecord h pause columns s).1) ↔ CapacityLaw s := CapacityLaw_congr (by simp) (by simp)

@[simp] theorem CapacityLaw_closeRecord (s : State) (partialClose restartClose : Bool) : CapacityLaw (closeRecord partialClose restartClose s) ↔ CapacityLaw s := CapacityLaw_congr (by simp) (by simp)

@[simp] theorem CapacityLaw_closeByStep (s : State)  : CapacityLaw (closeByStep s) ↔ CapacityLaw s := CapacityLaw_congr (by simp) (by simp)

@[simp] theorem CapacityLaw_recordWindow (s : State)  : CapacityLaw (recordWindow s) ↔ CapacityLaw s := CapacityLaw_congr (by simp) (by simp)

@[simp] theorem CapacityLaw_prefillWindow (s : State)  : CapacityLaw (prefillWindow s) ↔ CapacityLaw s := CapacityLaw_congr (by simp) (by simp)

@[simp] theorem CapacityLaw_valvesWindow (s : State)  : CapacityLaw (valvesWindow s) ↔ CapacityLaw s := CapacityLaw_congr (by simp) (by simp)

@[simp] theorem CapacityLaw_widthUpdate (s : State)  : CapacityLaw (widthUpdate s) ↔ CapacityLaw s := CapacityLaw_congr (by simp) (by simp)

@[simp] theorem CapacityLaw_sampleSide (s : State) (sd : Side) : CapacityLaw (sampleSide sd s) ↔ CapacityLaw s := CapacityLaw_congr (by simp) (by simp)

@[simp] theorem CapacityLaw_levellingRound (s : State)  : CapacityLaw (levellingRound s) ↔ CapacityLaw s := CapacityLaw_congr (by simp) (by simp)

@[simp] theorem CapacityLaw_engageSide (s : State) (p : Port) (sd : Side) : CapacityLaw (engageSide p sd s) ↔ CapacityLaw s := CapacityLaw_congr (by simp) (by simp)

@[simp] theorem CapacityLaw_disengageSide (s : State) (p : Port) (sd : Side) : CapacityLaw (disengageSide p sd s) ↔ CapacityLaw s := CapacityLaw_congr (by simp) (by simp)

@[simp] theorem CapacityLaw_jogSide (s : State) (p : Port) (dir : Direction) (duty : Word) (sd : Side) : CapacityLaw (jogSide p dir duty sd s) ↔ CapacityLaw s := CapacityLaw_congr (by simp) (by simp)

@[simp] theorem CapacityLaw_feedTick (s : State)  : CapacityLaw (feedTick s) ↔ CapacityLaw s := CapacityLaw_congr (by simp) (by simp)

@[simp] theorem CapacityLaw_clearDrive (s : State) (p : Port) (d : Drive) : CapacityLaw (clearDrive p d s) ↔ CapacityLaw s := CapacityLaw_congr (by simp) (by simp)

@[simp] theorem CapacityLaw_State_mapZones (s : State) (f : Fin 12 → ZoneUnit → ZoneUnit) : CapacityLaw (s.mapZones f) ↔ CapacityLaw s := CapacityLaw_congr (by simp) (by simp)

@[simp] theorem CapacityLaw_closeCycle (s : State)  : CapacityLaw (closeCycle s) ↔ CapacityLaw s := CapacityLaw_congr (by simp) (by simp)

@[simp] theorem CapacityLaw_cycleStart (s : State) (closes : Bool) : CapacityLaw (cycleStart closes s) ↔ CapacityLaw s := CapacityLaw_congr (by simp) (by simp)

@[simp] theorem CapacityLaw_outputsOff (s : State)  : CapacityLaw (outputsOff s) ↔ CapacityLaw s := CapacityLaw_congr (by simp) (by simp)

@[simp] theorem CapacityLaw_clearZone (s : State) (p : Port) (k : Fin 12) : CapacityLaw (clearZone p k s) ↔ CapacityLaw s := CapacityLaw_congr (by simp) (by simp)

@[simp] theorem CapacityLaw_slowRound (s : State)  : CapacityLaw (slowRound s) ↔ CapacityLaw s := CapacityLaw_congr (by simp) (by simp)

@[simp] theorem CapacityLaw_writeResult (s : State) (c : Fin 34) (tag count : Nat) : CapacityLaw (writeResult s c tag count) ↔ CapacityLaw s := CapacityLaw_congr (by simp) (by simp)

@[simp] theorem CapacityLaw_postEntry (s : State) (p : Port) (e : PostEntry) : CapacityLaw (postEntry p e s) ↔ CapacityLaw s := CapacityLaw_congr (by simp) (by simp)

@[simp] theorem CapacityLaw_refModeApplied (s : State) (sd : Side) (old : RefMode) : CapacityLaw (refModeApplied sd old s) ↔ CapacityLaw s := CapacityLaw_congr (by simp) (by simp)

@[simp] theorem CapacityLaw_dutyApplied (s : State) (sd : Side) : CapacityLaw (dutyApplied sd s) ↔ CapacityLaw s := CapacityLaw_congr (by simp) (by simp)

@[simp] theorem CapacityLaw_leavePave (s : State)  : CapacityLaw (leavePave s) ↔ CapacityLaw s := CapacityLaw_congr (by simp) (by simp)

@[simp] theorem CapacityLaw_popEntry (s : State) (p : Port) (rest : List PostEntry) : CapacityLaw (popEntry p rest s) ↔ CapacityLaw s := CapacityLaw_congr (by simp) (by simp)

@[simp] theorem CapacityLaw_rejectEntry (s : State) (p : Port) (e : PostEntry) : CapacityLaw (rejectEntry p e s) ↔ CapacityLaw s := CapacityLaw_congr (by simp) (by simp)

@[simp] theorem CapacityLaw_goAbsent (s : State) (p : Port) : CapacityLaw (goAbsent p s) ↔ CapacityLaw s := CapacityLaw_congr (by simp) (by simp)

@[simp] theorem CapacityLaw_restartLevelling (s : State)  : CapacityLaw (restartLevelling s) ↔ CapacityLaw s := CapacityLaw_congr (by simp) (by simp)

@[simp] theorem CapacityLaw_passTick (s : State)  : CapacityLaw (passTick s) ↔ CapacityLaw s := CapacityLaw_congr (by simp) (by simp)

theorem GrantLaw_congr {s t : State} (h0 : t.zones = s.zones) (h1 : t.heat = s.heat) : GrantLaw t ↔ GrantLaw s := by
  unfold GrantLaw; simp only [h0, h1]

@[simp] theorem GrantLaw_withTravel (s : State) (x) : GrantLaw (s.withTravel x) ↔ GrantLaw s := Iff.rfl

@[simp] theorem GrantLaw_withSeq (s : State) (x) : GrantLaw (s.withSeq x) ↔ GrantLaw s := Iff.rfl

@[simp] theorem GrantLaw_withLev (s : State) (x) : GrantLaw (s.withLev x) ↔ GrantLaw s := Iff.rfl

@[simp] theorem GrantLaw_withFeed (s : State) (x) : GrantLaw (s.withFeed x) ↔ GrantLaw s := Iff.rfl

@[simp] theorem GrantLaw_withScan (s : State) (x) : GrantLaw (s.withScan x) ↔ GrantLaw s := Iff.rfl

@[simp] theorem GrantLaw_withRecord (s : State) (x) : GrantLaw (s.withRecord x) ↔ GrantLaw s := Iff.rfl

@[simp] theorem GrantLaw_withStore (s : State) (x) : GrantLaw (s.withStore x) ↔ GrantLaw s := Iff.rfl

@[simp] theorem GrantLaw_withSettings (s : State) (x) : GrantLaw (s.withSettings x) ↔ GrantLaw s := Iff.rfl

@[simp] theorem GrantLaw_withPorts (s : State) (x) : GrantLaw (s.withPorts x) ↔ GrantLaw s := Iff.rfl

@[simp] theorem GrantLaw_withTimers (s : State) (x) : GrantLaw (s.withTimers x) ↔ GrantLaw s := Iff.rfl

@[simp] theorem GrantLaw_withPins (s : State) (x) : GrantLaw (s.withPins x) ↔ GrantLaw s := Iff.rfl

@[simp] theorem GrantLaw_withNow (s : State) (x) : GrantLaw (s.withNow x) ↔ GrantLaw s := Iff.rfl

@[simp] theorem GrantLaw_withFree (s : State) (x) : GrantLaw (s.withFree x) ↔ GrantLaw s := Iff.rfl

@[simp] theorem GrantLaw_withPending (s : State) (x) : GrantLaw (s.withPending x) ↔ GrantLaw s := Iff.rfl

@[simp] theorem GrantLaw_raiseOn (s : State) (on : Port → Bool) (k : AlertKind) : GrantLaw (raiseOn on k s) ↔ GrantLaw s := GrantLaw_congr (by simp) (by simp)

@[simp] theorem GrantLaw_raiseAll (s : State) (k : AlertKind) : GrantLaw (raiseAll k s) ↔ GrantLaw s := GrantLaw_congr (by simp) (by simp)

@[simp] theorem GrantLaw_raiseOthers (s : State) (p : Port) (k : AlertKind) : GrantLaw (raiseOthers p k s) ↔ GrantLaw s := GrantLaw_congr (by simp) (by simp)

@[simp] theorem GrantLaw_raiseAllIf (s : State) (c : Bool) (k : AlertKind) : GrantLaw (raiseAllIf c k s) ↔ GrantLaw s := GrantLaw_congr (by simp) (by simp)

@[simp] theorem GrantLaw_report (s : State) (f : OpenRecord → OpenRecord) : GrantLaw (report f s) ↔ GrantLaw s := GrantLaw_congr (by simp) (by simp)

@[simp] theorem GrantLaw_reportFlags (s : State) (f : RecordFlags → RecordFlags) : GrantLaw (reportFlags f s) ↔ GrantLaw s := GrantLaw_congr (by simp) (by simp)

@[simp] theorem GrantLaw_reportStarved (s : State) (z : ZoneSet) : GrantLaw (reportStarved z s) ↔ GrantLaw s := GrantLaw_congr (by simp) (by simp)

@[simp] theorem GrantLaw_reportFaulted (s : State) (z : ZoneSet) : GrantLaw (reportFaulted z s) ↔ GrantLaw s := GrantLaw_congr (by simp) (by simp)

@[simp] theorem GrantLaw_reportTrip (s : State)  : GrantLaw (reportTrip s) ↔ GrantLaw s := GrantLaw_congr (by simp) (by simp)

@[simp] theorem GrantLaw_State_reach (s : State) (due : Nat) : GrantLaw (s.reach due) ↔ GrantLaw s := GrantLaw_congr (by simp) (by simp)

@[simp] theorem GrantLaw_State_reachOpt (s : State) (due : Option Nat) : GrantLaw (s.reachOpt due) ↔ GrantLaw s := GrantLaw_congr (by simp) (by simp)

@[simp] theorem GrantLaw_State_modifyPort (s : State) (p : Port) (f : PortState → PortState) : GrantLaw (s.modifyPort p f) ↔ GrantLaw s := GrantLaw_congr (by simp) (by simp)

@[simp] theorem GrantLaw_heard (s : State) (p : Port) : GrantLaw (heard p s) ↔ GrantLaw s := GrantLaw_congr (by simp) (by simp)

@[simp] theorem GrantLaw_takeRequest (s : State) (p : Port) : GrantLaw (takeRequest p s) ↔ GrantLaw s := GrantLaw_congr (by simp) (by simp)

@[simp] theorem GrantLaw_answer (s : State) (p : Port) (a : Answer) : GrantLaw (answer p a s) ↔ GrantLaw s := GrantLaw_congr (by simp) (by simp)

@[simp] theorem GrantLaw_answerCode (s : State) (p : Port) (c : AnswerCode) : GrantLaw (answerCode p c s) ↔ GrantLaw s := GrantLaw_congr (by simp) (by simp)

@[simp] theorem GrantLaw_State_modifySide (s : State) (sd : Side) (f : SideUnit → SideUnit) : GrantLaw (s.modifySide sd f) ↔ GrantLaw s := GrantLaw_congr (by simp) (by simp)

@[simp] theorem GrantLaw_dropSide (s : State) (sd : Side) : GrantLaw (dropSide sd s) ↔ GrantLaw s := GrantLaw_congr (by simp) (by simp)

@[simp] theorem GrantLaw_dropSideAndJog (s : State) (sd : Side) : GrantLaw (dropSideAndJog sd s) ↔ GrantLaw s := GrantLaw_congr (by simp) (by simp)

@[simp] theorem GrantLaw_autoValvesZero (s : State)  : GrantLaw (autoValvesZero s) ↔ GrantLaw s := GrantLaw_congr (by simp) (by simp)

@[simp] theorem GrantLaw_State_modifyDrive (s : State) (d : Drive) (f : DriveUnit → DriveUnit) : GrantLaw (s.modifyDrive d f) ↔ GrantLaw s := GrantLaw_congr (by simp) (by simp)

@[simp] theorem GrantLaw_fetchFromD (s : State)  : GrantLaw (fetchFromD s) ↔ GrantLaw s := GrantLaw_congr (by simp) (by simp)

@[simp] theorem GrantLaw_releaseFromD (s : State) (n : Nat) : GrantLaw (releaseFromD n s) ↔ GrantLaw s := GrantLaw_congr (by simp) (by simp)

@[simp] theorem GrantLaw_openRecord (s : State)  : GrantLaw (openRecord s) ↔ GrantLaw s := GrantLaw_congr (by simp) (by simp)

@[simp] theorem GrantLaw_storeRecord (s : State) (h : Header) (pause : Nat) (columns : List Word) : GrantLaw ((storeRecord h pause columns s).1) ↔ GrantLaw s := GrantLaw_congr (by simp) (by simp)

@[simp] theorem GrantLaw_recordWindow (s : State)  : GrantLaw (recordWindow s) ↔ GrantLaw s := GrantLaw_congr (by simp) (by simp)

@[simp] theorem GrantLaw_prefillWindow (s : State)  : GrantLaw (prefillWindow s) ↔ GrantLaw s := GrantLaw_congr (by simp) (by simp)

@[simp] theorem GrantLaw_valvesWindow (s : State)  : GrantLaw (valvesWindow s) ↔ GrantLaw s := GrantLaw_congr (by simp) (by simp)

@[simp] theorem GrantLaw_widthUpdate (s : State)  : GrantLaw (widthUpdate s) ↔ GrantLaw s := GrantLaw_congr (by simp) (by simp)

@[simp] theorem GrantLaw_sampleSide (s : State) (sd : Side) : GrantLaw (sampleSide sd s) ↔ GrantLaw s := GrantLaw_congr (by simp) (by simp)

@[simp] theorem GrantLaw_levellingRound (s : State)  : GrantLaw (levellingRound s) ↔ GrantLaw s := GrantLaw_congr (by simp) (by simp)

@[simp] theorem GrantLaw_engageSide (s : State) (p : Port) (sd : Side) : GrantLaw (engageSide p sd s) ↔ GrantLaw s := GrantLaw_congr (by simp) (by simp)

@[simp] theorem GrantLaw_disengageSide (s : State) (p : Port) (sd : Side) : GrantLaw (disengageSide p sd s) ↔ GrantLaw s := GrantLaw_congr (by simp) (by simp)

@[simp] theorem GrantLaw_setZeroSide (s : State) (p : Port) (sd : Side) : GrantLaw (setZeroSide p sd s) ↔ GrantLaw s := GrantLaw_congr (by simp) (by simp)

@[simp] theorem GrantLaw_jogSide (s : State) (p : Port) (dir : Direction) (duty : Word) (sd : Side) : GrantLaw (jogSide p dir duty sd s) ↔ GrantLaw s := GrantLaw_congr (by simp) (by simp)

@[simp] theorem GrantLaw_feedTick (s : State)  : GrantLaw (feedTick s) ↔ GrantLaw s := GrantLaw_congr (by simp) (by simp)

@[simp] theorem GrantLaw_clearDrive (s : State) (p : Port) (d : Drive) : GrantLaw (clearDrive p d s) ↔ GrantLaw s := GrantLaw_congr (by simp) (by simp)

@[simp] theorem GrantLaw_slowRound (s : State)  : GrantLaw (slowRound s) ↔ GrantLaw s := GrantLaw_congr (by simp) (by simp)

@[simp] theorem GrantLaw_writeResult (s : State) (c : Fin 34) (tag count : Nat) : GrantLaw (writeResult s c tag count) ↔ GrantLaw s := GrantLaw_congr (by simp) (by simp)

@[simp] theorem GrantLaw_postEntry (s : State) (p : Port) (e : PostEntry) : GrantLaw (postEntry p e s) ↔ GrantLaw s := GrantLaw_congr (by simp) (by simp)

@[simp] theorem GrantLaw_refModeApplied (s : State) (sd : Side) (old : RefMode) : GrantLaw (refModeApplied sd old s) ↔ GrantLaw s := GrantLaw_congr (by simp) (by simp)

@[simp] theorem GrantLaw_dutyApplied (s : State) (sd : Side) : GrantLaw (dutyApplied sd s) ↔ GrantLaw s := GrantLaw_congr (by simp) (by simp)

@[simp] theorem GrantLaw_popEntry (s : State) (p : Port) (rest : List PostEntry) : GrantLaw (popEntry p rest s) ↔ GrantLaw s := GrantLaw_congr (by simp) (by simp)

@[simp] theorem GrantLaw_rejectEntry (s : State) (p : Port) (e : PostEntry) : GrantLaw (rejectEntry p e s) ↔ GrantLaw s := GrantLaw_congr (by simp) (by simp)

@[simp] theorem GrantLaw_goAbsent (s : State) (p : Port) : GrantLaw (goAbsent p s) ↔ GrantLaw s := GrantLaw_congr (by simp) (by simp)

@[simp] theorem GrantLaw_restartLevelling (s : State)  : GrantLaw (restartLevelling s) ↔ GrantLaw s := GrantLaw_congr (by simp) (by simp)

@[simp] theorem GrantLaw_passTick (s : State)  : GrantLaw (passTick s) ↔ GrantLaw s := GrantLaw_congr (by simp) (by simp)

theorem DemandLaw_congr {s t : State} (h0 : t.zones = s.zones) : DemandLaw t ↔ DemandLaw s := by
  unfold DemandLaw; simp only [h0]

@[simp] theorem DemandLaw_withTravel (s : State) (x) : DemandLaw (s.withTravel x) ↔ DemandLaw s := Iff.rfl

@[simp] theorem DemandLaw_withSeq (s : State) (x) : DemandLaw (s.withSeq x) ↔ DemandLaw s := Iff.rfl

@[simp] theorem DemandLaw_withLev (s : State) (x) : DemandLaw (s.withLev x) ↔ DemandLaw s := Iff.rfl

@[simp] theorem DemandLaw_withFeed (s : State) (x) : DemandLaw (s.withFeed x) ↔ DemandLaw s := Iff.rfl

@[simp] theorem DemandLaw_withHeat (s : State) (x) : DemandLaw (s.withHeat x) ↔ DemandLaw s := Iff.rfl

@[simp] theorem DemandLaw_withScan (s : State) (x) : DemandLaw (s.withScan x) ↔ DemandLaw s := Iff.rfl

@[simp] theorem DemandLaw_withRecord (s : State) (x) : DemandLaw (s.withRecord x) ↔ DemandLaw s := Iff.rfl

@[simp] theorem DemandLaw_withStore (s : State) (x) : DemandLaw (s.withStore x) ↔ DemandLaw s := Iff.rfl

@[simp] theorem DemandLaw_withSettings (s : State) (x) : DemandLaw (s.withSettings x) ↔ DemandLaw s := Iff.rfl

@[simp] theorem DemandLaw_withPorts (s : State) (x) : DemandLaw (s.withPorts x) ↔ DemandLaw s := Iff.rfl

@[simp] theorem DemandLaw_withTimers (s : State) (x) : DemandLaw (s.withTimers x) ↔ DemandLaw s := Iff.rfl

@[simp] theorem DemandLaw_withPins (s : State) (x) : DemandLaw (s.withPins x) ↔ DemandLaw s := Iff.rfl

@[simp] theorem DemandLaw_withNow (s : State) (x) : DemandLaw (s.withNow x) ↔ DemandLaw s := Iff.rfl

@[simp] theorem DemandLaw_withFree (s : State) (x) : DemandLaw (s.withFree x) ↔ DemandLaw s := Iff.rfl

@[simp] theorem DemandLaw_withPending (s : State) (x) : DemandLaw (s.withPending x) ↔ DemandLaw s := Iff.rfl

@[simp] theorem DemandLaw_raiseOn (s : State) (on : Port → Bool) (k : AlertKind) : DemandLaw (raiseOn on k s) ↔ DemandLaw s := DemandLaw_congr (by simp)

@[simp] theorem DemandLaw_raiseAll (s : State) (k : AlertKind) : DemandLaw (raiseAll k s) ↔ DemandLaw s := DemandLaw_congr (by simp)

@[simp] theorem DemandLaw_raiseOthers (s : State) (p : Port) (k : AlertKind) : DemandLaw (raiseOthers p k s) ↔ DemandLaw s := DemandLaw_congr (by simp)

@[simp] theorem DemandLaw_raiseAllIf (s : State) (c : Bool) (k : AlertKind) : DemandLaw (raiseAllIf c k s) ↔ DemandLaw s := DemandLaw_congr (by simp)

@[simp] theorem DemandLaw_report (s : State) (f : OpenRecord → OpenRecord) : DemandLaw (report f s) ↔ DemandLaw s := DemandLaw_congr (by simp)

@[simp] theorem DemandLaw_reportFlags (s : State) (f : RecordFlags → RecordFlags) : DemandLaw (reportFlags f s) ↔ DemandLaw s := DemandLaw_congr (by simp)

@[simp] theorem DemandLaw_reportStarved (s : State) (z : ZoneSet) : DemandLaw (reportStarved z s) ↔ DemandLaw s := DemandLaw_congr (by simp)

@[simp] theorem DemandLaw_reportFaulted (s : State) (z : ZoneSet) : DemandLaw (reportFaulted z s) ↔ DemandLaw s := DemandLaw_congr (by simp)

@[simp] theorem DemandLaw_reportTrip (s : State)  : DemandLaw (reportTrip s) ↔ DemandLaw s := DemandLaw_congr (by simp)

@[simp] theorem DemandLaw_State_reach (s : State) (due : Nat) : DemandLaw (s.reach due) ↔ DemandLaw s := DemandLaw_congr (by simp)

@[simp] theorem DemandLaw_State_reachOpt (s : State) (due : Option Nat) : DemandLaw (s.reachOpt due) ↔ DemandLaw s := DemandLaw_congr (by simp)

@[simp] theorem DemandLaw_State_modifyPort (s : State) (p : Port) (f : PortState → PortState) : DemandLaw (s.modifyPort p f) ↔ DemandLaw s := DemandLaw_congr (by simp)

@[simp] theorem DemandLaw_heard (s : State) (p : Port) : DemandLaw (heard p s) ↔ DemandLaw s := DemandLaw_congr (by simp)

@[simp] theorem DemandLaw_takeRequest (s : State) (p : Port) : DemandLaw (takeRequest p s) ↔ DemandLaw s := DemandLaw_congr (by simp)

@[simp] theorem DemandLaw_answer (s : State) (p : Port) (a : Answer) : DemandLaw (answer p a s) ↔ DemandLaw s := DemandLaw_congr (by simp)

@[simp] theorem DemandLaw_answerCode (s : State) (p : Port) (c : AnswerCode) : DemandLaw (answerCode p c s) ↔ DemandLaw s := DemandLaw_congr (by simp)

@[simp] theorem DemandLaw_State_modifySide (s : State) (sd : Side) (f : SideUnit → SideUnit) : DemandLaw (s.modifySide sd f) ↔ DemandLaw s := DemandLaw_congr (by simp)

@[simp] theorem DemandLaw_dropSide (s : State) (sd : Side) : DemandLaw (dropSide sd s) ↔ DemandLaw s := DemandLaw_congr (by simp)

@[simp] theorem DemandLaw_dropSideAndJog (s : State) (sd : Side) : DemandLaw (dropSideAndJog sd s) ↔ DemandLaw s := DemandLaw_congr (by simp)

@[simp] theorem DemandLaw_autoValvesZero (s : State)  : DemandLaw (autoValvesZero s) ↔ DemandLaw s := DemandLaw_congr (by simp)

@[simp] theorem DemandLaw_State_modifyDrive (s : State) (d : Drive) (f : DriveUnit → DriveUnit) : DemandLaw (s.modifyDrive d f) ↔ DemandLaw s := DemandLaw_congr (by simp)

@[simp] theorem DemandLaw_fetchFromD (s : State)  : DemandLaw (fetchFromD s) ↔ DemandLaw s := DemandLaw_congr (by simp)

@[simp] theorem DemandLaw_releaseFromD (s : State) (n : Nat) : DemandLaw (releaseFromD n s) ↔ DemandLaw s := DemandLaw_congr (by simp)

@[simp] theorem DemandLaw_openRecord (s : State)  : DemandLaw (openRecord s) ↔ DemandLaw s := DemandLaw_congr (by simp)

@[simp] theorem DemandLaw_storeRecord (s : State) (h : Header) (pause : Nat) (columns : List Word) : DemandLaw ((storeRecord h pause columns s).1) ↔ DemandLaw s := DemandLaw_congr (by simp)

@[simp] theorem DemandLaw_recordWindow (s : State)  : DemandLaw (recordWindow s) ↔ DemandLaw s := DemandLaw_congr (by simp)

@[simp] theorem DemandLaw_prefillWindow (s : State)  : DemandLaw (prefillWindow s) ↔ DemandLaw s := DemandLaw_congr (by simp)

@[simp] theorem DemandLaw_valvesWindow (s : State)  : DemandLaw (valvesWindow s) ↔ DemandLaw s := DemandLaw_congr (by simp)

@[simp] theorem DemandLaw_widthUpdate (s : State)  : DemandLaw (widthUpdate s) ↔ DemandLaw s := DemandLaw_congr (by simp)

@[simp] theorem DemandLaw_sampleSide (s : State) (sd : Side) : DemandLaw (sampleSide sd s) ↔ DemandLaw s := DemandLaw_congr (by simp)

@[simp] theorem DemandLaw_levellingRound (s : State)  : DemandLaw (levellingRound s) ↔ DemandLaw s := DemandLaw_congr (by simp)

@[simp] theorem DemandLaw_engageSide (s : State) (p : Port) (sd : Side) : DemandLaw (engageSide p sd s) ↔ DemandLaw s := DemandLaw_congr (by simp)

@[simp] theorem DemandLaw_disengageSide (s : State) (p : Port) (sd : Side) : DemandLaw (disengageSide p sd s) ↔ DemandLaw s := DemandLaw_congr (by simp)

@[simp] theorem DemandLaw_setZeroSide (s : State) (p : Port) (sd : Side) : DemandLaw (setZeroSide p sd s) ↔ DemandLaw s := DemandLaw_congr (by simp)

@[simp] theorem DemandLaw_jogSide (s : State) (p : Port) (dir : Direction) (duty : Word) (sd : Side) : DemandLaw (jogSide p dir duty sd s) ↔ DemandLaw s := DemandLaw_congr (by simp)

@[simp] theorem DemandLaw_feedTick (s : State)  : DemandLaw (feedTick s) ↔ DemandLaw s := DemandLaw_congr (by simp)

@[simp] theorem DemandLaw_feedLoad (s : State)  : DemandLaw (feedLoad s) ↔ DemandLaw s := DemandLaw_congr (by simp)

@[simp] theorem DemandLaw_feedRound (s : State)  : DemandLaw (feedRound s) ↔ DemandLaw s := DemandLaw_congr (by simp)

@[simp] theorem DemandLaw_clearDrive (s : State) (p : Port) (d : Drive) : DemandLaw (clearDrive p d s) ↔ DemandLaw s := DemandLaw_congr (by simp)

@[simp] theorem DemandLaw_slowRound (s : State)  : DemandLaw (slowRound s) ↔ DemandLaw s := DemandLaw_congr (by simp)

@[simp] theorem DemandLaw_mediumRound (s : State)  : DemandLaw (mediumRound s) ↔ DemandLaw s := DemandLaw_congr (by simp)

@[simp] theorem DemandLaw_roundCompletion (s : State) (cls : SampleClass) : DemandLaw (roundCompletion cls s) ↔ DemandLaw s := DemandLaw_congr (by simp)

@[simp] theorem DemandLaw_writeResult (s : State) (c : Fin 34) (tag count : Nat) : DemandLaw (writeResult s c tag count) ↔ DemandLaw s := DemandLaw_congr (by simp)

@[simp] theorem DemandLaw_postEntry (s : State) (p : Port) (e : PostEntry) : DemandLaw (postEntry p e s) ↔ DemandLaw s := DemandLaw_congr (by simp)

@[simp] theorem DemandLaw_refModeApplied (s : State) (sd : Side) (old : RefMode) : DemandLaw (refModeApplied sd old s) ↔ DemandLaw s := DemandLaw_congr (by simp)

@[simp] theorem DemandLaw_dutyApplied (s : State) (sd : Side) : DemandLaw (dutyApplied sd s) ↔ DemandLaw s := DemandLaw_congr (by simp)

@[simp] theorem DemandLaw_capacityApplied (s : State)  : DemandLaw (capacityApplied s) ↔ DemandLaw s := DemandLaw_congr (by simp)

@[simp] theorem DemandLaw_popEntry (s : State) (p : Port) (rest : List PostEntry) : DemandLaw (popEntry p rest s) ↔ DemandLaw s := DemandLaw_congr (by simp)

@[simp] theorem DemandLaw_rejectEntry (s : State) (p : Port) (e : PostEntry) : DemandLaw (rejectEntry p e s) ↔ DemandLaw s := DemandLaw_congr (by simp)

@[simp] theorem DemandLaw_goAbsent (s : State) (p : Port) : DemandLaw (goAbsent p s) ↔ DemandLaw s := DemandLaw_congr (by simp)

@[simp] theorem DemandLaw_restartLevelling (s : State)  : DemandLaw (restartLevelling s) ↔ DemandLaw s := DemandLaw_congr (by simp)

@[simp] theorem DemandLaw_passTick (s : State)  : DemandLaw (passTick s) ↔ DemandLaw s := DemandLaw_congr (by simp)

theorem RecordLaw_congr {s t : State} (h0 : t.scan = s.scan) (h1 : t.record = s.record) (h2 : t.settings = s.settings) (h3 : t.travel = s.travel) : RecordLaw t ↔ RecordLaw s := by
  unfold RecordLaw; simp only [h0, h1, h2, h3]

@[simp] theorem RecordLaw_withSeq (s : State) (x) : RecordLaw (s.withSeq x) ↔ RecordLaw s := Iff.rfl

@[simp] theorem RecordLaw_withLev (s : State) (x) : RecordLaw (s.withLev x) ↔ RecordLaw s := Iff.rfl

@[simp] theorem RecordLaw_withFeed (s : State) (x) : RecordLaw (s.withFeed x) ↔ RecordLaw s := Iff.rfl

@[simp] theorem RecordLaw_withHeat (s : State) (x) : RecordLaw (s.withHeat x) ↔ RecordLaw s := Iff.rfl

@[simp] theorem RecordLaw_withZones (s : State) (x) : RecordLaw (s.withZones x) ↔ RecordLaw s := Iff.rfl

@[simp] theorem RecordLaw_withStore (s : State) (x) : RecordLaw (s.withStore x) ↔ RecordLaw s := Iff.rfl

@[simp] theorem RecordLaw_withPorts (s : State) (x) : RecordLaw (s.withPorts x) ↔ RecordLaw s := Iff.rfl

@[simp] theorem RecordLaw_withTimers (s : State) (x) : RecordLaw (s.withTimers x) ↔ RecordLaw s := Iff.rfl

@[simp] theorem RecordLaw_withPins (s : State) (x) : RecordLaw (s.withPins x) ↔ RecordLaw s := Iff.rfl

@[simp] theorem RecordLaw_withNow (s : State) (x) : RecordLaw (s.withNow x) ↔ RecordLaw s := Iff.rfl

@[simp] theorem RecordLaw_withFree (s : State) (x) : RecordLaw (s.withFree x) ↔ RecordLaw s := Iff.rfl

@[simp] theorem RecordLaw_withPending (s : State) (x) : RecordLaw (s.withPending x) ↔ RecordLaw s := Iff.rfl

@[simp] theorem RecordLaw_raiseOn (s : State) (on : Port → Bool) (k : AlertKind) : RecordLaw (raiseOn on k s) ↔ RecordLaw s := RecordLaw_congr (by simp) (by simp) (by simp) (by simp)

@[simp] theorem RecordLaw_raiseAll (s : State) (k : AlertKind) : RecordLaw (raiseAll k s) ↔ RecordLaw s := RecordLaw_congr (by simp) (by simp) (by simp) (by simp)

@[simp] theorem RecordLaw_raiseOthers (s : State) (p : Port) (k : AlertKind) : RecordLaw (raiseOthers p k s) ↔ RecordLaw s := RecordLaw_congr (by simp) (by simp) (by simp) (by simp)

@[simp] theorem RecordLaw_raiseAllIf (s : State) (c : Bool) (k : AlertKind) : RecordLaw (raiseAllIf c k s) ↔ RecordLaw s := RecordLaw_congr (by simp) (by simp) (by simp) (by simp)

@[simp] theorem RecordLaw_State_reach (s : State) (due : Nat) : RecordLaw (s.reach due) ↔ RecordLaw s := RecordLaw_congr (by simp) (by simp) (by simp) (by simp)

@[simp] theorem RecordLaw_State_reachOpt (s : State) (due : Option Nat) : RecordLaw (s.reachOpt due) ↔ RecordLaw s := RecordLaw_congr (by simp) (by simp) (by simp) (by simp)

@[simp] theorem RecordLaw_State_modifyPort (s : State) (p : Port) (f : PortState → PortState) : RecordLaw (s.modifyPort p f) ↔ RecordLaw s := RecordLaw_congr (by simp) (by simp) (by simp) (by simp)

@[simp] theorem RecordLaw_heard (s : State) (p : Port) : RecordLaw (heard p s) ↔ RecordLaw s := RecordLaw_congr (by simp) (by simp) (by simp) (by simp)

@[simp] theorem RecordLaw_takeRequest (s : State) (p : Port) : RecordLaw (takeRequest p s) ↔ RecordLaw s := RecordLaw_congr (by simp) (by simp) (by simp) (by simp)

@[simp] theorem RecordLaw_answer (s : State) (p : Port) (a : Answer) : RecordLaw (answer p a s) ↔ RecordLaw s := RecordLaw_congr (by simp) (by simp) (by simp) (by simp)

@[simp] theorem RecordLaw_answerCode (s : State) (p : Port) (c : AnswerCode) : RecordLaw (answerCode p c s) ↔ RecordLaw s := RecordLaw_congr (by simp) (by simp) (by simp) (by simp)

@[simp] theorem RecordLaw_State_modifySide (s : State) (sd : Side) (f : SideUnit → SideUnit) : RecordLaw (s.modifySide sd f) ↔ RecordLaw s := RecordLaw_congr (by simp) (by simp) (by simp) (by simp)

@[simp] theorem RecordLaw_dropSide (s : State) (sd : Side) : RecordLaw (dropSide sd s) ↔ RecordLaw s := RecordLaw_congr (by simp) (by simp) (by simp) (by simp)

@[simp] theorem RecordLaw_dropSideAndJog (s : State) (sd : Side) : RecordLaw (dropSideAndJog sd s) ↔ RecordLaw s := RecordLaw_congr (by simp) (by simp) (by simp) (by simp)

@[simp] theorem RecordLaw_autoValvesZero (s : State)  : RecordLaw (autoValvesZero s) ↔ RecordLaw s := RecordLaw_congr (by simp) (by simp) (by simp) (by simp)

@[simp] theorem RecordLaw_State_modifyDrive (s : State) (d : Drive) (f : DriveUnit → DriveUnit) : RecordLaw (s.modifyDrive d f) ↔ RecordLaw s := RecordLaw_congr (by simp) (by simp) (by simp) (by simp)

@[simp] theorem RecordLaw_fetchFromD (s : State)  : RecordLaw (fetchFromD s) ↔ RecordLaw s := RecordLaw_congr (by simp) (by simp) (by simp) (by simp)

@[simp] theorem RecordLaw_releaseFromD (s : State) (n : Nat) : RecordLaw (releaseFromD n s) ↔ RecordLaw s := RecordLaw_congr (by simp) (by simp) (by simp) (by simp)

@[simp] theorem RecordLaw_boostZones (s : State) (z : ZoneSet) : RecordLaw (boostZones z s) ↔ RecordLaw s := RecordLaw_congr (by simp) (by simp) (by simp) (by simp)

@[simp] theorem RecordLaw_storeRecord (s : State) (h : Header) (pause : Nat) (columns : List Word) : RecordLaw ((storeRecord h pause columns s).1) ↔ RecordLaw s := RecordLaw_congr (by simp) (by simp) (by simp) (by simp)

@[simp] theorem RecordLaw_prefillWindow (s : State)  : RecordLaw (prefillWindow s) ↔ RecordLaw s := RecordLaw_congr (by simp) (by simp) (by simp) (by simp)

@[simp] theorem RecordLaw_valvesWindow (s : State)  : RecordLaw (valvesWindow s) ↔ RecordLaw s := RecordLaw_congr (by simp) (by simp) (by simp) (by simp)

@[simp] theorem RecordLaw_sampleSide (s : State) (sd : Side) : RecordLaw (sampleSide sd s) ↔ RecordLaw s := RecordLaw_congr (by simp) (by simp) (by simp) (by simp)

@[simp] theorem RecordLaw_levellingRound (s : State)  : RecordLaw (levellingRound s) ↔ RecordLaw s := RecordLaw_congr (by simp) (by simp) (by simp) (by simp)

@[simp] theorem RecordLaw_engageSide (s : State) (p : Port) (sd : Side) : RecordLaw (engageSide p sd s) ↔ RecordLaw s := RecordLaw_congr (by simp) (by simp) (by simp) (by simp)

@[simp] theorem RecordLaw_disengageSide (s : State) (p : Port) (sd : Side) : RecordLaw (disengageSide p sd s) ↔ RecordLaw s := RecordLaw_congr (by simp) (by simp) (by simp) (by simp)

@[simp] theorem RecordLaw_jogSide (s : State) (p : Port) (dir : Direction) (duty : Word) (sd : Side) : RecordLaw (jogSide p dir duty sd s) ↔ RecordLaw s := RecordLaw_congr (by simp) (by simp) (by simp) (by simp)

@[simp] theorem RecordLaw_feedTick (s : State)  : RecordLaw (feedTick s) ↔ RecordLaw s := RecordLaw_congr (by simp) (by simp) (by simp) (by simp)

@[simp] theorem RecordLaw_feedLoad (s : State)  : RecordLaw (feedLoad s) ↔ RecordLaw s := RecordLaw_congr (by simp) (by simp) (by simp) (by simp)

@[simp] theorem RecordLaw_feedRound (s : State)  : RecordLaw (feedRound s) ↔ RecordLaw s := RecordLaw_congr (by simp) (by simp) (by simp) (by simp)

@[simp] theorem RecordLaw_clearDrive (s : State) (p : Port) (d : Drive) : RecordLaw (clearDrive p d s) ↔ RecordLaw s := RecordLaw_congr (by simp) (by simp) (by simp) (by simp)

@[simp] theorem RecordLaw_State_mapZones (s : State) (f : Fin 12 → ZoneUnit → ZoneUnit) : RecordLaw (s.mapZones f) ↔ RecordLaw s := RecordLaw_congr (by simp) (by simp) (by simp) (by simp)

@[simp] theorem RecordLaw_outputsOff (s : State)  : RecordLaw (outputsOff s) ↔ RecordLaw s := RecordLaw_congr (by simp) (by simp) (by simp) (by simp)

@[simp] theorem RecordLaw_clearZone (s : State) (p : Port) (k : Fin 12) : RecordLaw (clearZone p k s) ↔ RecordLaw s := RecordLaw_congr (by simp) (by simp) (by simp) (by simp)

@[simp] theorem RecordLaw_startSlice (s : State)  : RecordLaw (startSlice s) ↔ RecordLaw s := RecordLaw_congr (by simp) (by simp) (by simp) (by simp)

@[simp] theorem RecordLaw_cutGrants (s : State)  : RecordLaw (cutGrants s) ↔ RecordLaw s := RecordLaw_congr (by simp) (by simp) (by simp) (by simp)

@[simp] theorem RecordLaw_stopHeating (s : State)  : RecordLaw (stopHeating s) ↔ RecordLaw s := RecordLaw_congr (by simp) (by simp) (by simp) (by simp)

@[simp] theorem RecordLaw_tripRunning (s : State)  : RecordLaw (tripRunning s) ↔ RecordLaw s := RecordLaw_congr (by simp) (by simp) (by simp) (by simp)

@[simp] theorem RecordLaw_writeResult (s : State) (c : Fin 34) (tag count : Nat) : RecordLaw (writeResult s c tag count) ↔ RecordLaw s := RecordLaw_congr (by simp) (by simp) (by simp) (by simp)

@[simp] theorem RecordLaw_postEntry (s : State) (p : Port) (e : PostEntry) : RecordLaw (postEntry p e s) ↔ RecordLaw s := RecordLaw_congr (by simp) (by simp) (by simp) (by simp)

@[simp] theorem RecordLaw_refModeApplied (s : State) (sd : Side) (old : RefMode) : RecordLaw (refModeApplied sd old s) ↔ RecordLaw s := RecordLaw_congr (by simp) (by simp) (by simp) (by simp)

@[simp] theorem RecordLaw_dutyApplied (s : State) (sd : Side) : RecordLaw (dutyApplied sd s) ↔ RecordLaw s := RecordLaw_congr (by simp) (by simp) (by simp) (by simp)

@[simp] theorem RecordLaw_capacityApplied (s : State)  : RecordLaw (capacityApplied s) ↔ RecordLaw s := RecordLaw_congr (by simp) (by simp) (by simp) (by simp)

@[simp] theorem RecordLaw_popEntry (s : State) (p : Port) (rest : List PostEntry) : RecordLaw (popEntry p rest s) ↔ RecordLaw s := RecordLaw_congr (by simp) (by simp) (by simp) (by simp)

@[simp] theorem RecordLaw_rejectEntry (s : State) (p : Port) (e : PostEntry) : RecordLaw (rejectEntry p e s) ↔ RecordLaw s := RecordLaw_congr (by simp) (by simp) (by simp) (by simp)

@[simp] theorem RecordLaw_goAbsent (s : State) (p : Port) : RecordLaw (goAbsent p s) ↔ RecordLaw s := RecordLaw_congr (by simp) (by simp) (by simp) (by simp)

@[simp] theorem RecordLaw_restartLevelling (s : State)  : RecordLaw (restartLevelling s) ↔ RecordLaw s := RecordLaw_congr (by simp) (by simp) (by simp) (by simp)

@[simp] theorem RecordLaw_passTick (s : State)  : RecordLaw (passTick s) ↔ RecordLaw s := RecordLaw_congr (by simp) (by simp) (by simp) (by simp)

theorem StoreLaw_congr {s t : State} (h0 : t.store = s.store) (h1 : t.record = s.record) : StoreLaw t ↔ StoreLaw s := by
  unfold StoreLaw; simp only [h0, h1, nextStored]

@[simp] theorem StoreLaw_withTravel (s : State) (x) : StoreLaw (s.withTravel x) ↔ StoreLaw s := Iff.rfl

@[simp] theorem StoreLaw_withSeq (s : State) (x) : StoreLaw (s.withSeq x) ↔ StoreLaw s := Iff.rfl

@[simp] theorem StoreLaw_withLev (s : State) (x) : StoreLaw (s.withLev x) ↔ StoreLaw s := Iff.rfl

@[simp] theorem StoreLaw_withFeed (s : State) (x) : StoreLaw (s.withFeed x) ↔ StoreLaw s := Iff.rfl

@[simp] theorem StoreLaw_withHeat (s : State) (x) : StoreLaw (s.withHeat x) ↔ StoreLaw s := Iff.rfl

@[simp] theorem StoreLaw_withZones (s : State) (x) : StoreLaw (s.withZones x) ↔ StoreLaw s := Iff.rfl

@[simp] theorem StoreLaw_withScan (s : State) (x) : StoreLaw (s.withScan x) ↔ StoreLaw s := Iff.rfl

@[simp] theorem StoreLaw_withSettings (s : State) (x) : StoreLaw (s.withSettings x) ↔ StoreLaw s := Iff.rfl

@[simp] theorem StoreLaw_withPorts (s : State) (x) : StoreLaw (s.withPorts x) ↔ StoreLaw s := Iff.rfl

@[simp] theorem StoreLaw_withTimers (s : State) (x) : StoreLaw (s.withTimers x) ↔ StoreLaw s := Iff.rfl

@[simp] theorem StoreLaw_withPins (s : State) (x) : StoreLaw (s.withPins x) ↔ StoreLaw s := Iff.rfl

@[simp] theorem StoreLaw_withNow (s : State) (x) : StoreLaw (s.withNow x) ↔ StoreLaw s := Iff.rfl

@[simp] theorem StoreLaw_withFree (s : State) (x) : StoreLaw (s.withFree x) ↔ StoreLaw s := Iff.rfl

@[simp] theorem StoreLaw_withPending (s : State) (x) : StoreLaw (s.withPending x) ↔ StoreLaw s := Iff.rfl

@[simp] theorem StoreLaw_raiseOn (s : State) (on : Port → Bool) (k : AlertKind) : StoreLaw (raiseOn on k s) ↔ StoreLaw s := StoreLaw_congr (by simp) (by simp)

@[simp] theorem StoreLaw_raiseAll (s : State) (k : AlertKind) : StoreLaw (raiseAll k s) ↔ StoreLaw s := StoreLaw_congr (by simp) (by simp)

@[simp] theorem StoreLaw_raiseOthers (s : State) (p : Port) (k : AlertKind) : StoreLaw (raiseOthers p k s) ↔ StoreLaw s := StoreLaw_congr (by simp) (by simp)

@[simp] theorem StoreLaw_raiseAllIf (s : State) (c : Bool) (k : AlertKind) : StoreLaw (raiseAllIf c k s) ↔ StoreLaw s := StoreLaw_congr (by simp) (by simp)

@[simp] theorem StoreLaw_State_reach (s : State) (due : Nat) : StoreLaw (s.reach due) ↔ StoreLaw s := StoreLaw_congr (by simp) (by simp)

@[simp] theorem StoreLaw_State_reachOpt (s : State) (due : Option Nat) : StoreLaw (s.reachOpt due) ↔ StoreLaw s := StoreLaw_congr (by simp) (by simp)

@[simp] theorem StoreLaw_State_modifyPort (s : State) (p : Port) (f : PortState → PortState) : StoreLaw (s.modifyPort p f) ↔ StoreLaw s := StoreLaw_congr (by simp) (by simp)

@[simp] theorem StoreLaw_heard (s : State) (p : Port) : StoreLaw (heard p s) ↔ StoreLaw s := StoreLaw_congr (by simp) (by simp)

@[simp] theorem StoreLaw_takeRequest (s : State) (p : Port) : StoreLaw (takeRequest p s) ↔ StoreLaw s := StoreLaw_congr (by simp) (by simp)

@[simp] theorem StoreLaw_answer (s : State) (p : Port) (a : Answer) : StoreLaw (answer p a s) ↔ StoreLaw s := StoreLaw_congr (by simp) (by simp)

@[simp] theorem StoreLaw_answerCode (s : State) (p : Port) (c : AnswerCode) : StoreLaw (answerCode p c s) ↔ StoreLaw s := StoreLaw_congr (by simp) (by simp)

@[simp] theorem StoreLaw_State_modifySide (s : State) (sd : Side) (f : SideUnit → SideUnit) : StoreLaw (s.modifySide sd f) ↔ StoreLaw s := StoreLaw_congr (by simp) (by simp)

@[simp] theorem StoreLaw_dropSide (s : State) (sd : Side) : StoreLaw (dropSide sd s) ↔ StoreLaw s := StoreLaw_congr (by simp) (by simp)

@[simp] theorem StoreLaw_dropSideAndJog (s : State) (sd : Side) : StoreLaw (dropSideAndJog sd s) ↔ StoreLaw s := StoreLaw_congr (by simp) (by simp)

@[simp] theorem StoreLaw_autoValvesZero (s : State)  : StoreLaw (autoValvesZero s) ↔ StoreLaw s := StoreLaw_congr (by simp) (by simp)

@[simp] theorem StoreLaw_State_modifyDrive (s : State) (d : Drive) (f : DriveUnit → DriveUnit) : StoreLaw (s.modifyDrive d f) ↔ StoreLaw s := StoreLaw_congr (by simp) (by simp)

@[simp] theorem StoreLaw_boostZones (s : State) (z : ZoneSet) : StoreLaw (boostZones z s) ↔ StoreLaw s := StoreLaw_congr (by simp) (by simp)

@[simp] theorem StoreLaw_prefillWindow (s : State)  : StoreLaw (prefillWindow s) ↔ StoreLaw s := StoreLaw_congr (by simp) (by simp)

@[simp] theorem StoreLaw_valvesWindow (s : State)  : StoreLaw (valvesWindow s) ↔ StoreLaw s := StoreLaw_congr (by simp) (by simp)

@[simp] theorem StoreLaw_sampleSide (s : State) (sd : Side) : StoreLaw (sampleSide sd s) ↔ StoreLaw s := StoreLaw_congr (by simp) (by simp)

@[simp] theorem StoreLaw_levellingRound (s : State)  : StoreLaw (levellingRound s) ↔ StoreLaw s := StoreLaw_congr (by simp) (by simp)

@[simp] theorem StoreLaw_engageSide (s : State) (p : Port) (sd : Side) : StoreLaw (engageSide p sd s) ↔ StoreLaw s := StoreLaw_congr (by simp) (by simp)

@[simp] theorem StoreLaw_disengageSide (s : State) (p : Port) (sd : Side) : StoreLaw (disengageSide p sd s) ↔ StoreLaw s := StoreLaw_congr (by simp) (by simp)

@[simp] theorem StoreLaw_setZeroSide (s : State) (p : Port) (sd : Side) : StoreLaw (setZeroSide p sd s) ↔ StoreLaw s := StoreLaw_congr (by simp) (by simp)

@[simp] theorem StoreLaw_jogSide (s : State) (p : Port) (dir : Direction) (duty : Word) (sd : Side) : StoreLaw (jogSide p dir duty sd s) ↔ StoreLaw s := StoreLaw_congr (by simp) (by simp)

@[simp] theorem StoreLaw_feedTick (s : State)  : StoreLaw (feedTick s) ↔ StoreLaw s := StoreLaw_congr (by simp) (by simp)

@[simp] theorem StoreLaw_feedLoad (s : State)  : StoreLaw (feedLoad s) ↔ StoreLaw s := StoreLaw_congr (by simp) (by simp)

@[simp] theorem StoreLaw_feedRound (s : State)  : StoreLaw (feedRound s) ↔ StoreLaw s := StoreLaw_congr (by simp) (by simp)

@[simp] theorem StoreLaw_clearDrive (s : State) (p : Port) (d : Drive) : StoreLaw (clearDrive p d s) ↔ StoreLaw s := StoreLaw_congr (by simp) (by simp)

@[simp] theorem StoreLaw_State_mapZones (s : State) (f : Fin 12 → ZoneUnit → ZoneUnit) : StoreLaw (s.mapZones f) ↔ StoreLaw s := StoreLaw_congr (by simp) (by simp)

@[simp] theorem StoreLaw_outputsOff (s : State)  : StoreLaw (outputsOff s) ↔ StoreLaw s := StoreLaw_congr (by simp) (by simp)

@[simp] theorem StoreLaw_clearZone (s : State) (p : Port) (k : Fin 12) : StoreLaw (clearZone p k s) ↔ StoreLaw s := StoreLaw_congr (by simp) (by simp)

@[simp] theorem StoreLaw_startSlice (s : State)  : StoreLaw (startSlice s) ↔ StoreLaw s := StoreLaw_congr (by simp) (by simp)

@[simp] theorem StoreLaw_cutGrants (s : State)  : StoreLaw (cutGrants s) ↔ StoreLaw s := StoreLaw_congr (by simp) (by simp)

@[simp] theorem StoreLaw_stopHeating (s : State)  : StoreLaw (stopHeating s) ↔ StoreLaw s := StoreLaw_congr (by simp) (by simp)

@[simp] theorem StoreLaw_tripRunning (s : State)  : StoreLaw (tripRunning s) ↔ StoreLaw s := StoreLaw_congr (by simp) (by simp)

@[simp] theorem StoreLaw_writeResult (s : State) (c : Fin 34) (tag count : Nat) : StoreLaw (writeResult s c tag count) ↔ StoreLaw s := StoreLaw_congr (by simp) (by simp)

@[simp] theorem StoreLaw_postEntry (s : State) (p : Port) (e : PostEntry) : StoreLaw (postEntry p e s) ↔ StoreLaw s := StoreLaw_congr (by simp) (by simp)

@[simp] theorem StoreLaw_refModeApplied (s : State) (sd : Side) (old : RefMode) : StoreLaw (refModeApplied sd old s) ↔ StoreLaw s := StoreLaw_congr (by simp) (by simp)

@[simp] theorem StoreLaw_dutyApplied (s : State) (sd : Side) : StoreLaw (dutyApplied sd s) ↔ StoreLaw s := StoreLaw_congr (by simp) (by simp)

@[simp] theorem StoreLaw_capacityApplied (s : State)  : StoreLaw (capacityApplied s) ↔ StoreLaw s := StoreLaw_congr (by simp) (by simp)

@[simp] theorem StoreLaw_popEntry (s : State) (p : Port) (rest : List PostEntry) : StoreLaw (popEntry p rest s) ↔ StoreLaw s := StoreLaw_congr (by simp) (by simp)

@[simp] theorem StoreLaw_rejectEntry (s : State) (p : Port) (e : PostEntry) : StoreLaw (rejectEntry p e s) ↔ StoreLaw s := StoreLaw_congr (by simp) (by simp)

@[simp] theorem StoreLaw_goAbsent (s : State) (p : Port) : StoreLaw (goAbsent p s) ↔ StoreLaw s := StoreLaw_congr (by simp) (by simp)

@[simp] theorem StoreLaw_restartLevelling (s : State)  : StoreLaw (restartLevelling s) ↔ StoreLaw s := StoreLaw_congr (by simp) (by simp)

@[simp] theorem StoreLaw_passTick (s : State)  : StoreLaw (passTick s) ↔ StoreLaw s := StoreLaw_congr (by simp) (by simp)

end Sys2Proof.Machine
end

