-- ==== Sys2Proof/Laws/KeptCapacity.lean ====
section
/-! SUPPORT. The operations that touch cycle, slice, derating and trip history keep CapacityLaw. -/

namespace Sys2Proof.Machine

set_option linter.unusedVariables false
set_option linter.unnecessarySeqFocus false
set_option linter.unusedTactic false
set_option linter.unreachableTactic false
set_option linter.unusedSimpArgs false

variable {s : State}

theorem CapacityLaw_heat {u : State} (h : CapacityLaw s) (hc : u.settings.capacity = s.settings.capacity)
   (h1 : u.heat.derate = s.heat.derate) (h2 : u.heat.effective = s.heat.effective) (h3 : u.heat.history = s.heat.history) (h4 : u.heat.cycle = s.heat.cycle) (h5 : u.heat.slice < 32) : CapacityLaw u := by
  unfold CapacityLaw at *; rw [hc,h1,h2,h3,h4]; exact ⟨h.1, h.2.1, h.2.2.1, h.2.2.2.1, h.2.2.2.2.1, h.2.2.2.2.2.1, h5⟩

@[simp] theorem CapacityLaw_feedLoad (h : CapacityLaw s) : CapacityLaw (feedLoad s) :=
  CapacityLaw_heat h rfl rfl rfl rfl rfl h.2.2.2.2.2.2

@[simp] theorem CapacityLaw_feedRound (h : CapacityLaw s) : CapacityLaw (feedRound s) := by simp [feedRound, h]

@[simp] theorem CapacityLaw_mediumRound (h : CapacityLaw s) : CapacityLaw (mediumRound s) := by
  simp only [mediumRound]; split <;> simp (maxDischargeDepth := 20) [h]

@[simp] theorem CapacityLaw_roundCompletion {c} (h : CapacityLaw s) : CapacityLaw (roundCompletion c s) := by
  cases c <;> simp [roundCompletion, h]

@[simp] theorem CapacityLaw_startSlice (h : CapacityLaw s) : CapacityLaw (startSlice s) :=
  CapacityLaw_heat h rfl rfl rfl rfl rfl h.2.2.2.2.2.2

@[simp] theorem CapacityLaw_cutGrants (h : CapacityLaw s) : CapacityLaw (cutGrants s) :=
  CapacityLaw_heat h rfl rfl rfl rfl rfl h.2.2.2.2.2.2

@[simp] theorem CapacityLaw_running (h : CapacityLaw s) (b) : CapacityLaw (s.withHeat { s.heat with running := b }) :=
  CapacityLaw_heat h rfl rfl rfl rfl rfl h.2.2.2.2.2.2

@[simp] theorem CapacityLaw_tripped (h : CapacityLaw s) (b) : CapacityLaw (s.withHeat { s.heat with tripped := b }) :=
  CapacityLaw_heat h rfl rfl rfl rfl rfl h.2.2.2.2.2.2

theorem CapacityLaw_slice (h : CapacityLaw s) (n) (hn : n < 32) : CapacityLaw (s.withHeat { s.heat with slice := n }) :=
  CapacityLaw_heat h rfl rfl rfl rfl rfl hn

theorem CapacityLaw_nextCycle (h : CapacityLaw s) : CapacityLaw (s.withHeat s.heat.nextCycle) := by
  obtain ⟨h1,h2,h3,h4,h5,h6,h7⟩ := h
  refine ⟨h1, h2, ?_, ?_, ?_, ?_, h7⟩
  · exact le_trans (List.length_filter_le _ _) h3
  · exact h4.filter _
  · intro e he
    simp [HeatUnit.nextCycle] at he ⊢
    exact ⟨(h5 e he.1).1, he.2⟩
  · simp [HeatUnit.nextCycle]; omega

@[simp] theorem CapacityLaw_cycleBoundary {b} (h : CapacityLaw s) : CapacityLaw (cycleBoundary b s) := by
  have h1 := CapacityLaw_nextCycle h
  simp only [cycleBoundary]
  apply CapacityLaw_startSlice
  exact CapacityLaw_slice (by simpa using h1) 0 (by omega)

@[simp] theorem CapacityLaw_startHeating (h : CapacityLaw s) : CapacityLaw (startHeating s) := by
  simp (maxDischargeDepth := 10) [startHeating, h]

@[simp] theorem CapacityLaw_stopHeating (h : CapacityLaw s) : CapacityLaw (stopHeating s) := by
  simp (maxDischargeDepth := 10) [stopHeating, h]

@[simp] theorem CapacityLaw_restartHeating (h : CapacityLaw s) : CapacityLaw (restartHeating s) := by
  simp only [restartHeating]; split <;> simp (maxDischargeDepth := 10) [h]

theorem CapacityLaw_enterTrip (h : CapacityLaw s) : CapacityLaw (s.withHeat (s.heat.enterTrip s.settings.capacity)) := by
  obtain ⟨h1,h2,h3,h4,h5,h6,h7⟩ := h
  simp only [HeatUnit.enterTrip]
  split
  · exact ⟨h1,h2,h3,h4,h5,h6,h7⟩
  · rename_i hc
    split
    · refine ⟨h1,h2,?_,?_,?_,h6,h7⟩
      · simp; omega
      · simp at hc ⊢; exact List.nodup_append.2 ⟨h4, by simp, by simp; intro a ha hb; exact hc (hb ▸ ha)⟩
      · intro e he
        simp at he ⊢
        rcases he with he | rfl
        · exact h5 e he
        · refine ⟨h6, by omega⟩
    · refine ⟨?_, rfl, by simp, by simp, by simp, h6, h7⟩
      simp at h1 ⊢
      rcases h1 with h1 | h1 | h1 | h1 | h1 | h1 <;> rw [h1] <;> decide

@[simp] theorem CapacityLaw_tripRunning (h : CapacityLaw s) : CapacityLaw (tripRunning s) := by
  have h1 := CapacityLaw_cutGrants h
  have h2 := CapacityLaw_enterTrip h1
  simp only [tripRunning]; split
  · exact h1
  · simpa using h2

theorem CapacityLaw_capacityApplied (h : CapacityLaw s) (c) (hc : c.settings.capacity = n) (hh : c.heat = s.heat): CapacityLaw (capacityApplied c) := by
  obtain ⟨h1,h2,h3,h4,h5,h6,h7⟩ := h
  refine ⟨by simp [capacityApplied], rfl, by simp [capacityApplied], by simp [capacityApplied], by simp [capacityApplied], ?_, ?_⟩
  · simpa [capacityApplied, hh] using h6
  · simpa [capacityApplied, hh] using h7

@[simp] theorem CapacityLaw_changeToTravel {o} (h : CapacityLaw s) : CapacityLaw (changeToTravel o s) := by
  simp only [changeToTravel]; split <;> simp (maxDischargeDepth := 10) [h]

@[simp] theorem CapacityLaw_modeApplied {o} (h : CapacityLaw s) : CapacityLaw (modeApplied o s) := by
  simp only [modeApplied, modeChanged]; (repeat' split) <;> simp (maxDischargeDepth := 10) [h]

theorem CapacityLaw_withSettings (h : CapacityLaw s) (x : Settings) (hx : x.capacity = s.settings.capacity) : CapacityLaw (s.withSettings x) :=
  CapacityLaw_heat h hx rfl rfl rfl rfl h.2.2.2.2.2.2

@[simp] theorem CapacityLaw_storeSetting {st v} (h : CapacityLaw s) : CapacityLaw (storeSetting st v s) := by
  by_cases hst : st = .writtenCapacity
  · subst hst
    exact CapacityLaw_capacityApplied h _ rfl rfl
  · have h1 : CapacityLaw (s.withSettings (s.settings.write st v)) := by
      apply CapacityLaw_withSettings h
      cases st <;> first | rfl | exact absurd rfl hst
    simp only [storeSetting, settingApplied]
    split <;> (try split) <;> first | contradiction | simp (maxDischargeDepth := 10) [h1]

@[simp] theorem CapacityLaw_setZeroSide {p sd} (h : CapacityLaw s) : CapacityLaw (setZeroSide p sd s) := by
  have h1 : ∀ x, CapacityLaw (s.withSettings { s.settings with sides := x }) := fun x => CapacityLaw_withSettings h _ rfl
  simp only [setZeroSide]; split
  · simp [h]
  · (try dsimp only); (repeat' split) <;> simp [h1]

@[simp] theorem CapacityLaw_restartPart (h : CapacityLaw s) : CapacityLaw (restartPart s) := by
  simp (maxDischargeDepth := 10) [restartPart, h]

end Sys2Proof.Machine
end

