-- ==== Sys2Proof/Laws/KeptDemand.lean ====
section
/-! SUPPORT. The operations that touch the zones' counts keep DemandLaw. -/

namespace Sys2Proof.Machine

set_option linter.unusedVariables false
set_option linter.unnecessarySeqFocus false
set_option linter.unusedTactic false
set_option linter.unreachableTactic false
set_option linter.unusedSimpArgs false

variable {s : State}

/-- What DemandLaw asks of one zone. -/
def ZoneDemandLawful (z : ZoneUnit) : Prop := z.granted + z.remaining = z.demand ∧ z.demand ≤ 32 ∧ z.starved ≤ 32 ∧ z.boost ≤ 2 ∧ z.missed ≤ 255
    ∧ z.openCount ≤ 1 ∧ z.weldCount ≤ 1

theorem DemandLaw_iff (s : State) : DemandLaw s ↔ ∀ k : Fin 12, ZoneDemandLawful s.zones[k] := Iff.rfl

theorem ZoneDemandLawful_map {f : Fin 12 → ZoneUnit → ZoneUnit} (h : DemandLaw s) (hf : ∀ k, ZoneDemandLawful s.zones[k] → ZoneDemandLawful (f k s.zones[k])) : DemandLaw (s.mapZones f) := by
  intro k; simp [State.mapZones]; exact hf k (h k)

theorem ZoneDemandLawful_set {k : Fin 12} {x} (h : DemandLaw s) (hx : ZoneDemandLawful x) : DemandLaw (s.withZones (s.zones.set k x)) := by
  intro j; 
  have : ZoneDemandLawful (s.zones.set k x)[j] := by
    simp [Vector.getElem_set]; split
    · exact hx
    · exact h j
  exact this

theorem startSlice_granted (s : State) (k : Fin 12) : True := trivial

theorem gp_sub (rated a) (l : List (Fin 12)) : ∀ (acc : List (Fin 12) × Nat) k, k ∈ (grantPass rated a l acc).1 → k ∈ acc.1 ∨ k ∈ l := by
  induction l with
  | nil => intro acc k h; exact .inl h
  | cons x l ih =>
    intro acc k h
    simp only [grantPass] at h
    split at h
    · rcases ih _ _ h with h | h
      · simp at h; rcases h with h | h <;> simp [h]
      · simp [h]
    · rcases ih _ _ h with h | h <;> simp [h]

theorem insert_mem (s : State) (a k) (l : List (Fin 12)) : k ∈ insertGrant s a l ↔ k = a ∨ k ∈ l := by
  induction l with
  | nil => simp [insertGrant]
  | cons x l ih => simp only [insertGrant]; split <;> simp [ih]; tauto

theorem order_mem (s : State) (k) : k ∈ grantOrder s ↔ candidate s k = true := by
  have : ∀ l : List (Fin 12), k ∈ l.foldr (insertGrant s) [] ↔ k ∈ l := by
    intro l; induction l with
    | nil => simp
    | cons x l ih => simp [insert_mem, ih]
  simp [grantOrder, this]

theorem setOf_bit {n} (f : Fin n → Bool) (k : Fin n) : (setOf f).getLsbD k.val = f k := by
  simp [setOf]

/-- The zones a slice start grants. -/
def sliceGrants (s : State) : List (Fin 12) := (grantPass (fun k => s.settings.zones[k].rated) (formBudget s).available (grantOrder s) ([], 0)).1

theorem startSlice_zone_of_grants (s : State) (k : Fin 12) : (startSlice s).zones[k] = s.zones[k].startSlice ((sliceGrants s).contains k) := by
  simp [startSlice, State.mapZones, setOf, sliceGrants]

theorem sliceGrants_cand (s : State) (k : Fin 12) (h : k ∈ sliceGrants s) : candidate s k = true := by
  rcases gp_sub _ _ _ _ _ h with h | h
  · simp at h
  · exact (order_mem s k).1 h

@[simp] theorem DemandLaw_startSlice (h : DemandLaw s) : DemandLaw (startSlice s) := by
  intro k
  have := h k
  rw [startSlice_zone_of_grants]
  by_cases hk : k ∈ sliceGrants s
  · have hc := sliceGrants_cand s k hk
    simp [hk, ZoneUnit.startSlice, candidate] at hc ⊢
    obtain ⟨h1,h2⟩ := this
    simp at h1
    refine ⟨?_, h2⟩
    omega
  · simp [hk, ZoneUnit.startSlice]; exact this

@[simp] theorem DemandLaw_outputsOff (h : DemandLaw s) : DemandLaw (outputsOff s) := ZoneDemandLawful_map h fun k hk => hk

@[simp] theorem DemandLaw_cutGrants (h : DemandLaw s) : DemandLaw (cutGrants s) := by simp [cutGrants, h]

@[simp] theorem DemandLaw_closeCycle (h : DemandLaw s) : DemandLaw (closeCycle s) := by
  simp [closeCycle]
  exact ZoneDemandLawful_map h fun k hk => ⟨hk.1, hk.2.1, by have := hk.1; have := hk.2.1; show s.zones[k].remaining ≤ 32; omega, hk.2.2.2⟩

theorem dhu (a b : Nat) (t temp : Int) (ha : 0 < b) (h1 : t - b < temp) (h2 : temp < t) : divHalfUp (32 * (t - temp).toNat) b ≤ 32 := by
  unfold divHalfUp
  have : (t - temp).toNat < b := by omega
  rw [Nat.div_le_iff_le_mul_add_pred (by omega)]
  have : 32 * (t-temp).toNat ≤ 32 * (b-1) := Nat.mul_le_mul_left _ (by omega)
  rw [Nat.mul_comm b 32]
  omega

theorem zoneDemand_le (t a u) : zoneDemand t a u ≤ 32 := by
  unfold zoneDemand
  split
  · omega
  · (repeat' split) <;> try omega
    rename_i temp _ h1 h2
    apply dhu t.band t.band t.setpoint temp <;> omega

@[simp] theorem DemandLaw_cycleStart {b} (h : DemandLaw s) : DemandLaw (cycleStart b s) := by
  have h1 : DemandLaw (if b then closeCycle s else s) := by split <;> simp [h]
  simp only [cycleStart]
  generalize (if b = true then closeCycle s else s) = u at *
  simp
  refine ZoneDemandLawful_map h1 fun k hk => ?_
  obtain ⟨a1,a2,a3,a4,a5,a6,a7⟩ := hk
  have hz := zoneDemand_le u.settings.zones[k] (u.travel.activity.getLsbD k.val) ((u.zones[k].takeTemperature u.seq.results[zoneChannel k]).usable)
  have he : ∀ z d, d ≤ 32 → (evaluateZone z d).2 ≤ 32 := by
    intro z d hd; unfold evaluateZone; (repeat' split) <;> simp <;> omega
  have hv : (u.zones[k].takeTemperature u.seq.results[zoneChannel k]).starved = u.zones[k].starved ∧ (u.zones[k].takeTemperature u.seq.results[zoneChannel k]).boost = u.zones[k].boost ∧ (u.zones[k].takeTemperature u.seq.results[zoneChannel k]).openCount = u.zones[k].openCount ∧ (u.zones[k].takeTemperature u.seq.results[zoneChannel k]).weldCount = u.zones[k].weldCount ∧ (u.zones[k].takeTemperature u.seq.results[zoneChannel k]).missed ≤ 255 := by
    unfold ZoneUnit.takeTemperature; (repeat' split) <;> simp [satAdd] <;> exact a5
  simp only [ZoneDemandLawful, cycleZone, ZoneUnit.startCycle]
  refine ⟨by simp, he _ _ hz, ?_, ?_, ?_, ?_, ?_⟩ <;> omega

@[simp] theorem DemandLaw_cycleBoundary {b} (h : DemandLaw s) : DemandLaw (cycleBoundary b s) := by
  simp (maxDischargeDepth := 10) [cycleBoundary, h]

@[simp] theorem DemandLaw_startHeating (h : DemandLaw s) : DemandLaw (startHeating s) := by
  simp (maxDischargeDepth := 10) [startHeating, h]

@[simp] theorem DemandLaw_stopHeating (h : DemandLaw s) : DemandLaw (stopHeating s) := by
  simp only [stopHeating]
  refine ZoneDemandLawful_map (by simp [h]) fun k hk => ?_
  simp only [ZoneDemandLawful, ZoneUnit.toOff] at *; simp at *; exact ⟨hk.1,hk.2.1,hk.2.2.1,hk.2.2.2.1,hk.2.2.2.2.1⟩

@[simp] theorem DemandLaw_restartHeating (h : DemandLaw s) : DemandLaw (restartHeating s) := by
  have : DemandLaw ((((cutGrants s).withHeat { (cutGrants s).heat with tripped := false }).withTimers
      { (cutGrants s).timers with slice := none, readback := none, heatingWait := none }).mapZones fun _ z => z.restarted) := by
    refine ZoneDemandLawful_map (by simp [h]) fun k hk => ?_
    simp only [ZoneDemandLawful, ZoneUnit.restarted] at *; simp at *; exact ⟨hk.1,hk.2.1,hk.2.2.1,hk.2.2.2.2.1⟩
  simp only [restartHeating]; split
  · exact this
  · exact DemandLaw_startHeating this

@[simp] theorem DemandLaw_tripRunning (h : DemandLaw s) : DemandLaw (tripRunning s) := by
  simp only [tripRunning]; split <;> simp (maxDischargeDepth := 10) [h]

@[simp] theorem DemandLaw_boostZones {z} (h : DemandLaw s) : DemandLaw (boostZones z s) := by
  intro k; have := h k
  simp [boostZones]; split
  · exact ⟨this.1, this.2.1, this.2.2.1, by simp, this.2.2.2.2⟩
  · exact this

@[simp] theorem DemandLaw_closeRecord {a b} (h : DemandLaw s) : DemandLaw (closeRecord a b s) := by
  simp only [closeRecord]; split
  · exact h
  · (try dsimp only); split <;> simp (maxDischargeDepth := 10) [h]

@[simp] theorem DemandLaw_closeByStep (h : DemandLaw s) : DemandLaw (closeByStep s) := by
  simp only [closeByStep]; (repeat' split) <;> simp (maxDischargeDepth := 10) [h]

@[simp] theorem DemandLaw_changeToTravel {o} (h : DemandLaw s) : DemandLaw (changeToTravel o s) := by
  simp only [changeToTravel]; split <;> simp (maxDischargeDepth := 10) [h]

@[simp] theorem DemandLaw_modeApplied {o} (h : DemandLaw s) : DemandLaw (modeApplied o s) := by
  simp only [modeApplied, modeChanged, leavePave]; (repeat' split) <;> simp (maxDischargeDepth := 10) [h]

theorem DemandLaw_disable (h : DemandLaw s) (k : Fin 12) : DemandLaw (s.withZones (s.zones.set k s.zones[k].disable)) := by
  apply ZoneDemandLawful_set h
  unfold ZoneUnit.disable; split; exact h k; exact h k

@[simp] theorem DemandLaw_storeSetting {st v} (h : DemandLaw s) : DemandLaw (storeSetting st v s) := by
  have h1 : DemandLaw (s.withSettings (s.settings.write st v)) := by simpa using h
  simp only [storeSetting, settingApplied]
  split <;> (try split) <;> first | exact h1 | (exact DemandLaw_disable h1 _) | simp (maxDischargeDepth := 10) [h1]

@[simp] theorem DemandLaw_restartPart (h : DemandLaw s) : DemandLaw (restartPart s) := by
  simp (maxDischargeDepth := 10) [restartPart, h]

end Sys2Proof.Machine
end

