-- ==== Sys2Proof/Laws/KeptFeed.lean ====
section
/-! SUPPORT. The operations of the feed unit keep FeedLaw. -/

namespace Sys2Proof.Machine

set_option linter.unusedVariables false
set_option linter.unnecessarySeqFocus false
set_option linter.unusedTactic false
set_option linter.unreachableTactic false
set_option linter.unusedSimpArgs false

variable {s : State}

/-- What FeedLaw asks of one drive in a machine mode. -/
def DriveLawful (u : DriveUnit) (m : Mode) : Prop := u.command ≤ 1000 ∧ u.previous ≤ 1000 ∧ u.lastGoodCurrent ≤ 1000
    ∧ (u.state = .off ∨ u.state = .fault → u.command = 0)
    ∧ (m = .travel → u.state = .off ∨ u.state = .fault)
    ∧ u.overcurrentCount < 3 ∧ u.notRunningCount < 3 ∧ u.runawayCount < 3
    ∧ (u.state = .fault → u.overcurrentCount = 0 ∧ u.notRunningCount = 0
        ∧ u.runawayCount = 0)
    ∧ u.prefillDue.isSome = decide (u.state = .prefill)

theorem FeedLaw_iff : FeedLaw s ↔ (∀ d, DriveLawful (s.feed.get d) s.settings.mode) ∧ s.heat.feedLoad ≤ 3200 := Iff.rfl

theorem FeedLaw_eq {u : State} (h0 : u.feed = s.feed) (h1 : u.settings.mode = s.settings.mode) (h2 : u.heat.feedLoad = s.heat.feedLoad) : FeedLaw u ↔ FeedLaw s := by
  unfold FeedLaw; rw [h0,h1,h2]

theorem FeedLaw_set (h : FeedLaw s) {d x} (hx : DriveLawful x s.settings.mode) : FeedLaw (s.withFeed (s.feed.set d x)) := by
  refine ⟨fun e => ?_, h.2⟩
  show DriveLawful (PerDrive.get _ e) _
  simp only [State.withFeed_feed, PerDrive.get_set]; split
  · exact hx
  · exact h.1 e

theorem FeedLaw_map {f : Drive → DriveUnit → DriveUnit} (h : FeedLaw s) (hx : ∀ d, DriveLawful (f d (s.feed.get d)) s.settings.mode) : FeedLaw (s.withFeed (s.feed.map f)) := by
  refine ⟨fun e => ?_, h.2⟩
  show DriveLawful (PerDrive.get _ e) _
  simp only [State.withFeed_feed, PerDrive.get_map]; exact hx e

@[simp] theorem FeedLaw_startSlice : FeedLaw (startSlice s) ↔ FeedLaw s := FeedLaw_eq (by simp) (by simp) rfl

@[simp] theorem FeedLaw_cutGrants : FeedLaw (cutGrants s) ↔ FeedLaw s := FeedLaw_eq (by simp) (by simp) rfl

@[simp] theorem FeedLaw_cycleBoundary {b} : FeedLaw (cycleBoundary b s) ↔ FeedLaw s := by
  apply FeedLaw_eq (by simp) (by simp)
  simp only [cycleBoundary]
  rw [show ∀ u : State, (startSlice u).heat.feedLoad = u.heat.feedLoad from fun _ => rfl]
  simp [HeatUnit.nextCycle]

@[simp] theorem FeedLaw_heat {x} (h : x.feedLoad = s.heat.feedLoad) : FeedLaw (s.withHeat x) ↔ FeedLaw s := FeedLaw_eq rfl rfl h

@[simp] theorem FeedLaw_startHeating : FeedLaw (startHeating s) ↔ FeedLaw s := by simp [startHeating]

@[simp] theorem FeedLaw_stopHeating : FeedLaw (stopHeating s) ↔ FeedLaw s := FeedLaw_eq (by simp) (by simp) rfl

@[simp] theorem FeedLaw_restartHeating : FeedLaw (restartHeating s) ↔ FeedLaw s := by
  simp only [restartHeating]; split
  · exact FeedLaw_eq (by simp) (by simp) rfl
  · simp

@[simp] theorem FeedLaw_tripRunning : FeedLaw (tripRunning s) ↔ FeedLaw s := by
  simp only [tripRunning]; split
  · simp
  · simp; apply FeedLaw_eq <;> simp
    simp only [HeatUnit.enterTrip]; (repeat' split) <;> rfl

theorem clamp1000 (v : Int) : (clampInt 0 1000 v).toNat ≤ 1000 := by unfold clampInt; (repeat' split) <;> omega

theorem clamp1000' (v : Int) : clampInt 0 1000 v ≤ 1000 := by unfold clampInt; (repeat' split) <;> omega

theorem DriveLawful_tick {u : DriveUnit} {t m mt b hh cc r} (h : DriveLawful u m) (ht : t.manual ≤ 1000) : DriveLawful (u.tick t m mt b hh cc r) m := by
  obtain ⟨h1,h2,h3,h4,h5,h6,h7,h8,h9,h10⟩ := h
  have hraw : ∀ v : DriveUnit, (rawCommand v t m mt b hh).1 ≤ 1000 ∧ (v.state = .off ∨ v.state = .fault → (rawCommand v t m mt b hh).1 = 0) := by
    intro v
    unfold rawCommand clampCommand
    (repeat' split) <;> simp_all
    all_goals (first | exact clamp1000' _)
  have hramp : ∀ st h r, h ≤ 1000 → r ≤ 1000 → ramp st h r ≤ 1000 := by
    intro st h r hh hr; simp [ramp]; (repeat' split) <;> omega
  by_cases hf : u.state = .fault
  · have : u.tick t m mt b hh cc r = { u with command := ramp t.rampStep u.command (rawCommand u t m mt b hh).1, previous := u.command, openLoop := (rawCommand u t m mt b hh).2 } := by
      simp [DriveUnit.tick, hf]
    rw [this]
    refine ⟨hramp _ _ _ h1 (hraw u).1, h1, h3, ?_, h5, h6, h7, h8, h9, h10⟩
    intro ho; simp [(hraw u).2 ho, ramp]
  · have hv : (u.judgeFaults t cc r).state = u.state := rfl
    have hp : (u.judgeFaults t cc r).prefillDue = u.prefillDue := rfl
    have hl : (u.judgeFaults t cc r).lastGoodCurrent = u.lastGoodCurrent := rfl
    have hc' : (u.judgeFaults t cc r).command = u.command := rfl
    simp only [DriveUnit.tick, hf, if_false]
    generalize u.judgeFaults t cc r = v at *
    split
    · exact ⟨by simp [DriveUnit.enterFault], by simp [DriveUnit.enterFault, hc', h1], by simp [DriveUnit.enterFault, hl, h3], by simp [DriveUnit.enterFault], by simp [DriveUnit.enterFault], by simp [DriveUnit.enterFault], by simp [DriveUnit.enterFault], by simp [DriveUnit.enterFault], by simp [DriveUnit.enterFault], by simp [DriveUnit.enterFault]⟩
    · rename_i hc
      have hcnt : v.overcurrentCount < 3 ∧ v.notRunningCount < 3 ∧ v.runawayCount < 3 := by
        have hc : v.faultDue = .none := by by_contra hn; exact hc ⟨hf, hn⟩
        unfold DriveUnit.faultDue at hc
        split at hc
        · cases hc
        · split at hc
          · cases hc
          · split at hc
            · cases hc
            · omega
      refine ⟨hramp _ _ _ h1 (hraw v).1, h1, by simp [hl, h3], ?_, by simpa [hv] using h5, hcnt.1, hcnt.2.1, hcnt.2.2, ?_, by simp [hp, hv, h10]⟩
      · intro ho; simp [(hraw v).2 ho, ramp]
      · simp [hv, hf]

@[simp] theorem FeedLaw_feedTick (hs : SettingsLaw s) (h : FeedLaw s) : FeedLaw (feedTick s) := by
  simp [feedTick]
  apply FeedLaw_map h
  intro d
  exact DriveLawful_tick (h.1 d) (hs.2.2.2.2.2.2.1 d).1

@[simp] theorem FeedLaw_feedLoad (hb : s.settings.busVoltage ≤ 800) (h : FeedLaw s) : FeedLaw (feedLoad s) := by
  have hl : ∀ c (u : DriveUnit), u.lastGoodCurrent ≤ 1000 → loadCurrent c u ≤ 1000 := by
    intro c u hu; unfold loadCurrent; split; exact clamp1000 _; exact hu
  have ht : ∀ c d, loadTerm s.settings.busVoltage { s.feed.get d with lastGoodCurrent := loadCurrent c (s.feed.get d) } ≤ 800 := by
    intro c d
    have h1 := hl c _ (h.1 d).2.2.1
    simp only [loadTerm]
    have : loadCurrent c (s.feed.get d) * s.settings.busVoltage ≤ 1000 * 800 := Nat.mul_le_mul h1 hb
    omega
  refine ⟨?_, ?_⟩
  · intro d
    show DriveLawful (PerDrive.get _ d) _
    simp only [feedLoad, State.withHeat_feed, State.withFeed_feed, PerDrive.get_map]
    obtain ⟨h1,h2,h3,h4⟩ := h.1 d
    exact ⟨h1, h2, hl _ _ h3, h4⟩
  · have a := fun d => ht s.seq.results[currentChannel d] d
    have := a .convL; have := a .convR; have := a .augL; have := a .augR
    simp [feedLoad, PerDrive.map, PerDrive.get] at *
    omega

@[simp] theorem FeedLaw_mediumRound (hs : SettingsLaw s) (h : FeedLaw s) : FeedLaw (mediumRound s) := by
  simp only [mediumRound]; split <;> simp (maxDischargeDepth := 10) [feedRound, h, hs, hs.2.2.1.2]

@[simp] theorem FeedLaw_roundCompletion {c} (hs : SettingsLaw s) (h : FeedLaw s) : FeedLaw (roundCompletion c s) := by
  cases c <;> simp [roundCompletion, h, hs]

theorem DriveLawful_off {u : DriveUnit} {m m'} (h : DriveLawful u m) : DriveLawful u.enterOff m' := by
  obtain ⟨h1,h2,h3,h4,h5,h6,h7,h8,h9,h10⟩ := h
  exact ⟨by simp [DriveUnit.enterOff], h1, h3, fun _ => rfl, fun _ => .inl rfl, h6, h7, h8, by simp [DriveUnit.enterOff], by simp [DriveUnit.enterOff]⟩

theorem DriveLawful_clear {u : DriveUnit} {m m'} (h : DriveLawful u m) : DriveLawful u.clearFault m' := by
  obtain ⟨h1,h2,h3,h4,h5,h6,h7,h8,h9,h10⟩ := h
  exact ⟨by simp [DriveUnit.enterOff, DriveUnit.clearFault], h1, h3, fun _ => rfl, fun _ => .inl rfl, by simp [DriveUnit.clearFault], by simp [DriveUnit.clearFault], by simp [DriveUnit.clearFault], by simp [DriveUnit.clearFault, DriveUnit.enterOff], by simp [DriveUnit.enterOff, DriveUnit.clearFault]⟩

theorem DriveLawful_toTravel {u : DriveUnit} {m m'} (h : DriveLawful u m) : DriveLawful u.toTravel m' := by
  unfold DriveUnit.toTravel; split
  · obtain ⟨h1,h2,h3,h4,h5,h6,h7,h8,h9,h10⟩ := h
    exact ⟨h1,h2,h3,h4,fun _ => .inl (by assumption),h6,h7,h8,h9,h10⟩
  · exact DriveLawful_clear h
  all_goals exact DriveLawful_off h

theorem FeedLaw_changeToTravel {o} {m} (h : ∀ d, DriveLawful (s.feed.get d) m) (hf : s.heat.feedLoad ≤ 3200) : FeedLaw (changeToTravel o s) := by
  have : ∀ u : State, u.heat.feedLoad ≤ 3200 → u.feed = s.feed → FeedLaw (u.withFeed (u.feed.map fun x d => d.toTravel)) := by
    intro u hu hfe
    refine ⟨fun d => ?_, hu⟩
    show DriveLawful (PerDrive.get _ d) _
    simp only [State.withFeed_feed, PerDrive.get_map, hfe]
    exact DriveLawful_toTravel (h d)
  have h2 := this (dropSideAndJog .right (dropSideAndJog .left s)) (by simpa using hf) (by simp)
  simp only [changeToTravel]; split
  · simp; simpa using h2
  · simp; simpa using h2

theorem mode_nottravel {m m'} {u} (h : DriveLawful u m) (hm : m' ≠ .travel) : DriveLawful u m' := by
  obtain ⟨h1,h2,h3,h4,h5,h6⟩ := h
  exact ⟨h1,h2,h3,h4,fun h => absurd h hm,h6⟩

theorem DriveLawful_request {u : DriveUnit} {m r} (h : DriveLawful u m) : DriveLawful (u.applyRequest m r) m := by
  unfold DriveUnit.applyRequest; split
  · exact h
  · rename_i hc; simp at hc
    obtain ⟨h1,h2,h3,h4,h5,h6,h7,h8,h9,h10⟩ := h
    cases r
    · exact DriveLawful_off ⟨h1,h2,h3,h4,h5,h6,h7,h8,h9,h10⟩
    · exact ⟨h1,h2,h3,by simp [DriveUnit.enterRequested],by simp [hc],h6,h7,h8,by simp [DriveUnit.enterRequested],by simp [DriveUnit.enterRequested]⟩
    · exact ⟨h1,h2,h3,by simp [DriveUnit.enterRequested],by simp [hc],h6,h7,h8,by simp [DriveUnit.enterRequested],by simp [DriveUnit.enterRequested]⟩

@[simp] theorem FeedLaw_storeSetting {st v} (h : FeedLaw s) : FeedLaw (storeSetting st v s) := by
  by_cases hst : st = .machineMode
  · subst hst
    simp only [storeSetting, settingApplied, modeApplied, Settings.write]
    have : ∀ m, FeedLaw (if m = s.settings.mode then s.withSettings { s.settings with mode := m } else modeChanged s.settings.mode (s.withSettings { s.settings with mode := m })) := ?_
    · exact this ((Mode.ofCode? v.toNat).getD s.settings.mode)
    intro m
    split
    · rename_i hm
      exact (FeedLaw_eq (s := s) (u := s.withSettings { s.settings with mode := m }) rfl hm rfl).2 h
    · rename_i hm
      cases m
      all_goals simp only [modeChanged, State.withSettings_settings]
      · have : FeedLaw (s.withSettings { s.settings with mode := .standby }) := ⟨fun d => mode_nottravel (h.1 d) (by simp), h.2⟩
        split <;> simp_all [leavePave]
      · have : FeedLaw (s.withSettings { s.settings with mode := .pave }) := ⟨fun d => mode_nottravel (h.1 d) (by simp), h.2⟩
        split <;> simp_all
      · exact FeedLaw_changeToTravel (m := s.settings.mode) (fun d => h.1 d) (by simpa using h.2)
  · have h1 : FeedLaw (s.withSettings (s.settings.write st v)) := by
      refine (FeedLaw_eq (s := s) (u := s.withSettings (s.settings.write st v)) rfl ?_ rfl).2 h
      cases st <;> first | rfl | exact absurd rfl hst
    simp only [storeSetting, settingApplied]
    split <;> (try split) <;> first | exact h1 | contradiction | simp (maxDischargeDepth := 10) [h1]
    · apply FeedLaw_set h1; exact DriveLawful_request (h1.1 _)

@[simp] theorem FeedLaw_setZeroSide {p sd} (h : FeedLaw s) : FeedLaw (setZeroSide p sd s) := by
  have h1 : ∀ x, FeedLaw (s.withSettings { s.settings with sides := x }) := fun x => (FeedLaw_eq rfl rfl rfl).2 h
  simp only [setZeroSide]; split
  · simp [h]
  · (try dsimp only); (repeat' split) <;> simp [h1]

theorem DriveLawful_restart {u : DriveUnit} {m m'} (h : DriveLawful u m) : DriveLawful u.restarted m' := by
  obtain ⟨h1,h2,h3,h4,h5,h6,h7,h8,h9,h10⟩ := h
  exact ⟨by simp [DriveUnit.enterOff, DriveUnit.restarted], h1, h3, fun _ => rfl, fun _ => .inl rfl, by simp [DriveUnit.restarted], by simp [DriveUnit.restarted], by simp [DriveUnit.restarted], by simp [DriveUnit.restarted, DriveUnit.enterOff], by simp [DriveUnit.enterOff, DriveUnit.restarted]⟩

@[simp] theorem FeedLaw_restartPart (h : FeedLaw s) : FeedLaw (restartPart s) := by
  simp (maxDischargeDepth := 10) [restartPart]
  have := FeedLaw_map (s := restartLevelling s) (f := fun _ u => u.restarted) (by simpa using h) fun d => DriveLawful_restart (m := s.settings.mode) (by have : DriveLawful _ _ := h.1 d; simpa using this)
  simpa using this

@[simp] theorem FeedLaw_prefillWindow (h : FeedLaw s) : FeedLaw (prefillWindow s) := by
  unfold prefillWindow; split
  · refine FeedLaw_map h fun d => ?_
    unfold DriveUnit.endPrefill
    split
    · split
      · obtain ⟨h1,h2,h3,h4,h5,h6,h7,h8,h9,h10⟩ := h.1 d
        refine ⟨h1,h2,h3,by simp,?_,h6,h7,h8,by simp,by simp⟩
        intro hm; have := h5 hm; simp_all
      · exact DriveLawful_off (h.1 d)
    · exact h.1 d
  · exact h

end Sys2Proof.Machine
end

