-- ==== Sys2Proof/Laws/KeptGrants.lean ====
section
/-! SUPPORT. The operations that touch grants, outputs and zone states keep GrantLaw. -/

namespace Sys2Proof.Machine

set_option linter.unusedVariables false
set_option linter.unnecessarySeqFocus false
set_option linter.unusedTactic false
set_option linter.unreachableTactic false
set_option linter.unusedSimpArgs false

variable {s : State}

theorem GrantLaw_of {u : State} (h : GrantLaw s) (hr : u.heat.running = s.heat.running) (hg : u.heat.grants = s.heat.grants) (ht : u.heat.tripped = s.heat.tripped)
   (hp : u.heat.grantedPower = s.heat.grantedPower) (hw : u.heat.welded = s.heat.welded) (hb : u.heat.budget = s.heat.budget)
   (hz : ∀ k : Fin 12, (u.zones[k].state = .off ↔ s.zones[k].state = .off) ∧ (u.zones[k].output = true → u.zones[k].state = .heating ∧ s.zones[k].output = true)) : GrantLaw u := by
  unfold GrantLaw at *
  rw [hr, hg, ht, hp, hw, hb]
  exact ⟨fun k => (hz k).1.trans (h.1 k), h.2.1, h.2.2.1, fun k ho => ⟨(h.2.2.2.1 k ((hz k).2 ho).2).1, ((hz k).2 ho).1⟩, h.2.2.2.2⟩

theorem GrantLaw_z {u : State} (h : GrantLaw s) (hh : u.heat = s.heat) 
   (hz : ∀ k : Fin 12, (u.zones[k].state = .off ↔ s.zones[k].state = .off) ∧ (u.zones[k].output = true → u.zones[k].state = .heating ∧ s.zones[k].output = true)) : GrantLaw u :=
  GrantLaw_of h (by rw [hh]) (by rw [hh]) (by rw [hh]) (by rw [hh]) (by rw [hh]) (by rw [hh]) hz

@[simp] theorem GrantLaw_feedLoad (h : GrantLaw s) : GrantLaw (feedLoad s) :=  h

@[simp] theorem GrantLaw_feedRound (h : GrantLaw s) : GrantLaw (feedRound s) := by simp [feedRound, h]

@[simp] theorem GrantLaw_mediumRound (h : GrantLaw s) : GrantLaw (mediumRound s) := by
  simp only [mediumRound]; split <;> simp (maxDischargeDepth := 20) [h]

@[simp] theorem GrantLaw_roundCompletion {c} (h : GrantLaw s) : GrantLaw (roundCompletion c s) := by
  cases c <;> simp [roundCompletion, h]

theorem gp_power (rated a) (l : List (Fin 12)) : ∀ (acc : List (Fin 12) × Nat), (acc.1 = [] → acc.2 = 0) → (acc.1 ≠ [] → (acc.2 : Int) ≤ a) → 
   ((grantPass rated a l acc).1 = [] → (grantPass rated a l acc).2 = 0) ∧ ((grantPass rated a l acc).1 ≠ [] → ((grantPass rated a l acc).2 : Int) ≤ a) := by
  induction l with
  | nil => intro acc h1 h2; exact ⟨h1, h2⟩
  | cons x l ih =>
    intro acc h1 h2
    simp only [grantPass]
    split
    · apply ih <;> simp; assumption
    · exact ih _ h1 h2

theorem grants_zero (l : List (Fin 12)) : (setOf fun k => l.contains k) = 0#12 ↔ l = [] := by
  constructor
  · intro h
    cases l with
    | nil => rfl
    | cons x l =>
      have := setOf_bit (fun k => (x :: l).contains k) x
      rw [h] at this; simp at this
  · rintro rfl; decide

theorem GrantLaw_startSlice (hr : s.heat.running = true) (hz : ∀ k : Fin 12, s.zones[k].state ≠ .off) : GrantLaw (startSlice s) := by
  have hg : (startSlice s).heat.grants = setOf fun k => (sliceGrants s).contains k := rfl
  have hp := gp_power (fun k => s.settings.zones[k].rated) (formBudget s).available (grantOrder s) ([], 0) (by simp) (by simp)
  have hps : (startSlice s).heat.grantedPower = (grantPass (fun k => s.settings.zones[k].rated) (formBudget s).available (grantOrder s) ([], 0)).2 := rfl
  have hst : ∀ z g, (ZoneUnit.startSlice z g).state = z.state := by intro z g; unfold ZoneUnit.startSlice; split <;> rfl
  refine ⟨?_, ?_, ?_, ?_, ?_, ?_⟩
  · intro k; rw [startSlice_zone_of_grants, hst]; simp [startSlice, formBudget, hr]; exact hz k
  · simp [startSlice, formBudget, hr]
  · intro ht
    rw [hg, grants_zero]
    have ht : s.heat.tripped = true := by simpa [startSlice, formBudget] using ht
    refine List.eq_nil_iff_forall_not_mem.2 fun k hk => ?_
    have := sliceGrants_cand s k hk
    simp [candidate, ht] at this
  · intro k
    rw [startSlice_zone_of_grants, hg, setOf_bit, hst]
    by_cases hk : k ∈ sliceGrants s
    · have hc := sliceGrants_cand s k hk
      simp [hk]; simp [candidate] at hc; simp [hc]
    · simp [hk, ZoneUnit.startSlice]
  · rw [hg, grants_zero, hps]; exact hp.1
  · rw [hg, hps]; intro hne
    have := hp.2 (fun h => hne ((grants_zero _).2 h))
    have hw : (startSlice s).heat.welded = (formBudget s).welded := rfl
    have hb : (startSlice s).heat.budget = (formBudget s).budget := rfl
    rw [hw, hb]
    have : (formBudget s).available = ((formBudget s).budget : Int) - (formBudget s).welded := rfl
    omega

theorem cycleStart_notoff {b} (k : Fin 12) : (cycleStart b s).zones[k].state ≠ .off := by
  simp [cycleStart, State.mapZones, cycleZone, ZoneUnit.startCycle, evaluateZone]
  (repeat' split) <;> simp

@[simp] theorem GrantLaw_cycleBoundary {b} (hr : s.heat.running = true) : GrantLaw (cycleBoundary b s) := by
  simp only [cycleBoundary]
  apply GrantLaw_startSlice
  · simp [HeatUnit.nextCycle, hr]
  · intro k; simpa using cycleStart_notoff k

@[simp] theorem GrantLaw_startHeating : GrantLaw (startHeating s) := GrantLaw_cycleBoundary rfl

theorem GrantLaw_cut (h : GrantLaw s) {b} : GrantLaw ((cutGrants s).withHeat { (cutGrants s).heat with tripped := b}) := by
  refine ⟨?_, ?_, ?_, ?_, ?_, ?_⟩
  · intro k; simpa [cutGrants, outputsOff, State.mapZones] using h.1 k
  all_goals simp [cutGrants, outputsOff, State.mapZones]

@[simp] theorem GrantLaw_cutGrants (h : GrantLaw s) : GrantLaw (cutGrants s) := GrantLaw_cut h

@[simp] theorem GrantLaw_stopHeating : GrantLaw (stopHeating s) := by
  refine ⟨?_, ?_, ?_, ?_, ?_, ?_⟩
  all_goals simp [stopHeating, State.mapZones, ZoneUnit.toOff, cutGrants]

@[simp] theorem GrantLaw_restartHeating (h : GrantLaw s) : GrantLaw (restartHeating s) := by
  simp only [restartHeating]; split
  · have h1 := GrantLaw_cut h (b := false)
    refine GrantLaw_of h1 rfl rfl rfl rfl rfl rfl fun k => ?_
    simp [State.mapZones, ZoneUnit.restarted]
    split
    · rename_i hk; rcases hk with hk | hk <;> simp [hk]
    · simp
  · simp

@[simp] theorem GrantLaw_tripRunning (h : GrantLaw s) : GrantLaw (tripRunning s) := by
  have h1 := GrantLaw_cut h (b := true)
  have h2 := GrantLaw_cutGrants h
  simp only [tripRunning]; split
  · exact h2
  · simp; refine GrantLaw_of h1 ?_ ?_ ?_ ?_ ?_ ?_ fun k => ?_
    all_goals simp [HeatUnit.enterTrip]
    all_goals first | (intro ho; exact ⟨(h2.2.2.2.1 k ho).2, ho⟩) | ((repeat' split) <;> rfl)

@[simp] theorem GrantLaw_boostZones {z} (h : GrantLaw s) : GrantLaw (boostZones z s) := by
  refine GrantLaw_z h rfl fun k => ?_
  simp [boostZones]; split <;> simp <;> exact fun ho => ⟨(h.2.2.2.1 k ho).2, ho⟩

@[simp] theorem GrantLaw_closeRecord {a b} (h : GrantLaw s) : GrantLaw (closeRecord a b s) := by
  simp only [closeRecord]; split
  · exact h
  · (try dsimp only); split <;> simp (maxDischargeDepth := 10) [h]

@[simp] theorem GrantLaw_closeByStep (h : GrantLaw s) : GrantLaw (closeByStep s) := by
  simp only [closeByStep]; (repeat' split) <;> simp (maxDischargeDepth := 10) [h]

@[simp] theorem GrantLaw_changeToTravel {o} (h : GrantLaw s) : GrantLaw (changeToTravel o s) := by
  simp only [changeToTravel]; split <;> simp (maxDischargeDepth := 10) [h]

@[simp] theorem GrantLaw_modeApplied {o} (h : GrantLaw s) : GrantLaw (modeApplied o s) := by
  simp only [modeApplied, modeChanged, leavePave]; (repeat' split) <;> simp (maxDischargeDepth := 10) [h]

theorem GrantLaw_set (h : GrantLaw s) (k : Fin 12) (x : ZoneUnit) (hs : x.state = .off ↔ s.zones[k].state = .off) (ho : x.output = true → x.state = .heating ∧ s.zones[k].output = true) : GrantLaw (s.withZones (s.zones.set k x)) := by
  refine GrantLaw_z h rfl fun j => ?_
  simp [Vector.getElem_set]
  split
  · rename_i hj; have := Fin.ext hj; subst this; exact ⟨hs, ho⟩
  · simp; exact fun ho => ⟨(h.2.2.2.1 j ho).2, ho⟩

theorem GrantLaw_disable (h : GrantLaw s) (k : Fin 12) : GrantLaw (s.withZones (s.zones.set k s.zones[k].disable)) := by
  apply GrantLaw_set h
  · unfold ZoneUnit.disable; split
    · rename_i hk; rw [hk]; simp
    · simp
  · unfold ZoneUnit.disable; split <;> simp [*]; exact fun ho => ⟨(h.2.2.2.1 k ho).2, ho⟩

@[simp] theorem GrantLaw_storeSetting {st v} (h : GrantLaw s) : GrantLaw (storeSetting st v s) := by
  have h1 : GrantLaw (s.withSettings (s.settings.write st v)) := by simpa using h
  simp only [storeSetting, settingApplied]
  split <;> (try split) <;> first | exact h1 | (exact GrantLaw_disable h1 _) | simp (maxDischargeDepth := 10) [h1]

@[simp] theorem GrantLaw_restartPart (h : GrantLaw s) : GrantLaw (restartPart s) := by
  simp (maxDischargeDepth := 10) [restartPart, h]

end Sys2Proof.Machine
end

