-- ==== Sys2Proof/Laws/KeptPorts.lean ====
section
/-! SUPPORT. The operations that touch the ports keep PortLaw. -/

namespace Sys2Proof.Machine

set_option linter.unusedVariables false
set_option linter.unnecessarySeqFocus false
set_option linter.unusedTactic false
set_option linter.unreachableTactic false
set_option linter.unusedSimpArgs false

/-- What PortLaw asks of one port. -/
def PortLawful (mask : AlertSet) (p : PortState) : Prop :=
  p.line = (!p.inService && decide (p.pendingSet &&& mask ≠ 0#16)) ∧ p.present = p.presenceDue.isSome ∧ p.queue.length ≤ 4

theorem PortLaw_iff (s) : PortLaw s ↔ ∀ p, PortLawful (s.settings.masks.get p) (s.ports.get p) := Iff.rfl

variable {s : State}

theorem portLaw_congr {s t : State} (hs : PortLaw s) (hp : t.ports = s.ports) (hm : t.settings.masks = s.settings.masks) : PortLaw t := by
  intro p; rw [hp, hm]; exact hs p

theorem portLaw_modify {p f} (h : PortLaw s) (hf : ∀ x, PortLawful (s.settings.masks.get p) x → PortLawful (s.settings.masks.get p) (f x)) : PortLaw (s.modifyPort p f) := by
  intro q
  have := h q
  simp only [State.modifyPort, State.withPorts_ports, State.withPorts_settings, PerPort.get_set]
  split
  · subst q; exact hf _ this
  · exact this

theorem reline_ok {m : AlertSet} {x : PortState} (h1 : x.present = x.presenceDue.isSome) (h2 : x.queue.length ≤ 4) : PortLawful m (x.reline m) := by
  refine ⟨?_, h1, h2⟩
  simp only [PortState.reline, lineLevel]; cases hh : (x.pendingSet &&& m != 0#16) <;> simp_all (maxDischargeDepth := 20)

@[simp] theorem portLaw_raiseOn (on k) (h : PortLaw s) : PortLaw (raiseOn on k s) := by
  intro q
  have := h q
  simp only [raiseOn, State.withPorts_ports, State.withPorts_settings, PerPort.get_map]
  split
  · exact reline_ok this.2.1 this.2.2
  · exact this

@[simp] theorem portLaw_raiseAll {k} (h : PortLaw s) : PortLaw (raiseAll k s) := portLaw_raiseOn _ _ h

@[simp] theorem portLaw_raiseOthers {p k} (h : PortLaw s) : PortLaw (raiseOthers p k s) := portLaw_raiseOn _ _ h

@[simp] theorem portLaw_raiseAllIf {c k} (h : PortLaw s) : PortLaw (raiseAllIf c k s) := by
  unfold raiseAllIf; split; exact portLaw_raiseAll h; exact h

@[simp] theorem portLaw_heard {p} (h : PortLaw s) : PortLaw (heard p s) := portLaw_modify h (fun x hx => ⟨hx.1, rfl, hx.2.2⟩)

@[simp] theorem portLaw_take {p} (h : PortLaw s) : PortLaw (takeRequest p s) := portLaw_modify (portLaw_heard h) (fun x hx => hx)

@[simp] theorem portLaw_answer {p a} (h : PortLaw s) : PortLaw (answer p a s) := portLaw_modify h (fun x hx => hx)

@[simp] theorem portLaw_answerCode {p a} (h : PortLaw s) : PortLaw (answerCode p a s) := portLaw_answer h
section

variable (h : PortLaw s)
include h

@[simp] theorem pl_reach {d} : PortLaw (s.reach d) := by simp_all (maxDischargeDepth := 20) [State.reach]

@[simp] theorem pl_reachOpt {d} : PortLaw (s.reachOpt d) := by cases d <;> simp_all (maxDischargeDepth := 20) [State.reachOpt]

@[simp] theorem pl_report {f} : PortLaw (report f s) := portLaw_congr h (by simp) (by simp)

@[simp] theorem pl_reportFlags {f} : PortLaw (reportFlags f s) := portLaw_congr h (by simp) (by simp)

@[simp] theorem pl_reportStarved {f} : PortLaw (reportStarved f s) := portLaw_congr h (by simp) (by simp)

@[simp] theorem pl_reportFaulted {f} : PortLaw (reportFaulted f s) := portLaw_congr h (by simp) (by simp)

@[simp] theorem pl_reportTrip : PortLaw (reportTrip s) := portLaw_congr h (by simp) (by simp)

@[simp] theorem pl_modifySide {i f} : PortLaw (s.modifySide i f) := portLaw_congr h (by simp) (by simp)

@[simp] theorem pl_modifyDrive {i f} : PortLaw (s.modifyDrive i f) := portLaw_congr h (by simp) (by simp)

@[simp] theorem pl_mapZones {f} : PortLaw (s.mapZones f) := portLaw_congr h (by simp) (by simp)

@[simp] theorem pl_openRecord : PortLaw (openRecord s) := portLaw_congr h (by simp) (by simp)

@[simp] theorem pl_boostZones {z} : PortLaw (boostZones z s) := portLaw_congr h (by simp) (by simp)

@[simp] theorem pl_recordWindow : PortLaw (recordWindow s) := portLaw_congr h (by simp) (by simp)

@[simp] theorem pl_prefillWindow : PortLaw (prefillWindow s) := portLaw_congr h (by simp) (by simp)

@[simp] theorem pl_valvesWindow : PortLaw (valvesWindow s) := portLaw_congr h (by simp) (by simp)

@[simp] theorem pl_widthUpdate : PortLaw (widthUpdate s) := portLaw_congr h (by simp) (by simp)

@[simp] theorem pl_feedLoad : PortLaw (feedLoad s) := portLaw_congr h (by simp) (by simp)

@[simp] theorem pl_outputsOff : PortLaw (outputsOff s) := portLaw_congr h (by simp) (by simp)

@[simp] theorem pl_cutGrants : PortLaw (cutGrants s) := portLaw_congr h (by simp) (by simp)

@[simp] theorem pl_startSlice : PortLaw (startSlice s) := portLaw_congr h (by simp) (by simp)

@[simp] theorem pl_stopHeating : PortLaw (stopHeating s) := portLaw_congr h (by simp) (by simp)

@[simp] theorem pl_capacityApplied : PortLaw (capacityApplied s) := portLaw_congr h (by simp) (by simp)

@[simp] theorem pl_dutyApplied {sd} : PortLaw (dutyApplied sd s) := portLaw_congr h (by simp) (by simp)

@[simp] theorem pl_autoValvesZero : PortLaw (autoValvesZero s) := portLaw_congr h (by simp) (by simp)

@[simp] theorem pl_writeResult {c tag n} : PortLaw (writeResult s c tag n) := portLaw_congr h (by simp) (by simp)

@[simp] theorem pl_dropSide {sd} : PortLaw (dropSide sd s) := by simp only [dropSide]; (repeat' split) <;> simp_all (maxDischargeDepth := 20)

@[simp] theorem pl_dropSideAndJog {sd} : PortLaw (dropSideAndJog sd s) := by simp only [dropSideAndJog]; (repeat' split) <;> simp_all (maxDischargeDepth := 20)

@[simp] theorem pl_fetchFromD : PortLaw (fetchFromD s) := by simp only [fetchFromD]; (repeat' split) <;> simp_all (maxDischargeDepth := 20)

@[simp] theorem pl_releaseFromD {n} : PortLaw (releaseFromD n s) := by simp only [releaseFromD]; (repeat' split) <;> simp_all (maxDischargeDepth := 20)

@[simp] theorem pl_storeRecord {a b c} : PortLaw (storeRecord a b c s).1 := by simp only [storeRecord]; (repeat' split) <;> simp_all (maxDischargeDepth := 20)

@[simp] theorem pl_closeRecord {a b} : PortLaw (closeRecord a b s) := by simp only [closeRecord]; (repeat' split) <;> simp_all (maxDischargeDepth := 20)

@[simp] theorem pl_closeByStep : PortLaw (closeByStep s) := by simp only [closeByStep]; (repeat' split) <;> simp_all (maxDischargeDepth := 20)

@[simp] theorem pl_sampleSide {sd} : PortLaw (sampleSide sd s) := by simp only [sampleSide]; (repeat' split) <;> simp_all (maxDischargeDepth := 20)

@[simp] theorem pl_levellingRound : PortLaw (levellingRound s) := by simp only [levellingRound]; (repeat' split) <;> simp_all (maxDischargeDepth := 20)

@[simp] theorem pl_engageSide {p sd} : PortLaw (engageSide p sd s) := by simp only [engageSide]; (repeat' split) <;> simp_all (maxDischargeDepth := 20)

@[simp] theorem pl_disengageSide {p sd} : PortLaw (disengageSide p sd s) := by simp only [disengageSide]; (repeat' split) <;> simp_all (maxDischargeDepth := 20)

@[simp] theorem pl_setZeroSide {p sd} : PortLaw (setZeroSide p sd s) := by
  simp only [setZeroSide]
  have hk : ∀ x, PortLaw (s.withSettings {s.settings with sides := x}) := fun x => portLaw_congr h (by simp) (by simp)
  (repeat' split) <;> simp_all (maxDischargeDepth := 20)

@[simp] theorem pl_jogSide {p sd a b} : PortLaw (jogSide p a b sd s) := by simp only [jogSide]; (repeat' split) <;> simp_all (maxDischargeDepth := 20)

@[simp] theorem pl_feedTick : PortLaw (feedTick s) := by simp only [feedTick]; (repeat' split) <;> simp_all (maxDischargeDepth := 20)

@[simp] theorem pl_feedRound : PortLaw (feedRound s) := by simp_all (maxDischargeDepth := 20) [feedRound]

@[simp] theorem pl_clearDrive {p d} : PortLaw (clearDrive p d s) := by simp only [clearDrive]; (repeat' split) <;> simp_all (maxDischargeDepth := 20)

@[simp] theorem pl_closeCycle : PortLaw (closeCycle s) := by simp_all (maxDischargeDepth := 20) [closeCycle]

@[simp] theorem pl_cycleStart {c} : PortLaw (cycleStart c s) := by cases c <;> simp_all (maxDischargeDepth := 20) [cycleStart]

@[simp] theorem pl_clearZone {p d} : PortLaw (clearZone p d s) := by simp only [clearZone]; (repeat' split) <;> simp_all (maxDischargeDepth := 20)

@[simp] theorem pl_cycleBoundary {c} : PortLaw (cycleBoundary c s) := by simp_all (maxDischargeDepth := 20) [cycleBoundary]

@[simp] theorem pl_startHeating : PortLaw (startHeating s) := by simp_all (maxDischargeDepth := 20) [startHeating]

@[simp] theorem pl_restartHeating : PortLaw (restartHeating s) := by simp only [restartHeating]; (repeat' split) <;> simp_all (maxDischargeDepth := 20)

@[simp] theorem pl_tripRunning : PortLaw (tripRunning s) := by simp only [tripRunning]; (repeat' split) <;> simp_all (maxDischargeDepth := 20)

@[simp] theorem pl_slowRound : PortLaw (slowRound s) := by simp only [slowRound]; (repeat' split) <;> simp_all (maxDischargeDepth := 20)

@[simp] theorem pl_mediumRound : PortLaw (mediumRound s) := by simp only [mediumRound]; (repeat' split) <;> simp_all (maxDischargeDepth := 20)

@[simp] theorem pl_roundCompletion {c} : PortLaw (roundCompletion c s) := by cases c <;> simp_all (maxDischargeDepth := 20) [roundCompletion]

@[simp] theorem pl_refModeApplied {sd o} : PortLaw (refModeApplied sd o s) := by simp only [refModeApplied]; (repeat' split) <;> simp_all (maxDischargeDepth := 20)

@[simp] theorem pl_changeToTravel {o} : PortLaw (changeToTravel o s) := by simp only [changeToTravel]; (repeat' split) <;> simp_all (maxDischargeDepth := 20)

@[simp] theorem pl_leavePave : PortLaw (leavePave s) := by simp_all (maxDischargeDepth := 20) [leavePave]

@[simp] theorem pl_modeChanged {o} : PortLaw (modeChanged o s) := by simp only [modeChanged]; (repeat' split) <;> simp_all (maxDischargeDepth := 20)

@[simp] theorem pl_modeApplied {o} : PortLaw (modeApplied o s) := by simp only [modeApplied]; (repeat' split) <;> simp_all (maxDischargeDepth := 20)

@[simp] theorem pl_goAbsent {p} : PortLaw (goAbsent p s) := by
  have : PortLaw (s.modifyPort p fun u => { u with present := false, presenceDue := none }) :=
    portLaw_modify h (fun x hx => ⟨hx.1, rfl, hx.2.2⟩)
  simp only [goAbsent]; (repeat' split) <;> simp_all (maxDischargeDepth := 20)

@[simp] theorem pl_restartLevelling : PortLaw (restartLevelling s) := by simp_all (maxDischargeDepth := 20) [restartLevelling]

@[simp] theorem pl_restartPart : PortLaw (restartPart s) := by simp_all (maxDischargeDepth := 20) [restartPart]

@[simp] theorem pl_popEntry {p e rest} (hq : (s.ports.get p).queue = e :: rest) : PortLaw (popEntry p rest s) := by
  intro q
  have hp := h q
  simp only [popEntry, State.modifyPort, State.withPorts_ports, State.withPorts_settings, PerPort.get_set]
  split
  · subst q; refine ⟨hp.1, hp.2.1, ?_⟩; have := hp.2.2; rw [hq] at this; simp at *; omega
  · exact hp

@[simp] theorem pl_storeSetting {st v} : PortLaw (storeSetting st v s) := by
  unfold storeSetting
  by_cases hm : ∃ q, st = .alertMask q
  · obtain ⟨q, rfl⟩ := hm
    simp only [settingApplied]
    intro p
    have hp := h p
    simp only [State.modifyPort, State.withPorts_ports, State.withPorts_settings, State.withSettings_ports, State.withSettings_settings, Settings.write, PerPort.get_set]
    split
    · subst p; exact reline_ok hp.2.1 hp.2.2
    · exact hp
  · have hk : PortLaw (s.withSettings (s.settings.write st v)) := by
      refine portLaw_congr h (by simp) ?_
      cases st <;> simp_all (maxDischargeDepth := 20) [Settings.write]
    generalize s.withSettings (s.settings.write st v) = u at *
    cases st <;> simp only [settingApplied] <;> (repeat' split) <;> simp_all (maxDischargeDepth := 20)

@[simp] theorem pl_applyEntry {p e} : PortLaw (applyEntry p e s) := by
  unfold applyEntry; exact portLaw_modify (by simp_all (maxDischargeDepth := 20)) (fun x hx => hx)

@[simp] theorem pl_rejectEntry {p e} : PortLaw (rejectEntry p e s) := by
  unfold rejectEntry; exact portLaw_raiseOn _ _ (portLaw_modify (by simp_all (maxDischargeDepth := 20)) (fun x hx => hx))

@[simp] theorem pl_sideRequest {p i act} (ha : ∀ sd u, PortLaw u → PortLaw (act sd u)) : PortLaw (sideRequest p i act s) := by
  simp only [sideRequest]; (repeat' split) <;> simp_all (maxDischargeDepth := 20)
end

theorem judgeWrite_some {p st v a e} (h : judgeWrite s p st v = (a, some e)) :
    mayWrite p st = true ∧ guarded s.settings.guard p st = false ∧ lockedOut s.settings st v = false ∧ st.defined v = true
      ∧ (s.ports.get p).queue.length < 4
      ∧ a = { code := if (clampValue s.settings st v).2 then .clamped else .accepted, data := wordBytes (clampValue s.settings st v).1 }
      ∧ e = { item := st, value := (clampValue s.settings st v).1, clamped := (clampValue s.settings st v).2
              due := s.now + Config.exchangeTail s.free + Config.applicationTime } := by
  simp only [judgeWrite] at h
  split at h; · simp at h
  split at h; · simp at h
  split at h; · simp at h
  split at h; · simp at h
  split at h; · simp at h
  simp_all

end Sys2Proof.Machine
end

