-- ==== Sys2Proof/Laws/KeptSettings.lean ====
section
/-! SUPPORT. The operations that touch the settings table and the post queues keep SettingsLaw. -/

namespace Sys2Proof.Machine

set_option linter.unusedVariables false
set_option linter.unnecessarySeqFocus false
set_option linter.unusedTactic false
set_option linter.unreachableTactic false
set_option linter.unusedSimpArgs false

variable {s : State}

theorem SettingsLaw_q {u : State} (h0 : u.settings = s.settings) (h1 : ∀ p, (u.ports.get p).queue = (s.ports.get p).queue) : SettingsLaw u ↔ SettingsLaw s := by
  unfold SettingsLaw; simp only [h0, h1]

@[simp] theorem SettingsLaw_raiseOn {on k} : SettingsLaw (raiseOn on k s) ↔ SettingsLaw s := SettingsLaw_q (by simp) (fun p => by simp [raiseOn, PerPort.get_map]; split <;> rfl)

@[simp] theorem reline_queue (m : AlertSet) (x : PortState) : (x.reline m).queue = x.queue := rfl

@[simp] theorem SettingsLaw_modq {p f} (hf : ∀ x, (f x).queue = x.queue) : SettingsLaw (s.modifyPort p f) ↔ SettingsLaw s :=
  SettingsLaw_q (by simp) (fun q => by simp [State.modifyPort, PerPort.get_set]; split <;> simp_all)

@[simp] theorem SettingsLaw_heard {p} : SettingsLaw (heard p s) ↔ SettingsLaw s := SettingsLaw_modq fun _ => rfl

@[simp] theorem SettingsLaw_takeRequest {p} : SettingsLaw (takeRequest p s) ↔ SettingsLaw s := by
  simp [takeRequest]

@[simp] theorem SettingsLaw_answer {p a} : SettingsLaw (answer p a s) ↔ SettingsLaw s := SettingsLaw_modq fun _ => rfl

@[simp] theorem SettingsLaw_answerCode {p a} : SettingsLaw (answerCode p a s) ↔ SettingsLaw s := SettingsLaw_answer

@[simp] theorem SettingsLaw_raiseAll (k : AlertKind) : SettingsLaw (raiseAll k s) ↔ SettingsLaw s := by simp only [raiseAll]; (repeat' split) <;> simp

@[simp] theorem SettingsLaw_raiseOthers (p : Port) (k : AlertKind) : SettingsLaw (raiseOthers p k s) ↔ SettingsLaw s := by simp only [raiseOthers]; (repeat' split) <;> simp

@[simp] theorem SettingsLaw_raiseAllIf (c : Bool) (k : AlertKind) : SettingsLaw (raiseAllIf c k s) ↔ SettingsLaw s := by simp only [raiseAllIf]; (repeat' split) <;> simp

@[simp] theorem SettingsLaw_dropSide (sd : Side) : SettingsLaw (dropSide sd s) ↔ SettingsLaw s := by simp only [dropSide]; (repeat' split) <;> simp

@[simp] theorem SettingsLaw_dropSideAndJog (sd : Side) : SettingsLaw (dropSideAndJog sd s) ↔ SettingsLaw s := by simp only [dropSideAndJog]; (repeat' split) <;> simp

@[simp] theorem SettingsLaw_fetchFromD  : SettingsLaw (fetchFromD s) ↔ SettingsLaw s := by simp only [fetchFromD]; (repeat' split) <;> simp

@[simp] theorem SettingsLaw_releaseFromD (n : Nat) : SettingsLaw (releaseFromD n s) ↔ SettingsLaw s := by simp only [releaseFromD]; (repeat' split) <;> simp

@[simp] theorem SettingsLaw_storeRecord (h : Header) (pause : Nat) (columns : List Word) : SettingsLaw ((storeRecord h pause columns s).1) ↔ SettingsLaw s := by simp only [storeRecord]; (repeat' split) <;> simp

@[simp] theorem SettingsLaw_closeRecord (partialClose restartClose : Bool) : SettingsLaw (closeRecord partialClose restartClose s) ↔ SettingsLaw s := by simp only [closeRecord]; (repeat' split) <;> simp

@[simp] theorem SettingsLaw_closeByStep  : SettingsLaw (closeByStep s) ↔ SettingsLaw s := by simp only [closeByStep]; (repeat' split) <;> simp

@[simp] theorem SettingsLaw_sampleSide (sd : Side) : SettingsLaw (sampleSide sd s) ↔ SettingsLaw s := by simp only [sampleSide]; (repeat' split) <;> simp

@[simp] theorem SettingsLaw_levellingRound  : SettingsLaw (levellingRound s) ↔ SettingsLaw s := by simp only [levellingRound]; (repeat' split) <;> simp

@[simp] theorem SettingsLaw_engageSide (p : Port) (sd : Side) : SettingsLaw (engageSide p sd s) ↔ SettingsLaw s := by simp only [engageSide]; (repeat' split) <;> simp

@[simp] theorem SettingsLaw_disengageSide (p : Port) (sd : Side) : SettingsLaw (disengageSide p sd s) ↔ SettingsLaw s := by simp only [disengageSide]; (repeat' split) <;> simp

@[simp] theorem SettingsLaw_jogSide (p : Port) (dir : Direction) (duty : Word) (sd : Side) : SettingsLaw (jogSide p dir duty sd s) ↔ SettingsLaw s := by simp only [jogSide]; (repeat' split) <;> simp

@[simp] theorem SettingsLaw_feedTick  : SettingsLaw (feedTick s) ↔ SettingsLaw s := by simp only [feedTick]; (repeat' split) <;> simp

@[simp] theorem SettingsLaw_feedRound  : SettingsLaw (feedRound s) ↔ SettingsLaw s := by simp only [feedRound]; (repeat' split) <;> simp

@[simp] theorem SettingsLaw_clearDrive (p : Port) (d : Drive) : SettingsLaw (clearDrive p d s) ↔ SettingsLaw s := by simp only [clearDrive]; (repeat' split) <;> simp

@[simp] theorem SettingsLaw_closeCycle  : SettingsLaw (closeCycle s) ↔ SettingsLaw s := by simp only [closeCycle]; (repeat' split) <;> simp

@[simp] theorem SettingsLaw_cycleStart (closes : Bool) : SettingsLaw (cycleStart closes s) ↔ SettingsLaw s := by simp only [cycleStart]; (repeat' split) <;> simp

@[simp] theorem SettingsLaw_clearZone (p : Port) (k : Fin 12) : SettingsLaw (clearZone p k s) ↔ SettingsLaw s := by simp only [clearZone]; (repeat' split) <;> simp

@[simp] theorem SettingsLaw_cycleBoundary (closes : Bool) : SettingsLaw (cycleBoundary closes s) ↔ SettingsLaw s := by simp only [cycleBoundary]; (repeat' split) <;> simp

@[simp] theorem SettingsLaw_startHeating  : SettingsLaw (startHeating s) ↔ SettingsLaw s := by simp only [startHeating]; (repeat' split) <;> simp

@[simp] theorem SettingsLaw_restartHeating  : SettingsLaw (restartHeating s) ↔ SettingsLaw s := by simp only [restartHeating]; (repeat' split) <;> simp

@[simp] theorem SettingsLaw_tripRunning  : SettingsLaw (tripRunning s) ↔ SettingsLaw s := by simp only [tripRunning]; (repeat' split) <;> simp

@[simp] theorem SettingsLaw_slowRound  : SettingsLaw (slowRound s) ↔ SettingsLaw s := by simp only [slowRound]; (repeat' split) <;> simp

@[simp] theorem SettingsLaw_mediumRound  : SettingsLaw (mediumRound s) ↔ SettingsLaw s := by simp only [mediumRound]; (repeat' split) <;> simp

@[simp] theorem SettingsLaw_roundCompletion (cls : SampleClass) : SettingsLaw (roundCompletion cls s) ↔ SettingsLaw s := by simp only [roundCompletion]; (repeat' split) <;> simp

@[simp] theorem SettingsLaw_refModeApplied (sd : Side) (old : RefMode) : SettingsLaw (refModeApplied sd old s) ↔ SettingsLaw s := by simp only [refModeApplied]; (repeat' split) <;> simp

@[simp] theorem SettingsLaw_changeToTravel (old : Mode) : SettingsLaw (changeToTravel old s) ↔ SettingsLaw s := by simp only [changeToTravel]; (repeat' split) <;> simp

@[simp] theorem SettingsLaw_leavePave  : SettingsLaw (leavePave s) ↔ SettingsLaw s := by simp only [leavePave]; (repeat' split) <;> simp

@[simp] theorem SettingsLaw_modeChanged (old : Mode) : SettingsLaw (modeChanged old s) ↔ SettingsLaw s := by simp only [modeChanged]; (repeat' split) <;> simp

@[simp] theorem SettingsLaw_rejectEntry (p : Port) (e : PostEntry) : SettingsLaw (rejectEntry p e s) ↔ SettingsLaw s := by simp only [rejectEntry]; (repeat' split) <;> simp

@[simp] theorem SettingsLaw_goAbsent (p : Port) : SettingsLaw (goAbsent p s) ↔ SettingsLaw s := by simp only [goAbsent]; (repeat' split) <;> simp

@[simp] theorem SettingsLaw_restartLevelling  : SettingsLaw (restartLevelling s) ↔ SettingsLaw s := by simp only [restartLevelling]; (repeat' split) <;> simp

@[simp] theorem SettingsLaw_restartPart  : SettingsLaw (restartPart s) ↔ SettingsLaw s := by simp only [restartPart]; (repeat' split) <;> simp

@[simp] theorem SettingsLaw_settingApplied {st o} : SettingsLaw (settingApplied st o s) ↔ SettingsLaw s := by
  simp only [settingApplied]
  (repeat' split) <;> (try simp) <;> first | exact Iff.rfl | exact SettingsLaw_modq (by intro; rfl) | (simp only [modeApplied, modeChanged]; (repeat' split) <;> simp)

/-- What SettingsLaw asks of the settings table. -/
def TableLawful (t : Settings) : Prop := t.capacity ≤ 6000 ∧ t.reserve ≤ 1000
    ∧ (100 ≤ t.busVoltage ∧ t.busVoltage ≤ 800)
    ∧ t.guard &&& 0xFE01#16 = 0#16
    ∧ (∀ sd, (t.sides.get sd).inRange)
    ∧ (∀ k : Fin 12, t.zones[k].inRange)
    ∧ (∀ d, (t.drives.get d).inRange)
    ∧ t.record.inRange
    ∧ (∀ c : Fin 31, t.cals[c].inRange)
    ∧ (1 ≤ t.travelPulse ∧ t.travelPulse ≤ 2000)
    ∧ (1 ≤ t.radarPulse ∧ t.radarPulse ≤ 2000)
    ∧ ¬(t.sides.left.refMode = .slope ∧ t.sides.right.refMode = .slope)

theorem SettingsLaw_iff : SettingsLaw s ↔ TableLawful s.settings ∧ ∀ p, ∀ e ∈ (s.ports.get p).queue, e.valid := by
  unfold SettingsLaw TableLawful; tauto

theorem refMode_write (t : SideSettings) (i v) (hi : i ≠ .refMode) : (t.write i v).refMode = t.refMode := by
  cases i <;> first | rfl | exact absurd rfl hi

theorem side_write {t : SideSettings} (h : t.inRange) (i : SideItem) (v : Word) (sd : Side) (hv : PostEntry.valid ⟨.side sd i, v, c, d⟩) : (t.write i v).inRange := by
  obtain ⟨hd, hr⟩ := hv
  obtain ⟨h1,h2,h3,h4,h5,h6,h7⟩ := h
  cases i <;> (try simp [Setting.defined, Setting.range, rawNumber] at hd hr) <;> (try simp [SideSettings.write, SideSettings.inRange, Settings.powerOn, SideSettings.powerOn, PerSide.get] at *)
  · exact ⟨h1,h2,h3,h4,h5,h6,h7⟩
  · refine ⟨?_, h2,h3,h4,h5,h6,h7⟩
    intro h0
    apply hd.1
    have hb := hd.2
    apply BitVec.eq_of_getLsbD_eq; intro k hk
    have e1 := congrArg (fun x => x.getLsbD k) h0
    have e2 := congrArg (fun x => x.getLsbD k) hb
    simp at e1 e2
    by_cases hk4 : k < 4
    · simp [hk4] at e1; simpa using e1
    · have : (65520#16).getLsbD k = true := by
        rcases k with _|_|_|_|_|_|_|_|_|_|_|_|_|_|_|_|k <;> first | omega | decide
      simp [this] at e2; simpa using e2
  · exact ⟨h1,⟨hr.2, hr.1⟩,h3,h4,h5,h6,h7⟩
  · exact ⟨h1,h2,by omega,h4,h5,h6,h7⟩
  · exact ⟨h1,h2,h3,by omega,h5,h6,h7⟩
  · exact ⟨h1,h2,h3,h4,by omega,by omega,h7⟩
  · cases sd <;> (try simp at hr) <;> exact ⟨h1,h2,h3,h4,h5,by omega,h7⟩
  · exact ⟨h1,h2,h3,h4,h5,h6,⟨hr.2, hr.1⟩⟩

theorem slope_code {v : Word} {d : RefMode} (h : (RefMode.ofCode? v.toNat).isSome) (hs : (RefMode.ofCode? v.toNat).getD d = .slope) : v.toNat = RefMode.slope.code := by
  generalize v.toNat = n at *
  unfold RefMode.ofCode? at *
  split at hs <;> simp_all [RefMode.code]

theorem TableLawful_write {t : Settings} (h : TableLawful t) (e : PostEntry) (hv : e.valid) (hp : applicationPasses t e = true) : TableLawful (t.write e.item e.value) := by
  obtain ⟨st, v, c, d⟩ := e
  obtain ⟨h1,h2,h3,h4,h5,h6,h7,h8,h9,h10,h11,h12⟩ := h
  have hv0 := hv
  obtain ⟨hd, hr⟩ := hv
  cases st with
  | side sd i =>
    refine ⟨h1,h2,h3,h4,?_,h6,h7,h8,h9,h10,h11,?_⟩
    · intro j; simp only [Settings.write, PerSide.get_set]
      split
      · exact side_write (h5 _) _ _ _ hv0
      · exact h5 _
    · by_cases hi : i = .refMode
      · subst hi
        cases sd <;> simp [Settings.write, PerSide.set, SideSettings.write, PerSide.get, applicationPasses, Setting.defined] at *
        · intro ha hb; rcases hp with hp | hp; exact hp (slope_code hd ha); exact hp hb
        · intro hb ha; rcases hp with hp | hp; exact hp (slope_code hd ha); exact hp hb
      · cases sd <;> simp [Settings.write, PerSide.set, refMode_write _ _ _ hi, PerSide.get] <;> simpa using h12
  | zone k i =>
    refine ⟨h1,h2,h3,h4,h5,?_,h7,h8,h9,h10,h11,h12⟩
    intro j; simp [Settings.write, Vector.getElem_set]
    split
    · obtain ⟨a1,a2,a3⟩ := h6 k
      cases i <;> simp [Setting.range, rawNumber, ZoneSettings.write, ZoneSettings.inRange] at * <;> refine ⟨?_,?_,?_⟩ <;> first | assumption | omega
    · exact h6 j
  | drive dr i =>
    refine ⟨h1,h2,h3,h4,h5,h6,?_,h8,h9,h10,h11,h12⟩
    intro j; simp [Settings.write, PerDrive.get_set]
    split
    · obtain ⟨a1,a2,a3,a4,a5,a6⟩ := h7 dr
      cases i <;> simp [Setting.range, rawNumber, DriveSettings.write, DriveSettings.inRange] at * <;> refine ⟨?_,?_,?_,?_,?_,?_⟩ <;> first | assumption | omega
    · exact h7 j
  | calibration cc i =>
    refine ⟨h1,h2,h3,h4,h5,h6,h7,h8,?_,h10,h11,h12⟩
    intro j; simp [Settings.write, Vector.getElem_set]
    split
    · obtain ⟨a1,a2,a3,a4⟩ := h9 cc
      cases i <;> simp [Setting.range, rawNumber, Calibration.write, Calibration.inRange] at * <;> refine ⟨?_,?_,?_,?_⟩ <;> first | assumption | omega
    · exact h9 j
  | record i =>
    obtain ⟨a1,a2,a3,a4⟩ := h8
    refine ⟨h1,h2,h3,h4,h5,h6,h7,?_,h9,h10,h11,h12⟩
    cases i <;> simp [Setting.range, rawNumber, RecordSettings.write, Settings.write, RecordSettings.inRange] at * <;> refine ⟨?_,?_,?_,?_⟩ <;> first | assumption | omega
  | guardMask => exact ⟨h1,h2,h3,by simpa [Setting.defined, Settings.write] using hd,h5,h6,h7,h8,h9,h10,h11,h12⟩
  | machineMode => exact ⟨h1,h2,h3,h4,h5,h6,h7,h8,h9,h10,h11,h12⟩
  | calLock => exact ⟨h1,h2,h3,h4,h5,h6,h7,h8,h9,h10,h11,h12⟩
  | alertMask p => exact ⟨h1,h2,h3,h4,h5,h6,h7,h8,h9,h10,h11,h12⟩
  | writtenCapacity => simp [Setting.range, rawNumber] at hr; exact ⟨hr,h2,h3,h4,h5,h6,h7,h8,h9,h10,h11,h12⟩
  | reserve => simp [Setting.range, rawNumber] at hr; exact ⟨h1,hr,h3,h4,h5,h6,h7,h8,h9,h10,h11,h12⟩
  | busVoltage => simp [Setting.range, rawNumber] at hr; exact ⟨h1,h2,⟨by simp [Settings.write]; omega, by simp [Settings.write]; omega⟩,h4,h5,h6,h7,h8,h9,h10,h11,h12⟩
  | travelPulse => simp [Setting.range, rawNumber] at hr; exact ⟨h1,h2,h3,h4,h5,h6,h7,h8,h9,⟨by simp [Settings.write]; omega, by simp [Settings.write]; omega⟩,h11,h12⟩
  | radarPulse => simp [Setting.range, rawNumber] at hr; exact ⟨h1,h2,h3,h4,h5,h6,h7,h8,h9,h10,⟨by simp [Settings.write]; omega, by simp [Settings.write]; omega⟩,h12⟩

theorem clampInt_bounds {lo hi x : Int} (h : lo ≤ hi) : lo ≤ clampInt lo hi x ∧ clampInt lo hi x ≤ hi := by
  unfold clampInt; (repeat' split) <;> omega

theorem toNat_ofInt {y : Int} (h : 0 ≤ y) (h2 : y < 65536) : ((BitVec.ofInt 16 y).toNat : Int) = y := by
  rw [BitVec.toNat_ofInt]; omega

theorem toInt_ofInt {y : Int} (h : -32768 ≤ y) (h2 : y < 32768) : (BitVec.ofInt 16 y).toInt = y := by
  rw [BitVec.toInt_ofInt]; simp [Int.bmod]; omega

theorem raw_clamp {lo hi x : Int} (h : lo ≤ hi) (hl : -32768 ≤ lo) (hh : hi ≤ 32767) {z : Int × Int} (hz : 0 ≤ z.1 ↔ 0 ≤ lo) : rawNumber z (BitVec.ofInt 16 (clampInt lo hi x)) = clampInt lo hi x := by
  have := clampInt_bounds (x := x) h
  unfold rawNumber
  split
  · rename_i hz0; have := hz.1 hz0; rw [toNat_ofInt] <;> omega
  · rw [toInt_ofInt] <;> omega

theorem range_ok (t : Settings) (hm : ∀ sd, (t.sides.get sd).minDuty ≤ 400) (st : Setting) : ∀ r, st.range Settings.powerOn = some r → ∃ r', st.range t = some r' ∧ r'.2 = r.2 ∧ r'.1 ≤ r'.2 ∧ -32768 ≤ r'.1 ∧ r'.2 ≤ 32767 ∧ (0 ≤ r.1 ↔ 0 ≤ r'.1) ∧ ((∃ sd, st = .side sd .maxDuty) ∨ r'.1 = r.1) := by
  intro r hr
  have hm' := hm
  cases st with
  | side sd i => 
    have := hm sd
    cases i <;> simp [Setting.range, Settings.powerOn, SideSettings.powerOn] at * <;> (try (subst hr; simp)) 
    all_goals (have := hm' sd; cases sd <;> simp [PerSide.get] at * <;> omega)
  | zone k i => cases i <;> simp [Setting.range] at * <;> (try (subst hr; simp))
  | drive k i => cases i <;> simp [Setting.range] at * <;> (try (subst hr; simp))
  | record i => cases i <;> simp [Setting.range] at * <;> (try (subst hr; simp))
  | calibration k i => cases i <;> simp [Setting.range] at * <;> (try (subst hr; simp))
  | _ => simp [Setting.range] at * <;> (try (subst hr; simp))

theorem judged_valid {p st v a e} (hm : ∀ sd, (s.settings.sides.get sd).minDuty ≤ 400) (h : judgeWrite s p st v = (a, some e)) : e.valid := by
  obtain ⟨-,-,-,hd,-,-,rfl⟩ := judgeWrite_some h
  constructor
  · simp only [clampValue]
    split
    · exact hd
    · rename_i r hr
      cases st with
      | side sd i => cases i <;> simp [Setting.range, Setting.defined] at *
      | zone sd i => cases i <;> simp [Setting.range, Setting.defined] at *
      | drive sd i => cases i <;> simp [Setting.range, Setting.defined] at *
      | _ => simp [Setting.range, Setting.defined] at *
  · intro r hr
    obtain ⟨r', h1, h2, h3, h4, h5, h6, h7⟩ := range_ok s.settings hm st r hr
    simp only [clampValue, h1]
    rw [raw_clamp h3 h4 h5 h6]
    have := clampInt_bounds (x := rawNumber r' v) h3
    refine ⟨by omega, ?_⟩
    rcases h7 with h7 | h7
    · exact .inl h7
    · right; omega

theorem SettingsLaw_post {p e} (h : SettingsLaw s) (he : e.valid) : SettingsLaw (postEntry p e s) := by
  rw [SettingsLaw_iff] at *
  refine ⟨by simpa using h.1, ?_⟩
  intro q; have := h.2 q
  simp only [postEntry, State.withFree_ports, State.modifyPort, State.withPorts_ports, PerPort.get_set]
  split
  · rename_i hq; subst hq; intro x hx; simp at hx; rcases hx with hx | rfl
    · exact this x hx
    · exact he
  · exact this

@[simp] theorem SettingsLaw_setZeroSide {p sd} (h : SettingsLaw s) : SettingsLaw (setZeroSide p sd s) := by
  simp only [setZeroSide]
  split
  · simpa using h
  · rename_i r hr
    have h1 : SettingsLaw (s.withSettings { s.settings with sides := s.settings.sides.set sd ((s.settings.sides.get sd).zeroed r) }) := by
      rw [SettingsLaw_iff] at *
      refine ⟨?_, h.2⟩
      obtain ⟨⟨h1,h2,h3,h4,h5,h6,h7,h8,h9,h10,h11,h12⟩, -⟩ := h
      have hrm : ((s.settings.sides.get sd).zeroed r).refMode = (s.settings.sides.get sd).refMode := by unfold SideSettings.zeroed; split <;> simp [*]
      refine ⟨h1,h2,h3,h4,?_,h6,h7,h8,h9,h10,h11,?_⟩
      · intro j; simp [PerSide.get_set]; split
        · subst j
          obtain ⟨a1,a2,a3,a4,a5,a6,a7⟩ := h5 sd
          unfold SideSettings.zeroed
          split
          · rename_i hm
            simp [judgeReference, hm] at hr
            have := clampInt_bounds (lo := -1000) (hi := 1000) (x := s.seq.results[8].value) (by omega)
            obtain ⟨-, rfl⟩ := hr
            exact ⟨a1,a2,a3,a4,a5,a6,this⟩
          all_goals exact ⟨a1,by simp,a3,a4,a5,a6,a7⟩
        · exact h5 j
      · cases sd <;> simp [PerSide.set, hrm] <;> simp [PerSide.get] at * <;> exact h12
    (repeat' split) <;> simp [h1]

theorem SettingsLaw_pop {p e rest} (h : SettingsLaw s) (hq : (s.ports.get p).queue = e :: rest) : SettingsLaw (popEntry p rest s) := by
  rw [SettingsLaw_iff] at *
  refine ⟨by simpa using h.1, ?_⟩
  intro q; have := h.2 q
  simp only [popEntry, State.modifyPort, State.withPorts_ports, PerPort.get_set]
  split
  · rename_i hqp; subst hqp; intro x hx; exact this x (by rw [hq]; simp [hx])
  · exact this

end Sys2Proof.Machine
end

