-- ==== Sys2Proof/Laws/KeptLevelling.lean ====
section
/-! SUPPORT. The operations that touch the valves keep LevellingLaw. -/

namespace Sys2Proof.Machine

set_option linter.unusedVariables false
set_option linter.unnecessarySeqFocus false
set_option linter.unusedTactic false
set_option linter.unreachableTactic false
set_option linter.unusedSimpArgs false

variable {s : State}

/-- Whether a side in AUTO may drive its valves: PAVE, and the paver moves. -/
def levelsNow (s : State) : Bool := s.settings.mode = .pave && s.travel.moving

/-- What LevellingLaw asks of one side. -/
def SideLawful (u : SideUnit) (t : SideSettings) (l : Bool) : Prop := u.valvesLawful t l ∧ u.goodRun < 10 ∧ u.stepMax ≤ 16383

theorem LevellingLaw_iff : LevellingLaw s ↔ ∀ sd, SideLawful (s.lev.get sd) (s.settings.sides.get sd) (levelsNow s) := Iff.rfl

theorem LevellingLaw_eq {u : State} (h0 : u.lev = s.lev) (h1 : u.settings.sides = s.settings.sides) (h2 : u.settings.mode = s.settings.mode) (h3 : u.travel.moving = s.travel.moving) : LevellingLaw u ↔ LevellingLaw s := by
  unfold LevellingLaw; rw [h0,h1,h2,h3]

theorem LevellingLaw_map {f : Side → SideUnit → SideUnit} (h : LevellingLaw s) (hx : ∀ sd, SideLawful (s.lev.get sd) (s.settings.sides.get sd) (levelsNow s) → SideLawful (f sd (s.lev.get sd)) (s.settings.sides.get sd) (levelsNow s)) : LevellingLaw (s.withLev (s.lev.map f)) := by
  rw [LevellingLaw_iff] at *
  intro sd
  simp only [State.withLev_lev, State.withLev_settings, PerSide.get_map]
  exact hx sd (h sd)

theorem LevellingLaw_mod {f : SideUnit → SideUnit} {i} (h : LevellingLaw s) (hx : SideLawful (s.lev.get i) (s.settings.sides.get i) (levelsNow s) → SideLawful (f (s.lev.get i)) (s.settings.sides.get i) (levelsNow s)) : LevellingLaw (s.modifySide i f) := by
  rw [LevellingLaw_iff] at *
  intro sd
  have := h sd
  simp only [State.modifySide, State.withLev_lev, State.withLev_settings, PerSide.get_set]
  split
  · subst sd; exact hx this
  · exact this

theorem SideLawful_auto0 {u t l l'} (h : SideLawful u t l) : SideLawful u.autoValvesZero t l' := by
  obtain ⟨⟨h1,h2,h3,h4,h5,h6⟩,h7,h8⟩ := h
  unfold SideUnit.autoValvesZero SideUnit.valvesZero
  split
  · rename_i ha
    exact ⟨⟨by simp, by simp, by simp, by simp [ha], by simp [ha]; exact (h5 ha).1, by simp [ha]⟩, h7, h8⟩
  · rename_i ha
    exact ⟨⟨h1,h2,h3,h4,by simp [ha],h6⟩,h7,h8⟩

@[simp] theorem LevellingLaw_autoValvesZero (h : LevellingLaw s) : LevellingLaw (autoValvesZero s) := LevellingLaw_map h fun sd hu => SideLawful_auto0 hu

theorem SideLawful_toManual {u t l l'} (h : SideLawful u t l) (he : u.engaged = true) : SideLawful u.toManual t l' := by
  obtain ⟨⟨h1,h2,h3,h4,h5,h6⟩,h7,h8⟩ := h
  have : u.jog = none := by
    cases hs : u.state
    · simp [SideUnit.engaged, hs] at he
    · exact (h5 hs).1
    · exact (h4 hs).2.2
  exact ⟨⟨by simp [SideUnit.toManual, SideUnit.valvesZero], by simp [SideUnit.toManual, SideUnit.valvesZero], by simp [SideUnit.toManual, SideUnit.valvesZero], by simp [SideUnit.toManual], by simp [SideUnit.toManual], by simp [SideUnit.toManual, SideUnit.valvesZero, this]⟩, by simp [SideUnit.toManual], h8⟩

theorem SideLawful_endJog {u t l l'} (h : SideLawful u t l) (he : u.engaged = false) : SideLawful u.endJog t l' := by
  obtain ⟨⟨h1,h2,h3,h4,h5,h6⟩,h7,h8⟩ := h
  have hs : u.state = .manual := by cases hs : u.state <;> simp [SideUnit.engaged, hs] at he ⊢
  have h6 := h6 hs
  unfold SideUnit.endJog
  split
  · exact ⟨⟨by simp [SideUnit.valvesZero], by simp [SideUnit.valvesZero], by simp [SideUnit.valvesZero], by simp [SideUnit.valvesZero, hs], by simp [SideUnit.valvesZero, hs], by simp [SideUnit.valvesZero]⟩, by simpa [SideUnit.valvesZero] using h7, by simpa [SideUnit.valvesZero] using h8⟩
  · rename_i hj
    simp at hj
    refine ⟨⟨h1,h2,h3,by simp [hs],by simp [hs],?_⟩,h7,h8⟩
    simp [hj] at h6 ⊢; simp [h6]

theorem SideLawful_endJog' {u t l} (h : SideLawful u t l) (hj : u.jog.isSome) : SideLawful u.endJog t l := by
  have : u.engaged = false := by
    cases hs : u.state
    · simp [SideUnit.engaged, hs]
    · rw [(h.1.2.2.2.2.1 hs).1] at hj; simp at hj
    · rw [(h.1.2.2.2.1 hs).2.2] at hj; simp at hj
  exact SideLawful_endJog h this

@[simp] theorem LevellingLaw_raise {k} : LevellingLaw (raiseAll k s) ↔ LevellingLaw s := LevellingLaw_eq (by simp) (by simp) (by simp) (by simp)

@[simp] theorem LevellingLaw_dropSide {sd} (h : LevellingLaw s) : LevellingLaw (dropSide sd s) := by
  simp only [dropSide]; split
  · simp; exact LevellingLaw_mod h fun hu => SideLawful_toManual hu (by assumption)
  · exact h

@[simp] theorem LevellingLaw_dropSideAndJog {sd} (h : LevellingLaw s) : LevellingLaw (dropSideAndJog sd s) := by
  simp only [dropSideAndJog]; split
  · simp [h]
  · exact LevellingLaw_mod h fun hu => SideLawful_endJog hu (by rename_i hc; simpa using hc)

theorem SideLawful_drive {u : SideUnit} {t l dir d} (hu : SideLawful u t l) (hs : u.state = .auto) (hj : u.jog = none) (hd : d ≠ 0 → l = true ∧ t.minDuty ≤ d ∧ d ≤ t.maxDuty) (hm : d ≤ 1000) : SideLawful (u.drive dir d) t l := by
  obtain ⟨⟨h1,h2,h3,h4,h5,h6⟩,h7,h8⟩ := hu
  cases dir
  · exact ⟨⟨by simp [SideUnit.drive], by simpa [SideUnit.drive] using hm, by simp [SideUnit.drive], by simp [SideUnit.drive, hs], by simp [SideUnit.drive, hs, hj]; exact hd, by simp [SideUnit.drive, hs]⟩, h7, h8⟩
  · exact ⟨⟨by simp [SideUnit.drive], by simp [SideUnit.drive], by simpa [SideUnit.drive] using hm, by simp [SideUnit.drive, hs], by simp [SideUnit.drive, hs, hj]; exact hd, by simp [SideUnit.drive, hs]⟩, h7, h8⟩

theorem duty_ok {t : SideSettings} (ht : t.inRange) (e) (hd : dutyOf t e ≠ 0) : t.minDuty ≤ dutyOf t e ∧ dutyOf t e ≤ t.maxDuty := by
  obtain ⟨_,_,_,_,h5,h6,_⟩ := ht
  unfold dutyOf at *
  split
  · rename_i hc; simp [hc] at hd
  · generalize (e.natAbs - t.deadBand) * (1000 - t.minDuty) / t.propBand = q
    omega

theorem SideLawful_driveFor {u : SideUnit} {t l e} (ht : t.inRange) (hu : SideLawful u t l) (hs : u.state = .auto) (hj : u.jog = none) : SideLawful (u.driveFor t l e) t l := by
  unfold SideUnit.driveFor
  apply SideLawful_drive hu hs hj
  · split
    · intro hd; exact ⟨by assumption, duty_ok ht e hd⟩
    · simp
  · split
    · by_cases hd : dutyOf t e = 0
      · omega
      · have := duty_ok ht e hd; have := ht.2.2.2.2.2.1; omega
    · omega

theorem SideLawful_usable {u : SideUnit} {t l r hd e} (ht : t.inRange) (hu : SideLawful u t l) : SideLawful (u.usableSample t l r hd e) t l := by
  have hv : SideLawful (u.measured r hd e) t l := by
    obtain ⟨⟨h1,h2,h3,h4,h5,h6⟩,h7,h8⟩ := hu
    exact ⟨⟨h1,h2,h3,h4,h5,h6⟩,h7,by simp [SideUnit.measured]⟩
  unfold SideUnit.usableSample
  cases hs : u.state
  · exact hu
  · exact SideLawful_driveFor ht hv hs (hu.1.2.2.2.2.1 hs).1
  · obtain ⟨⟨h1,h2,h3,h4,h5,h6⟩,h7,h8⟩ := hv
    have hl := h4 hs
    simp only
    split
    · refine SideLawful_driveFor ht ?_ (by rfl) hl.2.2
      exact ⟨⟨h1,h2,h3,by simp,by simp; exact ⟨hl.2.2, by simp [hl.1], by simp [hl.2.1]⟩,by simp⟩,by simp,h8⟩
    · exact ⟨⟨h1,h2,h3,h4,h5,h6⟩,by simp; omega,h8⟩

theorem SideLawful_unusable {u : SideUnit} {t l hd} (hu : SideLawful u t l) : SideLawful (u.unusableSample hd) t l := by
  unfold SideUnit.unusableSample
  cases hs : u.state
  · exact hu
  · obtain ⟨⟨h1,h2,h3,h4,h5,h6⟩,h7,h8⟩ := hu
    exact ⟨⟨by simp [SideUnit.valvesZero],by simp [SideUnit.valvesZero],by simp [SideUnit.valvesZero],by simp [SideUnit.valvesZero]; exact (h5 hs).1,by simp,by simp⟩,by simp,h8⟩
  · obtain ⟨⟨h1,h2,h3,h4,h5,h6⟩,h7,h8⟩ := hu
    have := h4 hs; exact ⟨⟨h1,h2,h3,by simp [this],by simp [hs],by simp [hs]⟩,by simp,h8⟩

@[simp] theorem LevellingLaw_sampleSide {sd} (hs : SettingsLaw s) (h : LevellingLaw s) : LevellingLaw (sampleSide sd s) := by
  simp only [sampleSide]; split
  · simp; exact LevellingLaw_mod h fun hu => SideLawful_unusable hu
  · exact LevellingLaw_mod h fun hu => SideLawful_usable (hs.2.2.2.2.1 sd) hu

@[simp] theorem LevellingLaw_levellingRound (hs : SettingsLaw s) (h : LevellingLaw s) : LevellingLaw (levellingRound s) := by
  have : LevellingLaw (s.withLev (s.lev.map fun _ u => { u with stale := false })) := LevellingLaw_map h fun _ hu => hu
  simp [levellingRound, hs, this]

@[simp] theorem LevellingLaw_widthUpdate : LevellingLaw (widthUpdate s) ↔ LevellingLaw s := LevellingLaw_eq (by simp) (by simp) (by simp) (by simp only [widthUpdate]; split <;> simp <;> rfl)

@[simp] theorem LevellingLaw_mediumRound : LevellingLaw (mediumRound s) ↔ LevellingLaw s := by
  simp only [mediumRound]; split <;> simp (maxDischargeDepth := 10)

@[simp] theorem LevellingLaw_roundCompletion {c} (hs : SettingsLaw s) (h : LevellingLaw s) : LevellingLaw (roundCompletion c s) := by
  cases c <;> simp [roundCompletion, h, hs]

@[simp] theorem LevellingLaw_openRecord (h : LevellingLaw s) : LevellingLaw (openRecord s) := by
  refine (LevellingLaw_eq (s := s.withLev (s.lev.map fun _ u => { u with stepMax := 0 })) rfl rfl rfl rfl).2 ?_
  exact LevellingLaw_map h fun _ hu => ⟨hu.1, hu.2.1, by simp⟩

@[simp] theorem LevellingLaw_closeByStep (h : LevellingLaw s) : LevellingLaw (closeByStep s) := by
  simp only [closeByStep]; (repeat' split) <;> simp (maxDischargeDepth := 10) [h]

@[simp] theorem LevellingLaw_recordWindow (h : LevellingLaw s) : LevellingLaw (recordWindow s) := by
  simp only [recordWindow]; (repeat' split) <;> simp (maxDischargeDepth := 10) [h]

theorem LevellingLaw_mode {s u : State} (hl : u.lev = s.lev) (hz : ∀ sd, SideLawful (s.lev.get sd) (s.settings.sides.get sd) false) (hs : u.settings.sides = s.settings.sides) : LevellingLaw u := by
  rw [LevellingLaw_iff]; intro sd; rw [hl, hs]
  obtain ⟨⟨h1,h2,h3,h4,h5,h6⟩,h7,h8⟩ := hz sd
  refine ⟨⟨h1,h2,h3,h4,?_,h6⟩,h7,h8⟩
  intro ha
  obtain ⟨a,b,c⟩ := h5 ha
  exact ⟨a, fun hr => by simpa using (b hr).1, fun hr => by simpa using (c hr).1⟩

@[simp] theorem LevellingLaw_restartLevelling {l} (h : ∀ sd, SideLawful (s.lev.get sd) (s.settings.sides.get sd) l) {u : State} (hu : u.lev = (restartLevelling s).lev) (hse : u.settings.sides = s.settings.sides) : LevellingLaw u := by
  rw [LevellingLaw_iff]; intro sd; rw [hu, hse]
  have hd : ∀ u : SideUnit, ∀ t, SideLawful u t l → SideLawful (if u.engaged then u.toManual else u.endJog).restarted t (levelsNow s) := by
    intro u t hu
    have : SideLawful (if u.engaged then u.toManual else u.endJog) t (levelsNow s) := by
      split
      · exact SideLawful_toManual hu (by assumption)
      · exact SideLawful_endJog hu (by rename_i hc; simpa using hc)
    exact ⟨this.1, by simp [SideUnit.restarted], this.2.2⟩
  have hd : ∀ u : SideUnit, ∀ t l', SideLawful u t l → SideLawful (if u.engaged then u.toManual else u.endJog).restarted t (l') := by
    intro u t l' hu
    have : SideLawful (if u.engaged then u.toManual else u.endJog) t (l') := by
      split
      · exact SideLawful_toManual hu (by assumption)
      · exact SideLawful_endJog hu (by rename_i hc; simpa using hc)
    exact ⟨this.1, by simp [SideUnit.restarted], this.2.2⟩
  have hl : (restartLevelling s).lev.get sd = (if (s.lev.get sd).engaged then (s.lev.get sd).toManual else (s.lev.get sd).endJog).restarted := by
    simp only [restartLevelling, State.withLev_lev, dropSideAndJog_lev, PerSide.get_map]
    cases sd <;> simp [PerSide.get_set]
  rw [hl]; exact hd _ _ _ (h sd)

theorem SideLawful_false {u t l} (h : SideLawful u t l) (hl : l = false) : SideLawful u t false := hl ▸ h

theorem LevellingLaw_changeToTravel {o} {m : State} (h : LevellingLaw m) (hl : s.lev = m.lev) (hs : s.settings.sides = m.settings.sides) : LevellingLaw (changeToTravel o s) := by
  have key : ∀ u : State, u.lev = (dropSideAndJog .right (dropSideAndJog .left s)).lev → u.settings.sides = s.settings.sides → LevellingLaw u := by
    intro u hu hse
    rw [LevellingLaw_iff]; intro sd; rw [hu, hse, hs]
    have hl' : (dropSideAndJog .right (dropSideAndJog .left s)).lev.get sd = (if (m.lev.get sd).engaged then (m.lev.get sd).toManual else (m.lev.get sd).endJog) := by
      rw [← hl]; simp only [dropSideAndJog_lev]
      cases sd <;> simp [PerSide.get_set]
    rw [hl']; split
    · exact SideLawful_toManual (h sd) (by assumption)
    · exact SideLawful_endJog (h sd) (by rename_i hc; simpa using hc)
  apply key
  · simp only [changeToTravel]; split <;> simp
  · simp

theorem LevellingLaw_table (h : LevellingLaw s) (x : Settings) (hm : x.mode = s.settings.mode) (hs : ∀ sd, (x.sides.get sd).minDuty = (s.settings.sides.get sd).minDuty ∧ (x.sides.get sd).maxDuty = (s.settings.sides.get sd).maxDuty) : LevellingLaw (s.withSettings x) := by
  rw [LevellingLaw_iff] at *; intro sd
  have : levelsNow (s.withSettings x) = levelsNow s := by simp [levelsNow, hm]
  obtain ⟨⟨h1,h2,h3,h4,h5,h6⟩,h7,h8⟩ := h sd
  rw [this]
  have hh := hs sd
  refine ⟨⟨h1,h2,h3,h4,?_,h6⟩,h7,h8⟩
  intro ha; have := h5 ha
  simp only [State.withSettings_settings, hh.1, hh.2]; exact this

theorem clampDuty_ok {t : SideSettings} (ht : t.inRange) (d) : clampDuty t d ≤ 1000 ∧ (clampDuty t d ≠ 0 → d ≠ 0 ∧ t.minDuty ≤ clampDuty t d ∧ clampDuty t d ≤ t.maxDuty) ∧ (d = 0 → clampDuty t d = 0) := by
  obtain ⟨_,_,_,_,h5,h6,_⟩ := ht
  unfold clampDuty clampNat
  (repeat' split) <;> omega

theorem LevellingLaw_duty {sd i} {v : Word} (h : LevellingLaw s) (ht : ((s.settings.sides.get sd).write i v).inRange)  :
    LevellingLaw (dutyApplied sd (s.withSettings (s.settings.write (.side sd i) v))) := by
  rw [LevellingLaw_iff] at *; intro j
  have hl : levelsNow (dutyApplied sd (s.withSettings (s.settings.write (.side sd i) v))) = levelsNow s := by simp [levelsNow, Settings.write]
  rw [hl]
  have := h j
  obtain ⟨⟨h1,h2,h3,h4,h5,h6⟩,h7,h8⟩ := h j
  simp only [dutyApplied, State.modifySide, State.withLev_lev, State.withSettings_lev, State.withLev_settings, State.withSettings_settings, Settings.write, PerSide.get_set]
  by_cases hj : j = sd
  · subst hj
    simp only [if_true]
    obtain ⟨a1,a2,a3⟩ := clampDuty_ok ht (s.lev.get j).raise
    obtain ⟨b1,b2,b3⟩ := clampDuty_ok ht (s.lev.get j).lower
    split
    · rename_i ha
      obtain ⟨c1,c2,c3⟩ := h5 ha
      refine ⟨⟨?_,a1,b1,by simp [ha],?_,by simp [ha]⟩,h7,h8⟩
      · rcases h1 with h1 | h1
        · exact .inl (a3 h1)
        · exact .inr (b3 h1)
      · intro _
        exact ⟨c1, fun hr => ⟨(c2 (a2 hr).1).1, (a2 hr).2⟩, fun hr => ⟨(c3 (b2 hr).1).1, (b2 hr).2⟩⟩
    · rename_i ha
      exact ⟨⟨h1,h2,h3,h4,fun hc => absurd hc ha,h6⟩,h7,h8⟩
  · simp only [hj, if_false]; exact this

theorem LevellingLaw_notlv {x : State} (h : LevellingLaw s) (h0 : levelsNow s = false) (hl : x.lev = s.lev) (hs : x.settings.sides = s.settings.sides) : LevellingLaw x :=
  LevellingLaw_mode hl (fun sd => SideLawful_false (h sd) h0) hs

@[simp] theorem LevellingLaw_refModeApplied {sd o} (h : LevellingLaw s) : LevellingLaw (refModeApplied sd o s) := by
  simp only [refModeApplied]; split <;> simp [h]

theorem LevellingLaw_storeSetting {e : PostEntry} (hs : SettingsLaw s) (h : LevellingLaw s) (hv : e.valid) (hp : applicationPasses s.settings e = true) : LevellingLaw (storeSetting e.item e.value s) := by
  have hT := TableLawful_write (SettingsLaw_iff.1 hs).1 e hv hp
  obtain ⟨st, v, c, d⟩ := e
  simp only at hT ⊢
  cases st with
  | machineMode =>
    simp only [storeSetting, settingApplied, modeApplied, Settings.write]
    have : ∀ m, LevellingLaw (if m = s.settings.mode then s.withSettings { s.settings with mode := m } else modeChanged s.settings.mode (s.withSettings { s.settings with mode := m })) := ?_
    · exact this ((Mode.ofCode? v.toNat).getD s.settings.mode)
    intro m
    split
    · rename_i hm
      exact (LevellingLaw_eq (s := s) (u := s.withSettings { s.settings with mode := m }) rfl rfl hm rfl).2 h
    · rename_i hm
      cases m
      all_goals simp only [modeChanged, State.withSettings_settings]
      · cases ho : s.settings.mode <;> simp only
        · exact absurd ho.symm hm
        · simp only [leavePave]
          rw [LevellingLaw_iff]; intro sd
          simp only [autoValvesZero, State.withLev_lev, PerSide.get_map, State.withLev_settings]
          simp
          exact SideLawful_auto0 (h sd)
        · exact LevellingLaw_notlv h (by simp [levelsNow, ho]) (by simp) (by simp)
      · cases ho : s.settings.mode <;> simp only
        · exact LevellingLaw_notlv h (by simp [levelsNow, ho]) (by simp) (by simp)
        · exact absurd ho.symm hm
        · exact LevellingLaw_notlv h (by simp [levelsNow, ho]) (by simp) (by simp)
      · exact LevellingLaw_changeToTravel h rfl rfl
  | side sd i =>
    have key : i ≠ .minDuty → i ≠ .maxDuty → LevellingLaw (s.withSettings (s.settings.write (.side sd i) v)) := by
      intro ha hb
      refine LevellingLaw_table h _ rfl fun j => ?_
      simp only [Settings.write, PerSide.get_set]
      split
      · subst j; cases i <;> simp_all [SideSettings.write]
      · exact ⟨rfl, rfl⟩
    have hr : ((s.settings.sides.get sd).write i v).inRange := by
      have := hT.2.2.2.2.1 sd
      simpa [Settings.write, PerSide.get_set] using this
    cases i <;> simp only [storeSetting, settingApplied] <;> first | exact LevellingLaw_duty h hr | (have := key (by simp) (by simp); simpa using this) | (have := key (by simp) (by simp); exact LevellingLaw_refModeApplied this)
  | drive dr i =>
    have h1 : LevellingLaw (s.withSettings (s.settings.write (.drive dr i) v)) := (LevellingLaw_eq rfl rfl rfl rfl).2 h
    cases i <;> simp only [storeSetting, settingApplied] <;> first | exact h1 | simpa using h1
  | zone k i => 
    have h1 : LevellingLaw (s.withSettings (s.settings.write (.zone k i) v)) := (LevellingLaw_eq rfl rfl rfl rfl).2 h
    cases i <;> simp only [storeSetting, settingApplied] <;> (try split) <;> first | exact h1 | simpa using h1
  | _ => simp only [storeSetting, settingApplied]; first | exact (LevellingLaw_eq rfl rfl rfl rfl).2 h | (simp; exact (LevellingLaw_eq rfl rfl rfl rfl).2 h)

@[simp] theorem LevellingLaw_setZeroSide {p sd} (h : LevellingLaw s) : LevellingLaw (setZeroSide p sd s) := by
  have h1 : ∀ r, LevellingLaw (s.withSettings { s.settings with sides := s.settings.sides.set sd ((s.settings.sides.get sd).zeroed r) }) := by
    intro r
    refine LevellingLaw_table h _ rfl fun j => ?_
    simp only [PerSide.get_set]; split
    · subst j; unfold SideSettings.zeroed; split <;> exact ⟨rfl, rfl⟩
    · exact ⟨rfl, rfl⟩
  simp only [setZeroSide]; split
  · simpa using h
  · rename_i r hr
    have h2 : LevellingLaw ((s.withSettings { s.settings with sides := s.settings.sides.set sd ((s.settings.sides.get sd).zeroed r) }).modifySide sd fun u => { u with target := some r.toNat }) := LevellingLaw_mod (h1 r) fun hu => hu
    (repeat' split) <;> simp [h1, h2]

@[simp] theorem LevellingLaw_engageSide {p sd} (h : LevellingLaw s) : LevellingLaw (engageSide p sd s) := by
  simp only [engageSide]; split
  · simpa using h
  · split
    · simp; refine LevellingLaw_mod h fun hu => ?_
      obtain ⟨⟨h1,h2,h3,h4,h5,h6⟩,h7,h8⟩ := hu
      unfold SideUnit.engage SideUnit.valvesZero
      cases hs : (s.lev.get sd).state
      · exact ⟨⟨by simp,by simp,by simp,by simp,by simp,by simp⟩,by simp,h8⟩
      · exact ⟨⟨h1,h2,h3,h4,h5,h6⟩,h7,h8⟩
      · have := h4 hs; exact ⟨⟨by simp,by simp,by simp,by simp,by simp [this],by simp⟩,by simp,h8⟩
    · simpa using h

@[simp] theorem LevellingLaw_disengageSide {p sd} (h : LevellingLaw s) : LevellingLaw (disengageSide p sd s) := by
  simp [disengageSide]
  refine LevellingLaw_mod h fun hu => ?_
  split
  · exact SideLawful_toManual hu (by assumption)
  · exact SideLawful_endJog hu (by rename_i hc; simpa using hc)

@[simp] theorem LevellingLaw_jogSide {p dir v sd} (hs : SettingsLaw s) (h : LevellingLaw s) : LevellingLaw (jogSide p dir v sd s) := by
  simp only [jogSide]; split
  · rename_i hc
    simp at hc ⊢
    refine LevellingLaw_mod h fun hu => ?_
    obtain ⟨⟨h1,h2,h3,h4,h5,h6⟩,h7,h8⟩ := hu
    have hm := hc.1
    have hd : jogDuty (s.settings.sides.get sd) v ≤ 1000 := by
      have := (hs.2.2.2.2.1 sd).2.2.2.2.2.1.2
      unfold jogDuty clampInt; (repeat' split) <;> omega
    generalize jogDuty (s.settings.sides.get sd) v = q at *
    unfold SideUnit.startJog SideUnit.valvesZero SideUnit.drive
    split
    · exact ⟨⟨by simp,by simp,by simp,by simp [hm],by simp [hm],by simp⟩,h7,h8⟩
    · cases dir
      · exact ⟨⟨by simp,by simpa using hd,by simp,by simp [hm],by simp [hm],by simp⟩,h7,h8⟩
      · exact ⟨⟨by simp,by simp,by simpa using hd,by simp [hm],by simp [hm],by simp⟩,h7,h8⟩
  · simpa using h

end Sys2Proof.Machine
end

