-- ==== Sys2Proof/Laws/KeptReadings.lean ====
section
/-! SUPPORT. Samples, captures and the other operations that touch targets and readings keep ReadingLaw. -/

namespace Sys2Proof.Machine

set_option linter.unusedVariables false
set_option linter.unnecessarySeqFocus false
set_option linter.unusedTactic false
set_option linter.unreachableTactic false
set_option linter.unusedSimpArgs false

variable {s : State}

/-- What ReadingLaw asks of one side. -/
def SideReadingLawful (u : SideUnit) (t : SideSettings) : Prop :=
  (∀ n, u.target = some n → 1 ≤ n ∧ n ≤ 9999) ∧ (u.state ≠ .manual → t.refMode ≠ .slope → u.target ≠ none) ∧ u.validHeads ≤ 4
    ∧ (-1000 ≤ u.lastReading ∧ u.lastReading ≤ 9999) ∧ (-18000 ≤ u.lastDeviation ∧ u.lastDeviation ≤ 18000)

theorem ReadingLaw_iff : ReadingLaw s ↔ ∀ sd, SideReadingLawful (s.lev.get sd) (s.settings.sides.get sd) := Iff.rfl

theorem ReadingLaw_eq {u : State} (h0 : u.lev = s.lev) (h1 : u.settings.sides = s.settings.sides) : ReadingLaw u ↔ ReadingLaw s := by
  unfold ReadingLaw; rw [h0,h1]

theorem ReadingLaw_map {f : Side → SideUnit → SideUnit} (h : ReadingLaw s) (hx : ∀ sd, SideReadingLawful (s.lev.get sd) (s.settings.sides.get sd) → SideReadingLawful (f sd (s.lev.get sd)) (s.settings.sides.get sd)) : ReadingLaw (s.withLev (s.lev.map f)) := by
  rw [ReadingLaw_iff] at *
  intro sd
  simp only [State.withLev_lev, State.withLev_settings, PerSide.get_map]
  exact hx sd (h sd)

theorem ReadingLaw_mod {f : SideUnit → SideUnit} {i} (h : ReadingLaw s) (hx : SideReadingLawful (s.lev.get i) (s.settings.sides.get i) → SideReadingLawful (f (s.lev.get i)) (s.settings.sides.get i)) : ReadingLaw (s.modifySide i f) := by
  rw [ReadingLaw_iff] at *
  intro sd
  have := h sd
  simp only [State.modifySide, State.withLev_lev, State.withLev_settings, PerSide.get_set]
  split
  · subst sd; exact hx this
  · exact this

theorem SideReadingLawful_of {u v : SideUnit} {t} (h : SideReadingLawful u t) (h1 : v.target = u.target) (h2 : v.state ≠ .manual → u.state ≠ .manual) (h3 : v.validHeads = u.validHeads) (h4 : v.lastReading = u.lastReading) (h5 : v.lastDeviation = u.lastDeviation) : SideReadingLawful v t := by
  obtain ⟨a,b,c,d,e⟩ := h
  exact ⟨h1 ▸ a, fun x y => h1 ▸ b (h2 x) y, h3 ▸ c, h4 ▸ d, h5 ▸ e⟩

@[simp] theorem ReadingLaw_autoValvesZero (h : ReadingLaw s) : ReadingLaw (autoValvesZero s) := ReadingLaw_map h fun sd hu => by
  refine SideReadingLawful_of hu ?_ ?_ ?_ ?_ ?_ <;> unfold SideUnit.autoValvesZero SideUnit.valvesZero <;> split <;> simp

@[simp] theorem ReadingLaw_raise {k} : ReadingLaw (raiseAll k s) ↔ ReadingLaw s := ReadingLaw_eq (by simp) (by simp)

theorem SideReadingLawful_toManual {u t t'} (h : SideReadingLawful u t) : SideReadingLawful u.toManual t' := by
  obtain ⟨a,b,c,d,e⟩ := h
  exact ⟨a, fun x => absurd rfl x, c, d, e⟩

theorem SideReadingLawful_endJog {u t} (h : SideReadingLawful u t) : SideReadingLawful u.endJog t := by
  refine SideReadingLawful_of h ?_ ?_ ?_ ?_ ?_ <;> unfold SideUnit.endJog SideUnit.valvesZero <;> split <;> simp

@[simp] theorem ReadingLaw_dropSide {sd} (h : ReadingLaw s) : ReadingLaw (dropSide sd s) := by
  simp only [dropSide]; split
  · simp; exact ReadingLaw_mod h fun hu => SideReadingLawful_toManual hu
  · exact h

@[simp] theorem ReadingLaw_dropSideAndJog {sd} (h : ReadingLaw s) : ReadingLaw (dropSideAndJog sd s) := by
  simp only [dropSideAndJog]; split
  · simp [h]
  · exact ReadingLaw_mod h fun hu => SideReadingLawful_endJog hu

theorem validHead_range {e : ResultEntry} (h : validHead e = true) : 1 ≤ e.value ∧ e.value ≤ 9999 := by
  simp [validHead] at h; exact ⟨h.1.2, h.2⟩

theorem validSelected_len (s : State) (sd) : (validSelected s sd).length ≤ 4 := by
  unfold validSelected
  rw [List.length_map]
  exact (List.length_filter_le _ _).trans (by simp)

theorem validSelected_range {s : State} {sd x} (h : x ∈ validSelected s sd) : 1 ≤ x.2 ∧ x.2 ≤ 9999 := by
  simp only [validSelected, List.mem_map, List.mem_filter] at h
  obtain ⟨k, ⟨_, hk⟩, rfl⟩ := h
  simp at hk
  have := validHead_range hk.2
  simp; omega

theorem sum_bounds {l : List (Fin 4 × Nat)} (h : ∀ x ∈ l, 1 ≤ x.2 ∧ x.2 ≤ 9999) : l.length ≤ (l.map Prod.snd).sum ∧ (l.map Prod.snd).sum ≤ 9999 * l.length := by
  induction l with
  | nil => simp
  | cons a l ih =>
    have h1 := h a (by simp)
    have := ih fun x hx => h x (by simp [hx])
    simp; omega

theorem rejected_mem (v sum) : ∀ {l x}, rejectedHead v sum l = some x → x ∈ l
  | [], _, h => by simp [rejectedHead] at h
  | a :: l, x, h => by
    simp only [rejectedHead] at h
    split at h
    · simp at h; simp [h]
    · rename_i y hy
      have := rejected_mem v sum hy
      split at h <;> simp at h <;> subst h <;> simp [this]

theorem half_bounds {a b : Nat} (hb : 0 < b) (h1 : b ≤ a) (h2 : a ≤ 9999 * b) : 1 ≤ divHalfUp a b ∧ divHalfUp a b ≤ 9999 := by
  unfold divHalfUp
  constructor
  · exact (Nat.le_div_iff_mul_le hb).2 (by omega)
  · have : (a + b / 2) / b < 10000 := (Nat.div_lt_iff_lt_mul hb).2 (by omega)
    omega

theorem beam_nodup (s : State) (sd) : ((validSelected s sd).map Prod.fst).Nodup := by
  unfold validSelected
  rw [List.map_map]
  have : (Prod.fst ∘ fun h => (h, (headEntry s sd h).value.toNat)) = (id : Fin 4 → Fin 4) := rfl
  rw [this, List.map_id]
  exact (List.nodup_finRange 4).filter _

theorem beamHeads_ne (s : State) (sd) (h : 2 ≤ (validSelected s sd).length) : beamHeads (validSelected s sd) ≠ [] := by
  have hn := beam_nodup s sd
  generalize validSelected s sd = hs at *
  unfold beamHeads
  split
  · split
    · intro h0; simp [h0] at h
    · rename_i x hx
      intro h0
      match hs, h, hn with
      | a :: b :: l, _, hn =>
        simp [List.filter_eq_nil_iff] at h0 hn
        exact hn.1.1 (h0.1.trans h0.2.1.symm)
  · intro h0; simp [h0] at h

theorem beam_bounds {s : State} {sd} (h : 2 ≤ (validSelected s sd).length) : 1 ≤ beamReading (validSelected s sd) ∧ beamReading (validSelected s sd) ≤ 9999 := by
  unfold beamReading
  have hsub : ∀ x ∈ beamHeads (validSelected s sd), 1 ≤ x.2 ∧ x.2 ≤ 9999 := by
    intro x hx
    refine validSelected_range (s := s) (sd := sd) ?_
    unfold beamHeads at hx
    split at hx
    · split at hx
      · exact hx
      · exact List.mem_of_mem_filter hx
    · exact hx
  have := sum_bounds hsub
  have hne := beamHeads_ne s sd h
  exact half_bounds (List.length_pos_iff.2 hne) this.1 this.2

theorem clampInt_in {lo hi x : Int} (h : lo ≤ hi) : lo ≤ clampInt lo hi x ∧ clampInt lo hi x ≤ hi := by
  unfold clampInt; (repeat' split) <;> omega

theorem judge_bounds {s : State} {sd r n} (h : judgeReference s sd = (r, n)) : n ≤ 4 ∧ ∀ x, r = some x → ((s.settings.sides.get sd).refMode ≠ .slope → 1 ≤ x ∧ x ≤ 9999) ∧ ((s.settings.sides.get sd).refMode = .slope → -1000 ≤ x ∧ x ≤ 1000) := by
  simp only [judgeReference] at h
  split at h
  · rename_i hm
    obtain ⟨h1, h2⟩ := Prod.mk.inj h
    refine ⟨h2 ▸ validSelected_len s sd, fun x hx => ⟨fun _ => ?_, fun h0 => by simp [hm] at h0⟩⟩
    subst hx
    split at h1
    · rename_i hl
      have := beam_bounds hl
      simp at h1; omega
    · simp at h1
  · rename_i hm
    split at h
    · obtain ⟨h1, h2⟩ := Prod.mk.inj h
      subst h1 h2; exact ⟨by omega, fun x hx => by simp at hx⟩
    · split at h
      · rename_i hv
        obtain ⟨h1, h2⟩ := Prod.mk.inj h
        subst h1 h2; refine ⟨by omega, fun x hx => ⟨fun _ => ?_, fun h0 => by simp [hm] at h0⟩⟩
        simp at hx; subst hx; exact validHead_range hv
      · obtain ⟨h1, h2⟩ := Prod.mk.inj h
        subst h1 h2; exact ⟨by omega, fun x hx => by simp at hx⟩
  · rename_i hm
    obtain ⟨h1, h2⟩ := Prod.mk.inj h
    subst h2; refine ⟨by omega, fun x hx => ⟨fun h0 => by simp [hm] at h0, fun _ => ?_⟩⟩
    subst hx
    split at h1
    · simp at h1; subst h1; exact clampInt_in (by omega)
    · simp at h1

theorem half_away {a : Int} {b : Nat} (h : a.natAbs ≤ 18000000) (hb : b = 1000) : -18000 ≤ divHalfAway a b ∧ divHalfAway a b ≤ 18000 := by
  unfold divHalfAway divHalfUp
  subst hb
  simp only [Int.natAbs_natCast]
  split <;> omega

theorem deviation_bounds {s : State} {sd x} (hs : SettingsLaw s) (ht : TravelLaw s) (hr : ReadingLaw s)
    (h : ((s.settings.sides.get sd).refMode ≠ .slope → 1 ≤ x ∧ x ≤ 9999) ∧ ((s.settings.sides.get sd).refMode = .slope → -1000 ≤ x ∧ x ≤ 1000)) : -18000 ≤ deviation s sd x ∧ deviation s sd x ≤ 18000 := by
  obtain ⟨_, ho, _, _, _, _, hsl⟩ := hs.2.2.2.2.1 sd
  have htg := (hr sd).1
  have hlin : (s.settings.sides.get sd).refMode ≠ .slope → -18000 ≤ x - (((s.lev.get sd).target.getD 0 : Nat) + (s.settings.sides.get sd).offset) ∧ x - (((s.lev.get sd).target.getD 0 : Nat) + (s.settings.sides.get sd).offset) ≤ 18000 := by
    intro hm
    have h1 := h.1 hm
    cases hq : (s.lev.get sd).target
    · simp; omega
    · rename_i n; have := htg n hq; simp; omega
  unfold deviation
  simp only
  cases hm : (s.settings.sides.get sd).refMode
  · exact hlin (by simp [hm])
  · exact hlin (by simp [hm])
  · have h1 := h.2 hm
    have hw : s.travel.width ≤ 9000 := by
      obtain ⟨_,_,_,_,_,_,_,_,_,_,a,b,c,_⟩ := ht; omega
    have : ((x - (s.settings.sides.get sd).slopeTarget) * s.travel.width).natAbs ≤ 18000000 := by
      rw [Int.natAbs_mul, Int.natAbs_natCast]
      exact (Nat.mul_le_mul (show _ ≤ 2000 by omega) hw)
    have := half_away this rfl
    cases sd <;> simp at this ⊢ <;> omega

theorem SideReadingLawful_measured {u : SideUnit} {t r hd e} (hu : SideReadingLawful u t) (h1 : hd ≤ 4) (h2 : -1000 ≤ r ∧ r ≤ 9999) (h3 : -18000 ≤ e ∧ e ≤ 18000) : SideReadingLawful (u.measured r hd e) t :=
  ⟨hu.1, hu.2.1, h1, h2, h3⟩

theorem SideReadingLawful_driveFor {u : SideUnit} {t t' l e} (hu : SideReadingLawful u t) : SideReadingLawful (u.driveFor t' l e) t := by
  unfold SideUnit.driveFor SideUnit.drive
  cases directionOf e <;> exact hu

theorem SideReadingLawful_usable {u : SideUnit} {t t' l r hd e} (hu : SideReadingLawful u t) (h1 : hd ≤ 4) (h2 : -1000 ≤ r ∧ r ≤ 9999) (h3 : -18000 ≤ e ∧ e ≤ 18000) : SideReadingLawful (u.usableSample t' l r hd e) t := by
  have hv := SideReadingLawful_measured hu h1 h2 h3
  unfold SideUnit.usableSample
  cases hs : u.state
  · exact hu
  · exact SideReadingLawful_driveFor hv
  · simp only
    split
    · refine SideReadingLawful_driveFor ?_
      obtain ⟨a,b,c,d,e⟩ := hv
      exact ⟨a, fun _ y => b (by simp [SideUnit.measured, hs]) y, c, d, e⟩
    · obtain ⟨a,b,c,d,e⟩ := hv
      exact ⟨a,b,c,d,e⟩

theorem SideReadingLawful_unusable {u : SideUnit} {t hd} (hu : SideReadingLawful u t) (h1 : hd ≤ 4) : SideReadingLawful (u.unusableSample hd) t := by
  obtain ⟨a,b,c,d,e⟩ := hu
  unfold SideUnit.unusableSample
  cases hs : u.state
  · exact ⟨a,b,c,d,e⟩
  · exact ⟨a, fun _ y => b (by simp [hs]) y, h1, d, e⟩
  · exact ⟨a, fun _ y => b (by simp [hs]) y, h1, d, e⟩

@[simp] theorem ReadingLaw_sampleSide {sd} (hs : SettingsLaw s) (ht : TravelLaw s) (h : ReadingLaw s) : ReadingLaw (sampleSide sd s) := by
  simp only [sampleSide]; split
  · rename_i n hj
    simp; exact ReadingLaw_mod h fun hu => SideReadingLawful_unusable hu (judge_bounds hj).1
  · rename_i r n hj
    obtain ⟨j1, j2⟩ := judge_bounds hj
    have j2 := j2 r rfl
    refine ReadingLaw_mod h fun hu => SideReadingLawful_usable hu j1 ?_ (deviation_bounds hs ht h j2)
    by_cases hm : (s.settings.sides.get sd).refMode = .slope
    · have := j2.2 hm; omega
    · have := j2.1 hm; omega

@[simp] theorem ReadingLaw_levellingRound (hs : SettingsLaw s) (ht : TravelLaw s) (h : ReadingLaw s) : ReadingLaw (levellingRound s) := by
  have : ReadingLaw (s.withLev (s.lev.map fun _ u => { u with stale := false })) := ReadingLaw_map h fun _ hu => hu
  simp [levellingRound, hs, ht, this]

@[simp] theorem ReadingLaw_roundCompletion {c} (hs : SettingsLaw s) (ht : TravelLaw s) (h : ReadingLaw s) : ReadingLaw (roundCompletion c s) := by
  cases c <;> simp [roundCompletion, h, hs, ht]

@[simp] theorem ReadingLaw_openRecord (h : ReadingLaw s) : ReadingLaw (openRecord s) := by
  refine (ReadingLaw_eq (s := s.withLev (s.lev.map fun _ u => { u with stepMax := 0 })) rfl rfl).2 ?_
  exact ReadingLaw_map h fun _ hu => hu

@[simp] theorem ReadingLaw_closeByStep (h : ReadingLaw s) : ReadingLaw (closeByStep s) := by
  simp only [closeByStep]; (repeat' split) <;> simp (maxDischargeDepth := 10) [h]

@[simp] theorem ReadingLaw_recordWindow (h : ReadingLaw s) : ReadingLaw (recordWindow s) := by
  simp only [recordWindow]; (repeat' split) <;> simp (maxDischargeDepth := 10) [h]

@[simp] theorem ReadingLaw_valvesWindow (h : ReadingLaw s) : ReadingLaw (valvesWindow s) := by
  simp only [valvesWindow]; (repeat' split) <;> simp (maxDischargeDepth := 10) [h]

@[simp] theorem ReadingLaw_changeToTravel {o} (h : ReadingLaw s) : ReadingLaw (changeToTravel o s) := by
  simp only [changeToTravel]; (repeat' split) <;> simp (maxDischargeDepth := 10) [h]

@[simp] theorem ReadingLaw_leavePave (h : ReadingLaw s) : ReadingLaw (leavePave s) := by
  simp (maxDischargeDepth := 10) [leavePave, h]

@[simp] theorem ReadingLaw_modeChanged {o} (h : ReadingLaw s) : ReadingLaw (modeChanged o s) := by
  simp only [modeChanged]; (repeat' split) <;> simp (maxDischargeDepth := 10) [h]

theorem ReadingLaw_table (h : ReadingLaw s) (x : Settings) (hs : ∀ sd, (x.sides.get sd).refMode = (s.settings.sides.get sd).refMode) : ReadingLaw (s.withSettings x) := by
  rw [ReadingLaw_iff] at *; intro sd
  obtain ⟨a,b,c,d,e⟩ := h sd
  exact ⟨a, by simpa [hs sd] using b, c, d, e⟩

theorem ReadingLaw_storeSetting {st v} (h : ReadingLaw s) : ReadingLaw (storeSetting st v s) := by
  cases st with
  | machineMode =>
    have h1 : ReadingLaw (s.withSettings (s.settings.write .machineMode v)) := ReadingLaw_table h _ fun _ => rfl
    simp only [storeSetting, settingApplied, modeApplied]
    split <;> simp [h1]
  | side sd i =>
    have key : i ≠ .refMode → ReadingLaw (s.withSettings (s.settings.write (.side sd i) v)) := by
      intro ha
      refine ReadingLaw_table h _ fun j => ?_
      simp only [Settings.write, PerSide.get_set]
      split
      · subst j; exact refMode_write _ _ _ ha
      · rfl
    by_cases hi : i = .refMode
    · subst hi
      simp only [storeSetting, settingApplied, refModeApplied]
      have hset : ∀ q, ReadingLaw (s.withSettings (s.settings.write (.side sd .refMode) v)) ∨ q → q → True := fun _ _ _ => trivial
      split
      · rename_i hm
        refine ReadingLaw_table h _ fun j => ?_
        by_cases hj : j = sd
        · subst hj; simpa using hm
        · simp [Settings.write, PerSide.get_set, hj]
      · rw [ReadingLaw_iff] at *; intro j
        have hj := h j
        simp only [dropSide, State.withSettings_lev]
        split
        · simp only [raiseAll_frame, State.modifySide, State.withLev_lev, State.withLev_settings, State.withSettings_lev, State.withSettings_settings, PerSide.get_set]
          split
          · subst j; exact SideReadingLawful_toManual hj
          · rename_i hne
            simpa [Settings.write, PerSide.get_set, hne] using hj
        · rename_i hne
          obtain ⟨a,b,c,d,e⟩ := hj
          refine ⟨a, ?_, c, d, e⟩
          by_cases hjs : j = sd
          · subst hjs; intro hc; simp [SideUnit.engaged] at hne; exact absurd hne hc
          · simpa [Settings.write, PerSide.get_set, hjs] using b
    · have h1 := key hi
      have h2 : ReadingLaw (dutyApplied sd (s.withSettings (s.settings.write (.side sd i) v))) := by
        simp only [dutyApplied]
        refine ReadingLaw_mod h1 fun hu => ?_
        split
        · exact SideReadingLawful_of hu rfl id rfl rfl rfl
        · exact hu
      cases i <;> simp only [storeSetting, settingApplied] <;> first | exact h1 | exact h2 | exact absurd rfl hi
  | drive dr i =>
    have h1 : ReadingLaw (s.withSettings (s.settings.write (.drive dr i) v)) := (ReadingLaw_eq rfl rfl).2 h
    cases i <;> simp only [storeSetting, settingApplied] <;> first | exact h1 | exact (ReadingLaw_eq (by simp) (by simp)).2 h1
  | zone k i => 
    have h1 : ReadingLaw (s.withSettings (s.settings.write (.zone k i) v)) := (ReadingLaw_eq rfl rfl).2 h
    cases i <;> simp only [storeSetting, settingApplied] <;> (try split) <;> first | exact h1 | exact (ReadingLaw_eq (by simp) (by simp)).2 h1
  | _ => simp only [storeSetting, settingApplied]; first | exact (ReadingLaw_eq rfl rfl).2 h | exact (ReadingLaw_eq (by simp) (by simp [Settings.write])).2 h

@[simp] theorem ReadingLaw_setZeroSide {p sd} (h : ReadingLaw s) : ReadingLaw (setZeroSide p sd s) := by
  have h1 : ∀ r, ReadingLaw (s.withSettings { s.settings with sides := s.settings.sides.set sd ((s.settings.sides.get sd).zeroed r) }) := by
    intro r
    refine ReadingLaw_table h _ fun j => ?_
    simp only [PerSide.get_set]; split
    · subst j; unfold SideSettings.zeroed; split <;> simp_all
    · rfl
  simp only [setZeroSide]; split
  · simpa using h
  · rename_i r hr
    by_cases hm : (s.settings.sides.get sd).refMode = .slope
    · simp only [hm, if_true]; split <;> simp [h1]
    · have hb := (judge_bounds (s := s) (sd := sd) rfl).2 r hr
      have hb := hb.1 hm
      have h2 : ReadingLaw ((s.withSettings { s.settings with sides := s.settings.sides.set sd ((s.settings.sides.get sd).zeroed r) }).modifySide sd fun u => { u with target := some r.toNat }) := ReadingLaw_mod (h1 r) fun hu => by
        obtain ⟨a,b,c,d,e⟩ := hu
        exact ⟨by intro n hn; simp at hn; omega, by simp, c, d, e⟩
      simp only [hm, if_false]
      split <;> simp [h2]

@[simp] theorem ReadingLaw_engageSide {p sd} (h : ReadingLaw s) : ReadingLaw (engageSide p sd s) := by
  simp only [engageSide]; split
  · simpa using h
  · rename_i r hr
    have hb := (judge_bounds (s := s) (sd := sd) rfl).2 r hr
    split
    · simp; refine ReadingLaw_mod h fun hu => ?_
      obtain ⟨a,b,c,d,e⟩ := hu
      unfold SideUnit.engage SideUnit.valvesZero
      cases hs : (s.lev.get sd).state
      · refine ⟨?_, ?_, c, d, e⟩
        · intro n hn
          by_cases hm : (s.settings.sides.get sd).refMode = .slope
          · simp [hm] at hn; exact a n hn
          · have hb := hb.1 hm
            simp [hm] at hn
            cases hq : (s.lev.get sd).target
            · simp [hq] at hn; omega
            · rename_i m; have := a m hq; simp [hq] at hn; omega
        · intro _ hm; simp [hm]
      · exact ⟨a,b,c,d,e⟩
      · exact ⟨a, fun _ y => b (by simp [hs]) y, c, d, e⟩
    · simpa using h

@[simp] theorem ReadingLaw_disengageSide {p sd} (h : ReadingLaw s) : ReadingLaw (disengageSide p sd s) := by
  simp [disengageSide]
  refine ReadingLaw_mod h fun hu => ?_
  split
  · exact SideReadingLawful_toManual hu
  · exact SideReadingLawful_endJog hu

@[simp] theorem ReadingLaw_jogSide {p dir v sd} (h : ReadingLaw s) : ReadingLaw (jogSide p dir v sd s) := by
  simp only [jogSide]; split
  · simp
    refine ReadingLaw_mod h fun hu => ?_
    unfold SideUnit.startJog SideUnit.valvesZero SideUnit.drive
    split
    · exact SideReadingLawful_of hu rfl id rfl rfl rfl
    · cases dir <;> exact SideReadingLawful_of hu rfl id rfl rfl rfl
  · simpa using h

@[simp] theorem ReadingLaw_restartLevelling (h : ReadingLaw s) : ReadingLaw (restartLevelling s) := by
  simp only [restartLevelling]
  refine ReadingLaw_map (by simp [h]) fun sd hu => ?_
  exact SideReadingLawful_of hu rfl id rfl rfl rfl

@[simp] theorem ReadingLaw_restartPart (h : ReadingLaw s) : ReadingLaw (restartPart s) := by
  simp (maxDischargeDepth := 20) [restartPart, h]

end Sys2Proof.Machine
end

