-- ==== Sys2Proof/Laws/KeptTravel.lean ====
section
/-! SUPPORT. The operations of the travel and width unit keep TravelLaw. -/

namespace Sys2Proof.Machine

set_option linter.unusedVariables false
set_option linter.unnecessarySeqFocus false
set_option linter.unusedTactic false
set_option linter.unreachableTactic false
set_option linter.unusedSimpArgs false

variable {s : State}

theorem clamp3000 (v : Int) : (clampInt 0 3000 v).toNat ≤ 3000 := by unfold clampInt; (repeat' split) <;> omega

@[simp] theorem TravelLaw_widthUpdate (h : TravelLaw s) : TravelLaw (widthUpdate s) := by
  have he : ∀ e n, n ≤ 3000 → extensionOf e n ≤ 3000 := by
    intro e n hn; unfold extensionOf; split; exact clamp3000 _; exact hn
  have : TravelLaw (s.withTravel (s.travel.updateWidth s.seq.results[(9 : Fin 34)] s.seq.results[(10 : Fin 34)])) := by
    simp only [TravelLaw, State.withTravel_travel, Travel.updateWidth] at *
    refine ⟨h.1, h.2.1, h.2.2.1, h.2.2.2.1, h.2.2.2.2.1, h.2.2.2.2.2.1, h.2.2.2.2.2.2.1, h.2.2.2.2.2.2.2.1, h.2.2.2.2.2.2.2.2.1, h.2.2.2.2.2.2.2.2.2.1, ?_, ?_, ?_, ?_, ?_⟩
    · exact he _ _ h.2.2.2.2.2.2.2.2.2.2.1
    · exact he _ _ h.2.2.2.2.2.2.2.2.2.2.2.1
    · trivial
    · trivial
    · trivial
  simp only [widthUpdate]; split <;> simpa using this

@[simp] theorem TravelLaw_mediumRound (h : TravelLaw s) : TravelLaw (mediumRound s) := by
  simp only [mediumRound]; split <;> simp (maxDischargeDepth := 10) [h]

@[simp] theorem TravelLaw_roundCompletion {c} (h : TravelLaw s) : TravelLaw (roundCompletion c s) := by
  cases c <;> simp [roundCompletion, h]

end Sys2Proof.Machine
end

