-- ==== Sys2Proof/Laws/KeptRecords.lean ====
section
/-! SUPPORT. Binning, the open and the close of a record keep RecordLaw. -/

namespace Sys2Proof.Machine

set_option linter.unusedVariables false
set_option linter.unnecessarySeqFocus false
set_option linter.unusedTactic false
set_option linter.unreachableTactic false
set_option linter.unusedSimpArgs false

variable {s : State}

/-- What RecordLaw asks of the accumulators. -/
def ColumnsLawful (s : State) : Prop := (∀ c ∈ s.scan.columns, c.count ≤ 65535 ∧ c.sum ≤ 3000 * c.count)
    ∧ (∀ m, s.scan.minimum = some m → m ≤ 3000)
    ∧ s.scan.linesBinned ≤ 255 ∧ s.scan.linesRejected ≤ 15

/-- What RecordLaw asks of an open record. -/
def OpenRecordLawful (s : State) (r : OpenRecord) : Prop := s.settings.mode = .pave ∧ s.scan.columns.length = r.columns ∧ r.columns = r.width / 250
          ∧ 12 ≤ r.columns ∧ r.columns ≤ 36 ∧ r.start ≤ s.travel.distance ∧ r.speedMin ≤ r.speedMax
          ∧ r.trips ≤ 15 ∧ (1 ≤ r.sequence ∧ r.sequence ≤ 4294967295) ∧ s.record.nextSequence = seqNext r.sequence

theorem RecordLaw_iff : RecordLaw s ↔ ColumnsLawful s ∧ (1 ≤ s.record.nextSequence ∧ s.record.nextSequence ≤ 4294967295) ∧ ∀ r, s.record.current = some r → OpenRecordLawful s r := by
  unfold RecordLaw ColumnsLawful OpenRecordLawful; tauto

theorem RecordLaw_eq {u : State} (h0 : u.scan.columns = s.scan.columns ∧ u.scan.minimum = s.scan.minimum ∧ u.scan.linesBinned = s.scan.linesBinned ∧ u.scan.linesRejected = s.scan.linesRejected) (h1 : u.record = s.record) (h2 : u.settings.mode = s.settings.mode) (h3 : u.travel.distance = s.travel.distance) : RecordLaw u ↔ RecordLaw s := by
  obtain ⟨a,b,c,d⟩ := h0
  unfold RecordLaw; rw [a,b,c,d,h1,h2,h3]

theorem RecordLaw_rec {f : OpenRecord → OpenRecord} (h : RecordLaw s) (hf : ∀ r, (f r).columns = r.columns ∧ (f r).width = r.width ∧ (f r).start = r.start ∧ (f r).sequence = r.sequence) (hv : ∀ r, r.speedMin ≤ r.speedMax → (f r).speedMin ≤ (f r).speedMax) (ht : ∀ r, r.trips ≤ 15 → (f r).trips ≤ 15) : RecordLaw (report f s) := by
  rw [RecordLaw_iff] at *
  simp only [report]
  split
  · exact h
  · rename_i r hr
    refine ⟨h.1, h.2.1, fun x hx => ?_⟩
    simp at hx; subst hx
    obtain ⟨h1,h2,h3,h4,h5,h6,h7,h8,h9,h10⟩ := h.2.2 r hr
    obtain ⟨a,b,c,d⟩ := hf r
    unfold OpenRecordLawful
    rw [a,b,c,d]
    exact ⟨h1,h2,h3,h4,h5,h6,hv _ h7,ht _ h8,h9,h10⟩

@[simp] theorem RecordLaw_reportFlags {f} (h : RecordLaw s) : RecordLaw (reportFlags f s) := RecordLaw_rec h (fun r => ⟨rfl,rfl,rfl,rfl⟩) (fun _ h => h) (fun _ h => h)

@[simp] theorem RecordLaw_reportStarved {f} (h : RecordLaw s) : RecordLaw (reportStarved f s) := RecordLaw_rec h (fun r => ⟨rfl,rfl,rfl,rfl⟩) (fun _ h => h) (fun _ h => h)

@[simp] theorem RecordLaw_reportFaulted {f} (h : RecordLaw s) : RecordLaw (reportFaulted f s) := RecordLaw_rec h (fun r => ⟨rfl,rfl,rfl,rfl⟩) (fun _ h => h) (fun _ h => h)

@[simp] theorem RecordLaw_reportTrip (h : RecordLaw s) : RecordLaw (reportTrip s) := RecordLaw_rec h (fun r => ⟨rfl,rfl,rfl,rfl⟩) (fun _ h => h) (fun _ h => by simp)

theorem seqNext_range {n} (h : 1 ≤ n ∧ n ≤ 4294967295) : 1 ≤ seqNext n ∧ seqNext n ≤ 4294967295 := by
  unfold seqNext Config.max32; split <;> omega

theorem RecordLaw_open (ht : TravelLaw s) (hs : 1 ≤ s.record.nextSequence ∧ s.record.nextSequence ≤ 4294967295) (hm : s.settings.mode = .pave) : RecordLaw (openRecord s) := by
  rw [RecordLaw_iff]
  refine ⟨?_, ?_, ?_⟩
  · refine ⟨?_, by simp [openRecord, Scan.clearStep], by simp [openRecord, Scan.clearStep], by simp [openRecord, Scan.clearStep]⟩
    simp [openRecord, Scan.clearStep]
  · simpa [openRecord] using seqNext_range hs
  · intro r hr
    simp [openRecord] at hr
    subst hr
    have hw := ht.2.2.2.2.2.2.2.2.2.2
    have : s.travel.width / 250 ≤ 36 := by omega
    have : 12 ≤ s.travel.width / 250 := by omega
    refine ⟨by simpa using hm, by simp [openRecord, Scan.clearStep, newRecord], by simp [newRecord, columnCount], by simpa [newRecord, columnCount], by simpa [newRecord, columnCount], by simp [newRecord], by simp [newRecord], by simp [newRecord], by simpa [newRecord] using hs, by simp [openRecord, newRecord]⟩

theorem RecordLaw_none {u : State} (h : RecordLaw s) (h0 : u.scan = s.scan) (h1 : u.record.nextSequence = s.record.nextSequence) (h2 : u.record.current = none) : RecordLaw u := by
  rw [RecordLaw_iff] at *
  refine ⟨?_, ?_, by simp [h2]⟩
  · have := h.1; unfold ColumnsLawful at *; rw [h0]; exact this
  · rw [h1]; exact h.2.1

theorem closeRecord_current_and_nextSequence (a b) : (closeRecord a b s).record.current = none ∧ (closeRecord a b s).record.nextSequence = s.record.nextSequence := by
  simp only [closeRecord]; split
  · simp [*]
  · split <;> simp

@[simp] theorem RecordLaw_closeRecord {a b} (h : RecordLaw s) : RecordLaw (closeRecord a b s) :=
  RecordLaw_none h (by simp) (closeRecord_current_and_nextSequence a b).2 (closeRecord_current_and_nextSequence a b).1

@[simp] theorem TravelLaw_close {a b} : TravelLaw (closeRecord a b s) ↔ TravelLaw s := TravelLaw_congr (by simp)

@[simp] theorem RecordLaw_closeByStep (ht : TravelLaw s) (h : RecordLaw s) : RecordLaw (closeByStep s) := by
  simp only [closeByStep]; split
  · exact h
  · rename_i r hr
    split
    · have := (closeRecord_current_and_nextSequence (s := s) false false).2
      refine RecordLaw_open (by simpa using ht) (by rw [this]; exact (RecordLaw_iff.1 h).2.1) (by simpa using ((RecordLaw_iff.1 h).2.2 r hr).1)
    · exact h

theorem RecordLaw_travel {x : Travel} (h : RecordLaw s) (hx : s.travel.distance ≤ x.distance) : RecordLaw (s.withTravel x) := by
  rw [RecordLaw_iff] at *
  refine ⟨h.1, h.2.1, fun r hr => ?_⟩
  obtain ⟨h1,h2,h3,h4,h5,h6,h7⟩ := h.2.2 r hr
  exact ⟨h1,h2,h3,h4,h5,le_trans h6 hx,h7⟩

@[simp] theorem RecordLaw_recordWindow (ht : TravelLaw s) (h : RecordLaw s) : RecordLaw (recordWindow s) := by
  simp only [recordWindow]; split
  · rename_i r hr
    have := RecordLaw_rec (f := OpenRecord.window s.travel.speed s.travel.moving) h (fun r => ⟨rfl,rfl,rfl,rfl⟩) (fun r h => by simp only [OpenRecord.window]; omega) (fun _ h => h)
    simp [report, hr] at this; exact this
  · split
    · rename_i hc; simp at hc; exact RecordLaw_open ht (RecordLaw_iff.1 h).2.1 hc.2
    · exact h

@[simp] theorem RecordLaw_widthUpdate (h : RecordLaw s) : RecordLaw (widthUpdate s) := by
  have : RecordLaw (s.withTravel (s.travel.updateWidth s.seq.results[(9 : Fin 34)] s.seq.results[(10 : Fin 34)])) := RecordLaw_travel h (le_refl _)
  simp only [widthUpdate]; split
  · exact RecordLaw_reportFlags this
  · exact this

@[simp] theorem RecordLaw_mediumRound (h : RecordLaw s) : RecordLaw (mediumRound s) := by
  simp only [mediumRound]; split <;> simp (maxDischargeDepth := 10) [h]

@[simp] theorem RecordLaw_slowRound (h : RecordLaw s) : RecordLaw (slowRound s) := by
  simp only [slowRound]; split <;> simp (maxDischargeDepth := 10) [h]

@[simp] theorem RecordLaw_roundCompletion {c} (h : RecordLaw s) : RecordLaw (roundCompletion c s) := by
  cases c <;> simp [roundCompletion, h]

@[simp] theorem RecordLaw_cycleStart {b} (h : RecordLaw s) : RecordLaw (cycleStart b s) := by
  have : RecordLaw (if b then closeCycle s else s) := by split <;> simp (maxDischargeDepth := 10) [closeCycle, h]
  simp only [cycleStart]
  generalize (if b = true then closeCycle s else s) = u at *
  simp (maxDischargeDepth := 10) [this]

@[simp] theorem RecordLaw_cycleBoundary {b} (h : RecordLaw s) : RecordLaw (cycleBoundary b s) := by simp (maxDischargeDepth := 10) [cycleBoundary, h]

@[simp] theorem RecordLaw_startHeating (h : RecordLaw s) : RecordLaw (startHeating s) := by simp (maxDischargeDepth := 10) [startHeating, h]

@[simp] theorem RecordLaw_restartHeating (h : RecordLaw s) : RecordLaw (restartHeating s) := by
  simp only [restartHeating]; split <;> simp (maxDischargeDepth := 10) [h]

theorem RecordLaw_setm {x : Settings} (h : RecordLaw s) (hm : x.mode = s.settings.mode) : RecordLaw (s.withSettings x) := (RecordLaw_eq (s := s) (u := s.withSettings x) ⟨rfl,rfl,rfl,rfl⟩ rfl hm rfl).2 h

theorem RecordLaw_changeToTravel {m : State} (h : RecordLaw m) (h0 : s.scan = m.scan) (h1 : s.record = m.record) {o} (ho : o ≠ .pave → m.record.current = none) : RecordLaw (changeToTravel o s) := by
  simp only [changeToTravel]; split
  · refine RecordLaw_none h (by simp [h0]) ?_ (closeRecord_current_and_nextSequence _ _).1
    rw [(closeRecord_current_and_nextSequence _ _).2]; simp [h1]
  · rename_i hc
    refine RecordLaw_none h (by simp [h0]) (by simp [h1]) (by simp [h1, ho hc])

@[simp] theorem RecordLaw_storeSetting {st v} (h : RecordLaw s) : RecordLaw (storeSetting st v s) := by
  by_cases hst : st = .machineMode
  · subst hst
    simp only [storeSetting, settingApplied, modeApplied, Settings.write]
    have : ∀ m, RecordLaw (if m = s.settings.mode then s.withSettings { s.settings with mode := m } else modeChanged s.settings.mode (s.withSettings { s.settings with mode := m })) := ?_
    · exact this ((Mode.ofCode? v.toNat).getD s.settings.mode)
    intro m
    split
    · rename_i hm
      exact RecordLaw_setm h hm
    · rename_i hm
      have hn : s.settings.mode ≠ .pave → s.record.current = none := by
        intro hp; cases hc : s.record.current
        · rfl
        · exact absurd ((RecordLaw_iff.1 h).2.2 _ hc).1 hp
      have hno : ∀ u : State, u.scan = s.scan → u.record = s.record → s.settings.mode ≠ .pave → RecordLaw u := fun u a b c =>
        RecordLaw_none h a (by rw [b]) (by rw [b]; exact hn c)
      have hnm : ∀ x, s.settings.mode ≠ .pave → RecordLaw (s.withSettings x) := fun x c => hno _ rfl rfl c
      cases m
      all_goals simp only [modeChanged, State.withSettings_settings]
      · cases ho : s.settings.mode <;> simp only
        · exact absurd ho.symm hm
        · refine RecordLaw_none h (by simp [leavePave]) ?_ ?_
          · simp [leavePave, closeRecord_current_and_nextSequence]
          · simp [leavePave, closeRecord_current_and_nextSequence]
        · apply RecordLaw_startHeating; exact hnm _ (by simp [ho])
      · cases ho : s.settings.mode <;> simp only
        · exact hnm _ (by simp [ho])
        · exact absurd ho.symm hm
        · apply RecordLaw_startHeating; exact hnm _ (by simp [ho])
      · refine RecordLaw_changeToTravel (m := s) h ?_ ?_ hn <;> rfl
  · have h1 : RecordLaw (s.withSettings (s.settings.write st v)) := by
      apply RecordLaw_setm h
      cases st <;> first | rfl | exact absurd rfl hst
    simp only [storeSetting, settingApplied]
    split <;> (try split) <;> first | contradiction | simp (maxDischargeDepth := 10) [h1]

@[simp] theorem RecordLaw_setZeroSide {p sd} (h : RecordLaw s) : RecordLaw (setZeroSide p sd s) := by
  have h1 : ∀ x, RecordLaw (s.withSettings { s.settings with sides := x }) := fun x => RecordLaw_setm h rfl
  simp only [setZeroSide]; split
  · simp [h]
  · (repeat' split) <;> simp [h1]

@[simp] theorem RecordLaw_restartPart (h : RecordLaw s) : RecordLaw (restartPart s) := by
  simp only [restartPart]
  apply RecordLaw_restartHeating
  simp
  refine RecordLaw_travel (s := closeRecord _ _ _) (by simp [h]) ?_
  simp [Travel.restarted]

theorem binPixel_ok (st x0 n p w) (c : Scan) (h : (∀ k ∈ c.columns, k.count ≤ 65535 ∧ k.sum ≤ 3000 * k.count) ∧ (∀ m, c.minimum = some m → m ≤ 3000)) :
   ((∀ k ∈ (binPixel st x0 n c p w).columns, k.count ≤ 65535 ∧ k.sum ≤ 3000 * k.count) ∧ (∀ m, (binPixel st x0 n c p w).minimum = some m → m ≤ 3000)) ∧ (binPixel st x0 n c p w).columns.length = c.columns.length ∧ (binPixel st x0 n c p w).linesBinned = c.linesBinned ∧ (binPixel st x0 n c p w).linesRejected = c.linesRejected := by
  simp only [binPixel]
  split
  · exact ⟨h, rfl, rfl, rfl⟩
  · split
    · exact ⟨h, rfl, rfl, rfl⟩
    · refine ⟨⟨?_, ?_⟩, by simp, rfl, rfl⟩
      · intro k hk
        rw [List.mem_iff_getElem] at hk
        obtain ⟨i, hi, rfl⟩ := hk
        simp at hi
        simp only [List.getElem_modify]
        have hc := h.1 c.columns[i] (List.getElem_mem hi)
        split
        · simp only [Column.add, Column.isFull]
          by_cases hf : 65535 ≤ c.columns[i].count
          · simp [hf]; omega
          · simp [hf]; omega
        · exact hc
      · intro m hm
        simp at hm
        split at hm
        · omega
        · have := h.2 _ (by assumption); omega

theorem binLine_ok (st r line) (c : Scan) (h : (∀ k ∈ c.columns, k.count ≤ 65535 ∧ k.sum ≤ 3000 * k.count) ∧ (∀ m, c.minimum = some m → m ≤ 3000)) (hb : c.linesBinned ≤ 255) :
   ((∀ k ∈ (binLine st r line c).columns, k.count ≤ 65535 ∧ k.sum ≤ 3000 * k.count) ∧ (∀ m, (binLine st r line c).minimum = some m → m ≤ 3000)) ∧ (binLine st r line c).columns.length = c.columns.length ∧ (binLine st r line c).linesBinned ≤ 255 ∧ (binLine st r line c).linesRejected = c.linesRejected := by
  simp only [binLine]
  have : ∀ (l : List (Word × Nat)) (c : Scan), (∀ k ∈ c.columns, k.count ≤ 65535 ∧ k.sum ≤ 3000 * k.count) ∧ (∀ m, c.minimum = some m → m ≤ 3000) →
     ((∀ k ∈ (l.foldl (fun acc (w, p) => binPixel st r.x0 r.columns acc p w) c).columns, k.count ≤ 65535 ∧ k.sum ≤ 3000 * k.count) ∧ (∀ m, (l.foldl (fun acc (w, p) => binPixel st r.x0 r.columns acc p w) c).minimum = some m → m ≤ 3000)) ∧ (l.foldl (fun acc (w, p) => binPixel st r.x0 r.columns acc p w) c).columns.length = c.columns.length ∧ (l.foldl (fun acc (w, p) => binPixel st r.x0 r.columns acc p w) c).linesBinned = c.linesBinned ∧ (l.foldl (fun acc (w, p) => binPixel st r.x0 r.columns acc p w) c).linesRejected = c.linesRejected := by
    intro l
    induction l with
    | nil => intro c h; exact ⟨h, rfl, rfl, rfl⟩
    | cons x l ih =>
      intro c h
      have hx := binPixel_ok st r.x0 r.columns x.2 x.1 c h
      have := ih _ hx.1
      simp only [List.foldl_cons]
      rw [hx.2.1, hx.2.2.1, hx.2.2.2] at this
      exact this
  have := this line.pixels.zipIdx { c with linesBinned := satAdd 255 c.linesBinned 1 } h
  refine ⟨this.1, this.2.1, ?_, this.2.2.2⟩
  rw [this.2.2.1]; simp [satAdd]

end Sys2Proof.Machine
end

