-- ==== Sys2Proof/Laws/KeptSequencer.lean ====
section
/-! SUPPORT. The operations of the measurement sequencer keep SequencerLaw. -/

namespace Sys2Proof.Machine

set_option linter.unusedVariables false
set_option linter.unnecessarySeqFocus false
set_option linter.unusedTactic false
set_option linter.unreachableTactic false
set_option linter.unusedSimpArgs false

variable {s : State}

theorem started_ok (n b) (u : State) (hu : u.seq = Sequencer.started n b) : SequencerLaw u := by
  unfold SequencerLaw Sequencer.served
  rw [hu]
  refine ⟨by show List.Pairwise _ (List.finRange 34).tail; decide, ?_, ?_, ?_⟩
  · intro cls; cases cls <;> simp [Sequencer.started, PerClass.get]
  · intro c; simp [Sequencer.started, ResultEntry.unconverted]
  · intro c
    by_cases hc : c = 0
    · subst c; right; left; exact ⟨_, .inl rfl⟩
    · left; simp [Sequencer.started]; revert c; decide

@[simp] theorem SequencerLaw_slowRound (h : SequencerLaw s) : SequencerLaw (slowRound s) := by
  have : ∀ b, SequencerLaw (s.withSeq { s.seq with conditionSuspect := b }) := fun b => h
  simp only [slowRound]; split <;> simp [this]

@[simp] theorem SequencerLaw_roundCompletion {c} (h : SequencerLaw s) : SequencerLaw (roundCompletion c s) := by
  cases c <;> simp [roundCompletion, h]

end Sys2Proof.Machine
end

