-- ==== Sys2Proof/Laws/KeptStore.lean ====
section
/-! SUPPORT. Storing, delivery and release keep StoreLaw. -/

namespace Sys2Proof.Machine

set_option linter.unusedVariables false
set_option linter.unnecessarySeqFocus false
set_option linter.unusedTactic false
set_option linter.unreachableTactic false
set_option linter.unusedSimpArgs false

variable {s : State}

/-- What storing the open record needs to know of it. -/
def OpenRecordStorable (s : State) : Prop := ∀ r, s.record.current = some r → (12 ≤ s.scan.columns.length ∧ s.scan.columns.length ≤ 36) ∧ (1 ≤ r.sequence ∧ r.sequence ≤ 4294967295) ∧ s.record.nextSequence = seqNext r.sequence

theorem OpenRecordStorable_of (h : RecordLaw s) : OpenRecordStorable s := by
  intro r hr
  have := h.2.2.2.2.2 r hr
  refine ⟨by omega, this.2.2.2.2.2.2.2.2.1, this.2.2.2.2.2.2.2.2.2⟩

theorem OpenRecordStorable_eq {u : State} (h : OpenRecordStorable s) (h1 : u.record = s.record) (h2 : u.scan = s.scan) : OpenRecordStorable u := by
  unfold OpenRecordStorable; rw [h1,h2]; exact h

/-- What StoreLaw asks of the store by itself. -/
def StoreSelfLawful (st : Store) : Prop := consecutiveFrom st.base st.records
    ∧ (∀ r ∈ st.records, 29 ≤ r.words.length ∧ r.words.length ≤ 55)
    ∧ st.used ≤ 8192
    ∧ (1 ≤ st.base ∧ st.base ≤ 4294967295)
    ∧ st.newest ≤ 4294967295
    ∧ seqNext st.newest = seqAfter st.base st.records.length
    ∧ (∃ k, k ≤ st.records.length ∧ st.cursor = seqAfter st.base k)
    ∧ st.droppedTotal ≤ 65535
    ∧ (∀ r due, st.slot = .copying r due ∨ st.slot = .ready r due → 1 ≤ r.sequence ∧ r.sequence ≤ 4294967295)

theorem StoreLaw_iff : StoreLaw s ↔ StoreSelfLawful s.store ∧ s.store.eventDrops = 0 ∧ nextStored s = seqNext s.store.newest := by
  unfold StoreLaw StoreSelfLawful; tauto

theorem StoreLaw_eq {u : State} (h0 : u.store = s.store) (h1 : nextStored u = nextStored s) : StoreLaw u ↔ StoreLaw s := by
  rw [StoreLaw_iff, StoreLaw_iff, h0, h1]

@[simp] theorem StoreLaw_report {f : OpenRecord → OpenRecord} (hf : ∀ r, (f r).sequence = r.sequence) : StoreLaw (report f s) ↔ StoreLaw s := by
  apply StoreLaw_eq (by simp)
  simp only [report]; split
  · rfl
  · simp [nextStored, hf, *]

@[simp] theorem StoreLaw_reportFlags {f} : StoreLaw (reportFlags f s) ↔ StoreLaw s := StoreLaw_report (by intro; rfl)

@[simp] theorem StoreLaw_reportStarved {f} : StoreLaw (reportStarved f s) ↔ StoreLaw s := StoreLaw_report (by intro; rfl)

@[simp] theorem StoreLaw_reportFaulted {f} : StoreLaw (reportFaulted f s) ↔ StoreLaw s := StoreLaw_report (by intro; rfl)

@[simp] theorem StoreLaw_reportTrip : StoreLaw (reportTrip s) ↔ StoreLaw s := StoreLaw_report (by intro; rfl)

theorem StoreLaw_store {x} (h : StoreLaw s) (hx : StoreSelfLawful x) (hn : x.newest = s.store.newest) (he : x.eventDrops = s.store.eventDrops) : StoreLaw (s.withStore x) := by
  rw [StoreLaw_iff] at *
  refine ⟨hx, by simpa [he] using h.2.1, by simp [hn]; exact h.2.2⟩

theorem seqAfter_range {b} (h : 1 ≤ b ∧ b ≤ 4294967295) : ∀ k, 1 ≤ seqAfter b k ∧ seqAfter b k ≤ 4294967295
  | 0 => h
  | k+1 => seqNext_range (seqAfter_range h k)

theorem seqAfter_val {b} (h : 1 ≤ b ∧ b ≤ 4294967295) : ∀ k, seqAfter b k = (b - 1 + k) % 4294967295 + 1
  | 0 => by simp [seqAfter]; omega
  | k+1 => by
    rw [seqAfter, seqAfter_val h k]; unfold seqNext Config.max32; split <;> omega

theorem seqAfter_shift (b) : ∀ k, seqAfter (seqNext b) k = seqAfter b (k+1)
  | 0 => rfl
  | k+1 => by rw [seqAfter, seqAfter_shift b k]; rfl

theorem consec_get {n} {l : List StoredRecord} (h : consecutiveFrom n l) : ∀ i (hi : i < l.length), l[i].sequence = seqAfter n i := by
  induction l generalizing n with
  | nil => intro i hi; simp at hi
  | cons r l ih =>
    intro i hi
    cases i with
    | zero => exact h.1
    | succ i => simp; rw [ih h.2 i (by simpa using hi), seqAfter_shift]

theorem consec_append {n r} {l : List StoredRecord} (h : consecutiveFrom n l) (hr : r.sequence = seqAfter n l.length) : consecutiveFrom n (l ++ [r]) := by
  induction l generalizing n with
  | nil => exact ⟨hr, trivial⟩
  | cons x l ih => exact ⟨h.1, ih h.2 (by rw [hr, seqAfter_shift]; rfl)⟩

theorem used_len {st : Store} (h : ∀ r ∈ st.records, 29 ≤ r.words.length ∧ r.words.length ≤ 55) (hu : st.used ≤ 8192) : st.records.length ≤ 282 := by
  have : 29 * st.records.length ≤ st.used := by
    unfold Store.used
    generalize st.records = l at h
    induction l with
    | nil => simp
    | cons r l ih =>
      have h1 := h r (by simp)
      have := ih (fun x hx => h x (by simp [hx]))
      simp; omega
  omega

theorem StoreSelfLawful_freeBase {st : Store} (h : StoreSelfLawful st) : StoreSelfLawful st.freeBase := by
  have hlen := used_len h.2.1 h.2.2.1
  obtain ⟨h1,h2,h3,h4,h5,h6,⟨k,hk,h7⟩,h8,h9⟩ := h
  unfold Store.freeBase
  split
  · exact ⟨h1,h2,h3,h4,h5,h6,⟨k,hk,h7⟩,h8,h9⟩
  · rename_i r rest hr
    rw [hr] at h1 h2 h6 hk hlen
    simp at hk hlen
    unfold Store.raiseCursor
    refine ⟨h1.2, fun x hx => h2 x (by simp [hx]), ?_, seqNext_range h4, h5, ?_, ?_, h8, h9⟩
    · simp [Store.used, hr] at h3 ⊢; omega
    · simp only; rw [h6, seqAfter_shift]; rfl
    · have hb := seqNext_range h4
      simp only
      rw [h7, seqAfter_val h4]
      cases k with
      | zero =>
        refine ⟨0, by simp, ?_⟩
        simp [seqAfter]
        intro hc; unfold seqBehind seqDistance seqNext Config.max32 at *; simp at hc; split at hc <;> split <;> omega
      | succ k =>
        refine ⟨k, by omega, ?_⟩
        rw [seqAfter_shift, seqAfter_val h4]
        rw [if_neg]
        unfold seqBehind seqDistance seqNext Config.max32 at *; simp; split <;> omega

theorem freeBase_newest (st : Store) : st.freeBase.newest = st.newest ∧ st.freeBase.eventDrops = st.eventDrops ∧ st.freeBase.slot = st.slot ∧ st.freeBase.droppedTotal = st.droppedTotal := by
  unfold Store.freeBase; split <;> simp [Store.raiseCursor]

theorem StoreSelfLawful_drop {st : Store} (h : StoreSelfLawful st) : StoreSelfLawful st.drop := by
  obtain ⟨h1,h2,h3,h4,h5,h6,h7,h8,h9⟩ := StoreSelfLawful_freeBase h
  exact ⟨h1,h2,h3,h4,h5,h6,h7,by simp [Store.drop, satAdd],h9⟩

theorem freeBase_len (st : Store) : st.freeBase.records.length = st.records.length - 1 := by
  unfold Store.freeBase; split <;> simp [Store.raiseCursor, *]

theorem dropWhile_ok (len) (hlen : len ≤ 60) : ∀ n (st : Store), StoreSelfLawful st → st.records.length ≤ n → StoreSelfLawful (Store.dropWhile len n st) ∧ (Store.dropWhile len n st).newest = st.newest ∧ (Store.dropWhile len n st).required len ≤ (Store.dropWhile len n st).freeWords
  | 0, st, h, hn => by
    refine ⟨h, rfl, ?_⟩
    have : st.records = [] := by simpa using hn
    by_cases hd : 0 < st.eventDrops <;> simp [Store.dropWhile, Store.required, Store.freeWords, Store.used, this, Config.ringWords, hd] <;> omega
  | n+1, st, h, hn => by
    simp only [Store.dropWhile]
    split
    · have := dropWhile_ok len hlen n st.drop (StoreSelfLawful_drop h) (by simp [Store.drop, freeBase_len]; omega)
      refine ⟨this.1, ?_, this.2.2⟩
      rw [this.2.1]; simp [Store.drop, freeBase_newest]
    · exact ⟨h, rfl, by omega⟩

theorem body_len (h : Header) (p d : Nat) (c : List Word) : (recordBody h p d c).length = 16 + (if h.pauseFlag then 1 else 0) + (if h.dropsFlag then 1 else 0) + c.length := by
  unfold recordBody Header.words dwordWords
  split <;> split <;> simp <;> omega

theorem storeRecord_ok {h : Header} {p} {cols : List Word} (hs : StoreLaw s) (hc : 12 ≤ cols.length ∧ cols.length ≤ 36) (hd : h.dropsFlag = false) (hq : h.sequence = seqNext s.store.newest) :
    StoreSelfLawful (storeRecord h p cols s).1.store ∧ (storeRecord h p cols s).1.store.eventDrops = 0 ∧ (storeRecord h p cols s).1.store.newest = h.sequence := by
  have hO := (StoreLaw_iff.1 hs).1
  have hl := body_len h p 0 cols
  have hlb : (recordBody h p 0 cols).length ≤ 60 := by rw [hl, hd]; simp; split <;> omega
  have hm := dropWhile_ok (recordBody h p 0 cols).length hlb s.store.records.length { s.store with eventDrops := 0 } hO (le_refl _)
  have e1 : (storeRecord h p cols s).1.store = (s.store.makeRoom (recordBody h p 0 cols).length).push { sequence := h.sequence, words := withCheckWord (recordBody { h with dropsFlag := 0 < (s.store.makeRoom (recordBody h p 0 cols).length).eventDrops } p (s.store.makeRoom (recordBody h p 0 cols).length).eventDrops cols) } := by
    simp [storeRecord]
  rw [e1]
  have hm : StoreSelfLawful (s.store.makeRoom (recordBody h p 0 cols).length) ∧ (s.store.makeRoom (recordBody h p 0 cols).length).newest = s.store.newest ∧ (s.store.makeRoom (recordBody h p 0 cols).length).required (recordBody h p 0 cols).length ≤ (s.store.makeRoom (recordBody h p 0 cols).length).freeWords := hm
  generalize (s.store.makeRoom (recordBody h p 0 cols).length) = st at *
  obtain ⟨⟨h1,h2,h3,h4,h5,h6,⟨k,hk,h7⟩,h8,h9⟩, hn, hreq⟩ := hm
  have hseq : h.sequence = seqAfter st.base st.records.length := by rw [hq, ← hn, h6]
  have hlen2 : (withCheckWord (recordBody { h with dropsFlag := 0 < st.eventDrops } p st.eventDrops cols)).length = st.required (recordBody h p 0 cols).length := by
    simp only [withCheckWord, List.length_append, body_len, Store.required, hd]
    simp; omega
  have hb := seqAfter_range h4 st.records.length
  refine ⟨⟨consec_append h1 hseq, ?_, ?_, h4, ?_, ?_, ⟨k, by simp [Store.push]; omega, h7⟩, h8, h9⟩, rfl, rfl⟩
  · intro r hr
    simp [Store.push] at hr
    rcases hr with hr | rfl
    · exact h2 r hr
    · simp only [hlen2, Store.required, hl, hd]; simp; (repeat' split) <;> omega
  · have : (st.push ⟨h.sequence, withCheckWord (recordBody { h with dropsFlag := 0 < st.eventDrops } p st.eventDrops cols)⟩).used = st.used + st.required (recordBody h p 0 cols).length := by
      simp [Store.used, Store.push, hlen2]
    rw [this]
    unfold Store.freeWords Config.ringWords at hreq; omega
  · simp [Store.push]; omega
  · simp [Store.push]; rw [hseq]; rfl

theorem StoreLaw_closeRecord {a b} (hr : OpenRecordStorable s) (h : StoreLaw s) : StoreLaw (closeRecord a b s) := by
  have hf := closeRecord_current_and_nextSequence (s := s) a b
  cases hc : s.record.current with
  | none => simpa [closeRecord, hc] using h
  | some r =>
    have hr := hr r hc
    have hns : r.sequence = seqNext s.store.newest := by
      have := (StoreLaw_iff.1 h).2.2; simpa [nextStored, hc] using this
    have := storeRecord_ok (h := assembleHeader s r a b) (p := r.pause) (cols := s.scan.columns.map (Column.word s.settings.record.coldLimit)) h (by simpa using hr.1) rfl hns
    have hst : (closeRecord a b s).store = (storeRecord (assembleHeader s r a b) r.pause (s.scan.columns.map (Column.word s.settings.record.coldLimit)) s).1.store := by
      simp only [closeRecord, hc]; split <;> simp
    rw [StoreLaw_iff, hst]
    refine ⟨this.1, this.2.1, ?_⟩
    rw [this.2.2]
    simp [nextStored, hf.1, hf.2, hr.2.2]; rfl

@[simp] theorem StoreLaw_openRecord (h : StoreLaw s) (hn : s.record.current = none) : StoreLaw (openRecord s) := by
  refine (StoreLaw_eq (by simp) ?_).2 h
  simp [nextStored, openRecord, newRecord, hn]

theorem StoreLaw_closeByStep (hr : OpenRecordStorable s) (h : StoreLaw s) : StoreLaw (closeByStep s) := by
  simp only [closeByStep]; split
  · exact h
  · split
    · exact StoreLaw_openRecord (StoreLaw_closeRecord hr h) (closeRecord_current_and_nextSequence _ _).1
    · exact h

@[simp] theorem StoreLaw_recordWindow (h : StoreLaw s) : StoreLaw (recordWindow s) := by
  simp only [recordWindow]; split
  · rename_i r hr
    refine (StoreLaw_eq (by simp) ?_).2 h
    simp [nextStored, OpenRecord.window, hr]
  · split
    · exact StoreLaw_openRecord h (by assumption)
    · exact h

@[simp] theorem StoreLaw_widthUpdate : StoreLaw (widthUpdate s) ↔ StoreLaw s := by
  simp only [widthUpdate]; split
  · rw [StoreLaw_reportFlags]; simp
  · simp

@[simp] theorem StoreLaw_mediumRound : StoreLaw (mediumRound s) ↔ StoreLaw s := by
  simp only [mediumRound]; split <;> simp

@[simp] theorem StoreLaw_slowRound : StoreLaw (slowRound s) ↔ StoreLaw s := by
  simp only [slowRound]; split <;> simp

@[simp] theorem StoreLaw_roundCompletion {c} : StoreLaw (roundCompletion c s) ↔ StoreLaw s := by
  cases c <;> simp [roundCompletion]

@[simp] theorem StoreLaw_cycleStart {b} : StoreLaw (cycleStart b s) ↔ StoreLaw s := by
  simp only [cycleStart]; split <;> simp [closeCycle]

@[simp] theorem StoreLaw_cycleBoundary {b} : StoreLaw (cycleBoundary b s) ↔ StoreLaw s := by simp [cycleBoundary]

@[simp] theorem StoreLaw_startHeating : StoreLaw (startHeating s) ↔ StoreLaw s := by simp [startHeating]

@[simp] theorem StoreLaw_restartHeating : StoreLaw (restartHeating s) ↔ StoreLaw s := by
  simp only [restartHeating]; split <;> simp

theorem StoreLaw_modeApplied {o} (hr : OpenRecordStorable s) (h : StoreLaw s) : StoreLaw (modeApplied o s) := by
  simp only [modeApplied, modeChanged]
  split
  · exact h
  · split <;> (try simp [h, leavePave, changeToTravel])
    · split <;> (try simp [h])
      refine StoreLaw_closeRecord ?_ (by simp [h])
      exact OpenRecordStorable_eq hr (by simp) (by simp)
    · exact StoreLaw_closeRecord hr h

theorem StoreLaw_storeSetting {st v} (hr : OpenRecordStorable s) (h : StoreLaw s) : StoreLaw (storeSetting st v s) := by
  have h1 : StoreLaw (s.withSettings (s.settings.write st v)) := by simpa using h
  have hr1 : OpenRecordStorable (s.withSettings (s.settings.write st v)) := hr
  simp only [storeSetting, settingApplied]
  split <;> (try split) <;> first | exact StoreLaw_modeApplied hr1 h1 | exact h1 | simp (maxDischargeDepth := 10) [h1]

theorem holds_at {st : Store} {n} (h4 : 1 ≤ st.base ∧ st.base ≤ 4294967295) (hn : 1 ≤ n ∧ n ≤ 4294967295) (h : st.holds n = true) : ∃ j, j < st.records.length ∧ n = seqAfter st.base j := by
  simp only [Store.holds, decide_eq_true_eq] at h
  obtain ⟨d, hd⟩ : ∃ d, d = seqDistance st.base n := ⟨_, rfl⟩
  rw [← hd] at h
  refine ⟨d, h, ?_⟩
  rw [seqAfter_val h4, hd]; simp only [seqDistance, Config.max32]; omega

theorem deliver_cursor {st : Store} {r : StoredRecord} : (st.deliver r).cursor = st.cursor ∨ (st.holds r.sequence = true ∧ (st.deliver r).cursor = seqNext r.sequence) := by
  simp only [Store.deliver]
  split
  · rename_i hc
    rw [Bool.and_eq_true] at hc
    exact .inr ⟨hc.1, rfl⟩
  · exact .inl rfl

theorem StoreSelfLawful_deliver {st : Store} {r due} (h : StoreSelfLawful st) (hs : st.slot = .ready r due) : StoreSelfLawful (st.deliver r) := by
  obtain ⟨h1,h2,h3,h4,h5,h6,⟨k,hk,h7⟩,h8,h9⟩ := h
  have e1 : (st.deliver r).base = st.base := by rw [Store.deliver]
  have e2 : (st.deliver r).records = st.records := by rw [Store.deliver]
  have e3 : (st.deliver r).newest = st.newest := by rw [Store.deliver]
  have e4 : (st.deliver r).droppedTotal = st.droppedTotal := by rw [Store.deliver]
  have e5 : (st.deliver r).slot = .empty := by rw [Store.deliver]
  unfold StoreSelfLawful Store.used
  rw [e1,e2,e3,e4,e5]
  refine ⟨h1,h2,h3,h4,h5,h6,?_,h8,by simp⟩
  rcases deliver_cursor (st := st) (r := r) with hc | ⟨hh, hc⟩
  · rw [hc]; exact ⟨k,hk,h7⟩
  · obtain ⟨j, hj, hjs⟩ := holds_at h4 (h9 r due (.inr hs)) hh
    exact ⟨j + 1, by omega, by rw [hc, hjs, seqAfter]⟩

theorem StoreSelfLawful_empty {st : Store} (h : StoreSelfLawful st) : StoreSelfLawful st.emptySlot := by
  obtain ⟨h1,h2,h3,h4,h5,h6,h7,h8,h9⟩ := h
  exact ⟨h1,h2,h3,h4,h5,h6,h7,h8,by simp [Store.emptySlot]⟩

@[simp] theorem StoreLaw_fetch (h : StoreLaw s) : StoreLaw (fetchFromD s) := by
  have hO := (StoreLaw_iff.1 h).1
  simp only [fetchFromD]; split
  · simp; exact StoreLaw_store h (StoreSelfLawful_deliver hO (by assumption)) (by simp [Store.deliver]) (by simp [Store.deliver])
  · simpa using h
  · split
    · simpa using h
    · rename_i r hr
      simp
      refine StoreLaw_store h ?_ rfl rfl
      obtain ⟨h1,h2,h3,h4,h5,h6,h7,h8,h9⟩ := hO
      refine ⟨h1,h2,h3,h4,h5,h6,h7,h8,?_⟩
      intro x due hx; simp at hx
      obtain ⟨rfl, -⟩ := hx
      unfold Store.atCursor at hr
      rw [List.getElem?_eq_some_iff] at hr
      obtain ⟨hi, rfl⟩ := hr
      rw [consec_get h1]
      exact seqAfter_range h4 _

@[simp] theorem StoreLaw_release {n} (h : StoreLaw s) : StoreLaw (releaseFromD n s) := by
  have hO := (StoreLaw_iff.1 h).1
  have h1 := StoreLaw_store h (StoreSelfLawful_empty hO) rfl rfl
  have h2 := StoreLaw_store h (StoreSelfLawful_empty (StoreSelfLawful_freeBase hO)) (freeBase_newest _).1 (freeBase_newest _).2.1
  simp only [releaseFromD]; (repeat' split) <;> simp [h1, h2]

@[simp] theorem StoreLaw_restartPart (hr : OpenRecordStorable s) (h : StoreLaw s) : StoreLaw (restartPart s) := by
  simp [restartPart]
  refine StoreLaw_closeRecord ?_ (by simp [h])
  exact OpenRecordStorable_eq hr (by simp) (by simp)

end Sys2Proof.Machine
end

