-- ==== Sys2Proof/Laws/PerInstr.lean ====
section
/-! SUPPORT. A statement about every command as syntax, with one lemma for each constructor: the frame of a request is well
formed (R160, R175). -/

namespace Sys2Proof.Laws

open Sys2Proof.Machine

/-- The frame of a request sums to 0, and holds at most eight data bytes: twelve bytes with code, item byte, length and check
byte. -/
def RequestFrame.Statement (c : Instr) : Prop :=
  ∀ p bytes, requestFrame c = some (p, bytes) → byteSum bytes = 0#8 ∧ bytes.length ≤ 12

/-- Every frame that `frameOf` makes of at most eight data bytes is well formed. -/
theorem frameOf_wellFormed {c : Instr} {p : Port} {code item : Byte} {data : List Byte} (hd : data.length ≤ 8)
    (h : requestFrame c = some (p, frameOf code item data)) : RequestFrame.Statement c := by
  intro q bytes hb
  rw [h] at hb
  cases hb
  refine ⟨byteSum_check _, ?_⟩
  simp only [frameOf, withCheckByte, List.length_append, List.length_cons, List.length_nil]
  omega

/-- A command that is no request has no frame. -/
theorem noFrame {c : Instr} (h : requestFrame c = none) : RequestFrame.Statement c := by
  intro q bytes hb
  rw [h] at hb
  cases hb

theorem RequestFrame.powerOn : RequestFrame.Statement .powerOn := noFrame rfl

theorem RequestFrame.forwardPulse : RequestFrame.Statement .forwardPulse := noFrame rfl

theorem RequestFrame.reversePulse : RequestFrame.Statement .reversePulse := noFrame rfl

theorem RequestFrame.radarPulse : RequestFrame.Statement .radarPulse := noFrame rfl

theorem RequestFrame.secondsCountTick : RequestFrame.Statement .secondsCountTick := noFrame rfl

theorem RequestFrame.speedWindowExpiry : RequestFrame.Statement .speedWindowExpiry := noFrame rfl

theorem RequestFrame.plausibilityWindowExpiry : RequestFrame.Statement .plausibilityWindowExpiry := noFrame rfl

theorem RequestFrame.classPeriodExpiry (cls : SampleClass) : RequestFrame.Statement (.classPeriodExpiry cls) := noFrame rfl

theorem RequestFrame.converterTake : RequestFrame.Statement .converterTake := noFrame rfl

theorem RequestFrame.settleEnd : RequestFrame.Statement .settleEnd := noFrame rfl

theorem RequestFrame.conversionCompletion (count : BitVec 12) (pins : Pins) : RequestFrame.Statement (.conversionCompletion count pins) :=
  noFrame rfl

theorem RequestFrame.overloadRecoveryEnd : RequestFrame.Statement .overloadRecoveryEnd := noFrame rfl

theorem RequestFrame.sampleTimerExpiry : RequestFrame.Statement .sampleTimerExpiry := noFrame rfl

theorem RequestFrame.jogTimerExpiry (side : Side) : RequestFrame.Statement (.jogTimerExpiry side) := noFrame rfl

theorem RequestFrame.prefillTimerExpiry (drive : Drive) : RequestFrame.Statement (.prefillTimerExpiry drive) := noFrame rfl

theorem RequestFrame.scannerLine (bytes : List Byte) (framed : Bool) : RequestFrame.Statement (.scannerLine bytes framed) :=
  noFrame rfl

theorem RequestFrame.scannerSilenceExpiry : RequestFrame.Statement .scannerSilenceExpiry := noFrame rfl

theorem RequestFrame.sliceStart : RequestFrame.Statement .sliceStart := noFrame rfl

theorem RequestFrame.heatingWaitEnd : RequestFrame.Statement .heatingWaitEnd := noFrame rfl

theorem RequestFrame.readback (pins : Pins) : RequestFrame.Statement (.readback pins) := noFrame rfl

theorem RequestFrame.trip (phase : Fin 3) : RequestFrame.Statement (.trip phase) := noFrame rfl

theorem RequestFrame.read (port : Port) (item : Byte) (pins : Pins) : RequestFrame.Statement (.read port item pins) :=
  frameOf_wellFormed (by simp) rfl

theorem RequestFrame.write (port : Port) (item : Byte) (value : Word) : RequestFrame.Statement (.write port item value) :=
  frameOf_wellFormed (by simp [wordBytes]) rfl

theorem RequestFrame.page (port : Port) (value : Byte) : RequestFrame.Statement (.page port value) :=
  frameOf_wellFormed (by simp) rfl

theorem RequestFrame.takeAlerts (port : Port) : RequestFrame.Statement (.takeAlerts port) :=
  frameOf_wellFormed (by simp) rfl

theorem RequestFrame.alertDone (port : Port) : RequestFrame.Statement (.alertDone port) := frameOf_wellFormed (by simp) rfl

theorem RequestFrame.engage (port : Port) (item : Byte) : RequestFrame.Statement (.engage port item) :=
  frameOf_wellFormed (by simp) rfl

theorem RequestFrame.disengage (port : Port) (item : Byte) : RequestFrame.Statement (.disengage port item) :=
  frameOf_wellFormed (by simp) rfl

theorem RequestFrame.setZero (port : Port) (item : Byte) : RequestFrame.Statement (.setZero port item) :=
  frameOf_wellFormed (by simp) rfl

theorem RequestFrame.jog (port : Port) (item : Byte) (direction : Byte) (duty : Word) : RequestFrame.Statement (.jog port item direction duty) :=
  frameOf_wellFormed (by simp [wordBytes]) rfl

theorem RequestFrame.prefill (port : Port) (item : Byte) : RequestFrame.Statement (.prefill port item) :=
  frameOf_wellFormed (by simp) rfl

theorem RequestFrame.clearFault (port : Port) (item : Byte) (pins : Pins) : RequestFrame.Statement (.clearFault port item pins) :=
  frameOf_wellFormed (by simp) rfl

theorem RequestFrame.fetch (port : Port) : RequestFrame.Statement (.fetch port) := frameOf_wellFormed (by simp) rfl

theorem RequestFrame.release (port : Port) (sequence : DWord) : RequestFrame.Statement (.release port sequence) :=
  frameOf_wellFormed (by simp [dwordBytes]) rfl

theorem RequestFrame.rewind (port : Port) : RequestFrame.Statement (.rewind port) := frameOf_wellFormed (by simp) rfl

theorem RequestFrame.restart (port : Port) : RequestFrame.Statement (.restart port) := frameOf_wellFormed (by simp) rfl

theorem RequestFrame.portReset (port : Port) : RequestFrame.Statement (.portReset port) := frameOf_wellFormed (by simp) rfl

theorem RequestFrame.badFrame (port : Port) (checkPassed : Bool) : RequestFrame.Statement (.badFrame port checkPassed) :=
  noFrame rfl

theorem RequestFrame.copyCompletion : RequestFrame.Statement .copyCompletion := noFrame rfl

theorem RequestFrame.heldAnswerExpiry : RequestFrame.Statement .heldAnswerExpiry := noFrame rfl

theorem RequestFrame.application (port : Port) : RequestFrame.Statement (.application port) := noFrame rfl

theorem RequestFrame.presenceTimeout (port : Port) : RequestFrame.Statement (.presenceTimeout port) := noFrame rfl

theorem RequestFrame.scannerRunStart : RequestFrame.Statement .scannerRunStart := noFrame rfl

end Sys2Proof.Laws
end

