-- ==== Sys2Proof/Laws/QuietPorts.lean ====
section
/-! SUPPORT. What the shared operations leave of a port: a raise changes its pending set and its line only, and so does all that an
application, a close or RESTART does to a port beyond its own entry. -/

namespace Sys2Proof.Machine

set_option linter.unusedSimpArgs false

/-- A port without its alerts: the pending set and the ALERT line left out. -/
def PortState.quiet (p : PortState) : PortState := { p with pendingSet := 0#16, line := false }

theorem quiet_portRaised (mask : AlertSet) (k : AlertKind) (p : PortState) : (portRaised mask k p).quiet = p.quiet := rfl

@[simp] theorem quiet_reline (mask : AlertSet) (p : PortState) : (p.reline mask).quiet = p.quiet := rfl

theorem quiet_modifyPort (f : PortState → PortState) (hf : ∀ p, (f p).quiet = p.quiet) (s : State) (p q : Port) :
    ((s.modifyPort p f).ports.get q).quiet = (s.ports.get q).quiet := by
  simp only [State.modifyPort, State.withPorts_ports, PerPort.get_set]; split
  · rename_i h; subst h; exact hf _
  · rfl

section
variable (s : State) (q : Port)

@[simp] theorem quiet_raiseAll (k : AlertKind) : ((raiseAll k s).ports.get q).quiet = (s.ports.get q).quiet := by
  rw [raiseAll_get]; rfl

@[simp] theorem quiet_raiseAllIf (c : Bool) (k : AlertKind) :
    ((raiseAllIf c k s).ports.get q).quiet = (s.ports.get q).quiet := by
  simp only [raiseAllIf]; split <;> simp

@[simp] theorem quiet_dropSide (sd : Side) : ((dropSide sd s).ports.get q).quiet = (s.ports.get q).quiet := by
  simp only [dropSide]; split <;> simp

@[simp] theorem quiet_dropSideAndJog (sd : Side) : ((dropSideAndJog sd s).ports.get q).quiet = (s.ports.get q).quiet := by
  simp only [dropSideAndJog]; split <;> simp

@[simp] theorem quiet_storeRecord (h : Header) (pause : Nat) (columns : List Word) :
    ((storeRecord h pause columns s).1.ports.get q).quiet = (s.ports.get q).quiet := by
  simp [storeRecord]

@[simp] theorem quiet_closeRecord (a b : Bool) : ((closeRecord a b s).ports.get q).quiet = (s.ports.get q).quiet := by
  cases h : s.record.current with
  | none => rw [closeRecord_none h]
  | some r => rw [closeRecord_some h]; simp only [State.withRecord_ports]; split <;> simp

@[simp] theorem quiet_startHeating : ((startHeating s).ports.get q).quiet = (s.ports.get q).quiet := by
  rw [startHeating_ports]; split <;> rfl

@[simp] theorem quiet_restartHeating : ((restartHeating s).ports.get q).quiet = (s.ports.get q).quiet := by
  rw [restartHeating_ports]; split <;> rfl

@[simp] theorem quiet_restartPart : ((restartPart s).ports.get q).quiet = (s.ports.get q).quiet := by
  simp [restartPart, restartLevelling]

@[simp] theorem quiet_modeApplied (old : Mode) : ((modeApplied old s).ports.get q).quiet = (s.ports.get q).quiet := by
  simp only [modeApplied, modeChanged, changeToTravel, leavePave]
  (repeat' split) <;> simp [stopHeating, cutGrants, outputsOff, autoValvesZero, State.mapZones]

/-- What an applied value does at once leaves every port but for its alerts (R155). -/
@[simp] theorem quiet_settingApplied (st : Setting) (old : Settings) :
    ((settingApplied st old s).ports.get q).quiet = (s.ports.get q).quiet := by
  unfold settingApplied
  split
  · exact quiet_modeApplied s q _
  · simp [capacityApplied]
  · apply quiet_modifyPort; intro p; rfl
  · simp only [refModeApplied]; split <;> simp
  · simp [dutyApplied]
  · simp [dutyApplied]
  · split <;> simp
  · simp
  all_goals rfl

end

/-- The ports after an entry that passes its check (R153): the entry's port has its last applied item and the clamped mark, the
other three have SETTING_CHANGED raised, each beyond what storing the value did. -/
theorem applyEntry_ports (p : Port) (e : PostEntry) (s : State) (q : Port) :
    (applyEntry p e s).ports.get q =
      let stored := storeSetting e.item e.value s
      if q = p then { stored.ports.get p with lastApplied := some e.item, lastClamped := e.clamped }
      else portRaised (stored.settings.masks.get q) .settingChanged (stored.ports.get q) := by
  by_cases hqp : q = p
  · subst hqp; simp [applyEntry, State.modifyPort, raiseOthers_get]
  · simp [applyEntry, State.modifyPort, raiseOthers_get, hqp]

/-- A posted entry stands at the tail of its port's queue, and no other port changes (R150). -/
theorem postEntry_ports (p : Port) (e : PostEntry) (s : State) :
    (postEntry p e s).ports = s.ports.set p { s.ports.get p with queue := (s.ports.get p).queue ++ [e] } := rfl

end Sys2Proof.Machine
end

