-- ==== Sys2Proof/WellFormed.lean ====
section
/-! DEFINITION. Which commands are well formed. The operand types rule out most ill-formed commands; what they leave is a
scanner run without a byte (R178). -/

namespace Sys2Proof

/-- A run on the scanner link has at least one byte: it begins with the start bit of its first byte (R178). Every other
command is well formed by its type. -/
def Instr.wellFormed (c : Instr) : Bool :=
  match c with
  | .scannerLine bytes _ => !bytes.isEmpty
  | .powerOn | .forwardPulse | .reversePulse | .radarPulse | .secondsCountTick | .speedWindowExpiry
  | .plausibilityWindowExpiry | .classPeriodExpiry _ | .converterTake | .settleEnd | .conversionCompletion _ _
  | .overloadRecoveryEnd | .sampleTimerExpiry | .jogTimerExpiry _ | .prefillTimerExpiry _ | .scannerSilenceExpiry
  | .sliceStart | .heatingWaitEnd | .readback _ | .trip _ | .read _ _ _ | .write _ _ _ | .page _ _ | .takeAlerts _
  | .alertDone _ | .engage _ _ | .disengage _ _ | .setZero _ _ | .jog _ _ _ _ | .prefill _ _ | .clearFault _ _ _
  | .fetch _ | .release _ _ | .rewind _ | .restart _ | .portReset _ | .badFrame _ _ | .copyCompletion
  | .heldAnswerExpiry | .application _ | .presenceTimeout _ | .scannerRunStart => true

end Sys2Proof
end

