-- ==== Sys2Proof/Tests/Slice0.lean ====
section
/-! SUPPORT. Tests: the worked cases of the spec, request frames written out byte by byte, the check of ill-formed commands, and
for each statement with hypotheses a concrete state and operands that meet them (`witness_…`). Expected values come from the
worked cases and tables of spec/, or are computed by hand from its rules. -/

namespace Sys2Proof.Tests

open Sys2Proof Sys2Proof.Machine

/-! ## Helpers: small states built from the reset state -/

/-- What a look at the next state of a command shows; none if the command does not end in a next state. -/
def ran {α : Type} (c : Instr) (s : State) (look : State → α) : Option α :=
  match exec c s with
  | .next t => some (look t)
  | .fault _ => none
  | .refused _ => none

/-- No contactor closed, no drive running, no trip. -/
def noPins : Pins := { sense := 0#12, running := 0#4, trip := 0#3 }

/-- A state with another entry of the result table. -/
def entered (c : Fin 34) (e : ResultEntry) (s : State) : State :=
  s.withSeq { s.seq with results := s.seq.results.set c e }

/-- A state whose entry of a channel is GOOD with a value. -/
def shown (c : Fin 34) (v : Int) (s : State) : State := entered c { count := 2000, value := v, quality := .good, round := 1 } s

/-- A state whose entry of a channel is BROKEN, converted in some round. -/
def broken (c : Fin 34) (s : State) : State := entered c { count := 100, value := 0, quality := .broken, round := 1 } s

/-- A state in another machine mode. -/
def inMode (m : Mode) (s : State) : State := s.withSettings { s.settings with mode := m }

/-- A state whose paver moves at a speed, with extensions and a width. -/
def driving (speed extL extR : Nat) (s : State) : State :=
  s.withTravel { s.travel with
    speed := speed, moving := decide (5 ≤ speed), extL := extL, extR := extR, width := 3000 + extL + extR
    activity := activityMap extL extR }

/-- A state with other settings of a side. -/
def sideSet (sd : Side) (f : SideSettings → SideSettings) (s : State) : State :=
  s.withSettings { s.settings with sides := s.settings.sides.set sd (f (s.settings.sides.get sd)) }

/-- A state with another side unit. -/
def sideAt (sd : Side) (f : SideUnit → SideUnit) (s : State) : State := s.withLev (s.lev.set sd (f (s.lev.get sd)))

/-- A state with another drive unit. -/
def driveAt (d : Drive) (f : DriveUnit → DriveUnit) (s : State) : State := s.withFeed (s.feed.set d (f (s.feed.get d)))

/-- A state with other settings of a drive. -/
def driveSet (d : Drive) (f : DriveSettings → DriveSettings) (s : State) : State :=
  s.withSettings { s.settings with drives := s.settings.drives.set d (f (s.settings.drives.get d)) }

/-- A state with another zone unit. -/
def zoneUnit (k : Fin 12) (f : ZoneUnit → ZoneUnit) (s : State) : State := s.withZones (s.zones.set k (f s.zones[k]))

/-- A state with another heat grant unit. -/
def heatAt (f : HeatUnit → HeatUnit) (s : State) : State := s.withHeat (f s.heat)

/-- A state with another converter. -/
def converterAt (c : Converter) (s : State) : State := s.withSeq { s.seq with converter := c }

/-- A state with another port. -/
def portAt (p : Port) (f : PortState → PortState) (s : State) : State := s.withPorts (s.ports.set p (f (s.ports.get p)))

/-- A state with one entry in a port's post queue. -/
def posted (p : Port) (item : Setting) (value : Word) (s : State) : State :=
  portAt p (fun t => { t with queue := [{ item := item, value := value, clamped := false, due := 200 }] }) s

/-- A state with another record store. -/
def storeAt (f : Store → Store) (s : State) : State := s.withStore (f s.store)

/-- The open record of the worked case of section 7.7.1. -/
def openStep : OpenRecord :=
  { sequence := 2318, start := 126400, openTime := 18052, openedAt := 0, width := 3000, x0 := -1500, columns := 12
    speedMin := 100, speedMax := 100, pauseWindows := 0
    flags := { scannerLost := false, converterSuspect := false, travelSuspect := false, widthHeld := false }
    starved := 0#12, faulted := 0#12, trips := 0 }

/-- A state with that record open, its accumulators empty, in PAVE and moving at 100 mm/s. -/
def stepping (s : State) : State :=
  ((driving 100 0 0 (inMode .pave s)).withRecord { current := some openStep, nextSequence := 2319, summary := none }).withScan
    { s.scan with columns := List.replicate 12 { sum := 0, count := 0 } }

/-! ## What is well formed, and what a station's bytes spell (R160, R161, R175, R178) -/

/-- A run has at least one byte. -/
theorem test_scanner_line_without_a_byte_is_ill_formed : (Instr.scannerLine [] true).wellFormed = false := by decide

theorem test_scanner_line_with_a_byte_is_well_formed : (Instr.scannerLine [0x55#8] true).wellFormed = true := by decide

/-- No row of the table gives bits. -/
theorem test_no_table_word_spells_a_command : decodeTableWord 16 0x1234 = none := by decide

/-- 1 + 5 + 0 + 250 = 256: READ of item byte 5, without data. -/
theorem test_frame_of_read : frameCommand .l noPins [0x01#8, 0x05#8, 0x00#8, 0xFA#8] = some (.read .l 5#8 noPins) := by decide

/-- 2 + 1 + 2 + 1 + 194 + 56 = 256: WRITE of item byte 1, value 450 = 0x01C2, the most significant byte first. -/
theorem test_frame_of_write :
    frameCommand .m noPins [0x02#8, 0x01#8, 0x02#8, 0x01#8, 0xC2#8, 0x38#8] = some (.write .m 1#8 450#16) := by decide

/-- 19 + 1 + 3 + 1 + 1 + 144 + 87 = 256: JOG right, LOWER, 400 = 0x0190. -/
theorem test_frame_of_jog :
    frameCommand .r noPins [0x13#8, 0x01#8, 0x03#8, 0x01#8, 0x01#8, 0x90#8, 0x57#8]
      = some (.jog .r 1#8 1#8 400#16) := by decide

/-- 49 + 0 + 4 + 0 + 0 + 7 + 254 + 198 = 512: RELEASE of 2046 = 0x000007FE. -/
theorem test_frame_of_release :
    frameCommand .d noPins [0x31#8, 0x00#8, 0x04#8, 0x00#8, 0x00#8, 0x07#8, 0xFE#8, 0xC6#8]
      = some (.release .d 2046#32) := by decide

/-- A wrong check byte: turned away, and not heard. -/
theorem test_frame_with_a_wrong_check_byte :
    frameCommand .l noPins [0x01#8, 0x05#8, 0x00#8, 0xFB#8] = some (.badFrame .l false) := by decide

/-- 80 + 176 = 256: an unknown code in a frame whose check byte passes. -/
theorem test_frame_with_an_unknown_code :
    frameCommand .l noPins [0x50#8, 0x00#8, 0x00#8, 0xB0#8] = some (.badFrame .l true) := by decide

/-- A length byte above 8 ends the request at that byte. -/
theorem test_frame_with_a_length_of_nine :
    frameCommand .l noPins [0x01#8, 0x05#8, 0x09#8] = some (.badFrame .l false) := by decide

/-- The answer OK without data: 0 + 0, check byte 0; NOT_NOW: 10 + 0, check byte 246. -/
theorem test_answer_frames :
    ({ code := .ok, data := [] } : Answer).frame = [0x00#8, 0x00#8, 0x00#8]
      ∧ ({ code := .notNow, data := [] } : Answer).frame = [0x0A#8, 0x00#8, 0xF6#8] := by decide

/-- A READ of 4 bytes answered OK with 450, twelve bytes clocked and select held for one more. -/
theorem test_exchange_data_out :
    exchangeDataOut 4 12 { code := .ok, data := [0x01#8, 0xC2#8] }
      = [0xFF#8, 0xFF#8, 0xFF#8, 0xFF#8, 0xFF#8, 0xFF#8, 0x00#8, 0x02#8, 0x01#8, 0xC2#8, 0x3B#8, 0x00#8] := by decide

/-! ## R1 -/

theorem test_half_up : divHalfUp 3621 3 = 1207 := by decide

theorem test_half_away_from_zero : divHalfAway (-324) 5 = -65 := by decide

/-! ## Travel and width: sections 1.1.2, 1.3.2 and 1.4.2 -/

/-- The start of the case of section 1.1.2. -/
def reversing : State :=
  (State.reset.withTravel { State.reset.travel with distance := 1000, remainder := 80 }).withSettings
    { State.reset.settings with travelPulse := 37 }

/-- Forward: remainder 80 + 37 = 117 carries 1 mm. -/
theorem test_forward_pulse_carries :
    ran .forwardPulse reversing (fun t => (t.travel.remainder, t.travel.distance, t.travel.windowMm)) = some (17, 1001, 1) := by
  decide

/-- Forward against a reverse-pending count of 30: 7 hundredths are left over for the remainder. -/
theorem test_forward_pulse_pays_off_the_reverse :
    ran .forwardPulse (reversing.withTravel { reversing.travel with reversePending := 30, remainder := 0 })
        (fun t => (t.travel.reversePending, t.travel.remainder, t.travel.distance)) = some (0, 7, 1000) := by decide

theorem test_reverse_pulse_is_pending :
    ran .reversePulse reversing (fun t => (t.travel.reversePending, t.travel.distance, t.travel.reverseMark))
      = some (37, 1000, true) := by decide

/-- Windows 2, 4, 5 and 6 of section 1.3.2; window 6 stands at the limit. -/
theorem test_windows_judged :
    judgeWindow false 400 300 = .implausible ∧ judgeWindow false 30 25 = .notJudged ∧ judgeWindow true 120 140 = .notJudged
      ∧ judgeWindow false 200 170 = .plausible := by decide

/-- Window 7: the third plausible window clears the flag. -/
theorem test_third_plausible_window_clears :
    ran .plausibilityWindowExpiry
        (State.reset.withTravel { State.reset.travel with
          encoderAcc := 39050, radarAcc := 39500, suspect := true, plausibleRun := 2 })
        (fun t => (t.travel.suspect, t.travel.plausibleRun, t.travel.encoderAcc)) = some (false, 0, 50) := by decide

/-- The mat of section 1.4.2: 5400 mm, 21 columns from −3000, zones Z0 to Z5 and Z8 active, column 0 in EL1. -/
theorem test_width_5400 :
    let t := (widthUpdate (shown 9 1500 (shown 10 900 State.reset))).travel
    t.width = 5400 ∧ columnCount t = 21 ∧ matLeft t = -3000 ∧ t.activity = 0x13F#12
      ∧ zoneAt 1500 900 (-2875) = some 4 ∧ zoneBand 1500 900 8 = (1650, 2400) := by decide

/-- 25 mm in a window are 100 mm/s; 1 mm is 4 mm/s, which does not count as moving. -/
theorem test_speed_windows :
    ran .speedWindowExpiry (State.reset.withTravel { State.reset.travel with windowMm := 25 })
        (fun t => (t.travel.speed, t.travel.moving, t.travel.windowMm)) = some (100, true, 0)
      ∧ ran .speedWindowExpiry (State.reset.withTravel { State.reset.travel with windowMm := 1 })
        (fun t => (t.travel.speed, t.travel.moving)) = some (4, false) := by decide

/-! ## The sequencer: sections 2.2.5, 2.4.1 and 2.7 -/

/-- The values of section 2.2.5. -/
theorem test_engineering_values :
    engineeringValue (Calibration.powerOn 2) 1000 = 1316 ∧ engineeringValue (Calibration.powerOn 8) 1000 = -737
      ∧ engineeringValue (Calibration.powerOn 8) 600 = -1000 ∧ engineeringValue (Calibration.powerOn 24) 2400 = 1997
      ∧ engineeringValue (Calibration.powerOn 24) 3500 = 3000 ∧ engineeringValue (Calibration.powerOn 14) 500 = 0
      ∧ engineeringValue { zeroCount := 3276, fullCount := 655, zeroValue := 0, fullValue := 3000 } 1000 = 2605 := by decide

/-- The qualities of section 2.2.5. -/
theorem test_qualities :
    machineQuality (Calibration.powerOn 24) false 2400 = .good ∧ machineQuality (Calibration.powerOn 24) false 3500 = .short
      ∧ machineQuality (Calibration.powerOn 14) false 500 = .broken
      ∧ machineQuality (Calibration.powerOn 24) true 2400 = .suspect := by decide

/-- Channel 0 completes with 3800 (section 2.7): SHORT, and the converter recovers for 4 ms. -/
theorem test_shorted_completion :
    ran (.conversionCompletion 3800#12 noPins) (converterAt (.converting 0 4120 574) (State.reset.withNow 574))
        (fun t => (t.seq.results[(0 : Fin 34)], t.seq.converter))
      = some ({ count := 3800, value := 10000, quality := .short, round := 4120 }, .recovering 974) := by decide

/-- A state whose three reference entries hold these counts, with the converter GOOD. -/
def references (low full mid : Nat) : State :=
  let e := fun n => ({ count := n, value := 0, quality := .good, round := 1 } : ResultEntry)
  let s := entered 31 (e low) (entered 32 (e full) (entered 33 (e mid) State.reset))
  s.withSeq { s.seq with conditionSuspect := false }

/-- Rounds 811 and 812 of section 2.4.1. -/
theorem test_drifting_mid_reference :
    (slowRound (references 6 4088 2049)).seq.conditionSuspect = false
      ∧ (slowRound (references 7 4087 2067)).seq.conditionSuspect = true
      ∧ (slowRound (references 7 4087 2067)).ports.d.pendingSet = alertBit .converterSuspect := by decide

/-- The FAST expiry of section 2.7: the FAST channels join ahead of the SLOW ones that wait, and the round is not LATE. -/
theorem test_class_period_joins_in_front :
    ran (.classPeriodExpiry .fast)
        (State.reset.withSeq { State.reset.seq with queue := [25, 26], converter := .settling 24 7 100 })
        (fun t => (t.seq.queue, t.seq.rounds.fast.late, t.seq.rounds.fast.counter))
      = some ([0, 1, 2, 3, 4, 5, 6, 7, 8, 25, 26], false, 2) := by decide

theorem test_converter_take :
    ran .converterTake (State.reset.withSeq { State.reset.seq with queue := [9, 25], converter := .idle })
        (fun t => (t.seq.queue, t.seq.converter)) = some ([25], .settling 9 1 40) := by decide

theorem test_settle_end : ran .settleEnd State.reset (fun t => t.seq.converter) = some (.converting 0 1 17) := by decide

/-- A completion below 590 counts is BROKEN; the class still waits, so no round completes and the sample timer stands. -/
theorem test_broken_completion :
    ran (.conversionCompletion 589#12 noPins) (converterAt (.converting 0 1 17) State.reset)
        (fun t => (t.seq.results[(0 : Fin 34)].quality, t.seq.converter, t.timers.sample))
      = some (.broken, .idle, some 10000) := by decide

theorem test_overload_recovery_end :
    ran .overloadRecoveryEnd (converterAt (.recovering 974) State.reset) (fun t => (t.seq.converter, t.now))
      = some (.idle, 974) := by decide

/-! ## Levelling: sections 3.3.1 and 3.4.1 to 3.4.5 -/

/-- The left side of section 3.4.1, in AUTO in PAVE with the paver moving. -/
def beaming (h1 h2 h3 h4 : Int) : State :=
  sideAt .left (fun u => { u with state := .auto, target := some 1180 })
    (sideSet .left (fun c => { c with offset := 10 })
      (driving 100 0 0 (inMode .pave (shown 0 h1 (shown 1 h2 (shown 2 h3 (shown 3 h4 State.reset)))))))

theorem test_beam_rejects_the_lump :
    let u := (sampleSide .left (beaming 1203 1210 1251 1207)).lev.left
    (u.lastReading, u.validHeads, u.lastDeviation, u.lower, u.raise, u.stepMax) = (1207, 4, 17, 405, 0, 17) := by decide

/-- Section 3.4.2: heads 1 and 3 tie, and head 3 is removed. -/
theorem test_beam_tie :
    judgeReference (sideSet .left (fun c => { c with heads := 7#4 }) (beaming 1200 1210 1220 5000)) .left
      = (some 1205, 3) := by decide

/-- Section 3.4.3: the right side reads head R3 alone. -/
theorem test_single :
    let s := sideAt .right (fun u => { u with state := .auto, target := some 1180 })
      (sideSet .right (fun c => { c with refMode := .single, heads := 12#4, offset := -20 })
        (driving 100 0 0 (inMode .pave (shown 6 1172 State.reset))))
    ((sampleSide .right s).lev.right.lastDeviation, (sampleSide .right s).lev.right.lower) = (12, 298) := by decide

/-- Section 3.4.4: the right side is raised at its maxDuty, the left side at 808. -/
theorem test_slope :
    let right := sideAt .right (fun u => { u with state := .auto })
      (sideSet .right (fun c => { c with refMode := .slope, slopeTarget := 200 })
        (driving 100 1500 900 (inMode .pave (shown 8 212 State.reset))))
    let left := sideAt .left (fun u => { u with state := .auto })
      (sideSet .left (fun c => { c with refMode := .slope, slopeTarget := -250 })
        (driving 100 0 0 (inMode .pave (shown 8 (-262) State.reset))))
    ((sampleSide .right right).lev.right.lastDeviation, (sampleSide .right right).lev.right.raise) = (-65, 900)
      ∧ ((sampleSide .left left).lev.left.lastDeviation, (sampleSide .left left).lev.left.raise) = (-36, 808) := by decide

/-- Sample 4 of section 3.4.5: one valid head is not enough for BEAM. -/
theorem test_heads_failing :
    let s := broken 0 (broken 1 (broken 3 (beaming 1185 1190 1188 1186)))
    (sampleSide .left s).lev.left.state = .lost
      ∧ (sampleSide .left s).ports.r.pendingSet = alertBit .sideLDropped := by decide

/-- The right side of section 3.3.1, its station present. -/
def jogging : State := portAt .r (fun p => { p with present := true, presenceDue := some 100000 }) State.reset

/-- Time 0: the duty is clamped to maxDuty. -/
theorem test_jog_is_clamped :
    ran (.jog .r 1#8 0#8 1000#16) jogging (fun t => (t.lev.right.raise, t.lev.right.lower, t.ports.r.answer))
      = some (900, 0, some { code := .ok, data := [] }) := by decide

/-- Time 180: the pulse turns; time 620: NOT_NOW in AUTO. -/
theorem test_jog_turns_and_is_refused_in_auto :
    ran (.jog .r 1#8 1#8 400#16)
        (sideAt .right (fun u => { u with raise := 900, jog := some { direction := .raise, duty := 900, due := 25000 } }) jogging)
        (fun t => (t.lev.right.raise, t.lev.right.lower)) = some (0, 400)
      ∧ ran (.jog .r 1#8 0#8 300#16) (sideAt .right (fun u => { u with state := .auto }) jogging)
        (fun t => t.ports.r.answer) = some (some { code := .notNow, data := [] }) := by decide

theorem test_jog_timer_expiry :
    ran (.jogTimerExpiry .right)
        (sideAt .right (fun u => { u with lower := 400, jog := some { direction := .lower, duty := 400, due := 25000 } }) jogging)
        (fun t => (t.lev.right.lower, t.lev.right.jog, t.now)) = some (0, none, 25000) := by decide

/-- Time 600: ENGAGE from M takes the current reading as the target of a side that has none. -/
theorem test_engage_takes_a_target :
    ran (.engage .m 1#8) (shown 4 1200 (shown 5 1203 jogging)) (fun t => (t.lev.right.state, t.lev.right.target))
      = some (.auto, some 1202) := by decide

theorem test_disengage :
    ran (.disengage .r 1#8) (sideAt .right (fun u => { u with state := .lost, goodRun := 4 }) jogging)
        (fun t => (t.lev.right.state, t.lev.right.goodRun)) = some (.manual, 0) := by decide

theorem test_set_zero :
    ran (.setZero .l 0#8) (beaming 1203 1210 1251 1207)
        (fun t => (t.lev.left.target, t.settings.sides.left.offset, t.ports.l.answer))
      = some (some 1207, 0, some { code := .ok, data := [0x04#8, 0xB7#8] }) := by decide

theorem test_sample_timer_expiry :
    ran .sampleTimerExpiry (sideAt .left (fun u => { u with lower := 405 }) (beaming 1203 1210 1251 1207))
        (fun t => (t.lev.left.lower, t.lev.left.stale, t.lev.left.state)) = some (0, true, .auto) := by decide

/-! ## Feed drives: sections 4.3.1, 4.3.2, 4.4.1 and 4.6.1 -/

/-- Conveyor L of section 4.3.1 at a tick. -/
def conveying (speed held : Nat) (s : State) : State :=
  (driveAt .convL (fun u => { u with state := .auto, command := held })
    (driveSet .convL (fun c => { c with ratio := 250, gain := 40, target := 250, rampStep := 50 })
      (driving speed 0 0 (inMode .pave s)))).withPins { noPins with running := 1#4 }

/-- Ticks 2, 5, 6 and 7: the ramp from 0, open loop, a command taken whole, the paver standing. -/
theorem test_conveyor_ticks :
    ((feedTick (conveying 80 0 (shown 11 230 State.reset))).feed.convL.command = 50)
      ∧ ((feedTick (conveying 100 150 (broken 11 State.reset))).feed.convL.command = 200)
      ∧ ((feedTick (conveying 100 150 (broken 11 State.reset))).feed.convL.openLoop = true)
      ∧ ((feedTick (conveying 100 200 (shown 11 255 State.reset))).feed.convL.command = 230)
      ∧ ((feedTick (conveying 0 230 (shown 11 256 State.reset))).feed.convL.command = 0) := by decide

/-- Auger L of section 4.3.2: 600 + 200 is ramped to 750; 600 − 32 to 700. -/
theorem test_auger_at_full_extension :
    let s := fun (gain held : Nat) (height : Int) =>
      (driveAt .augL (fun u => { u with state := .auto, command := held })
        (driveSet .augL (fun c => { c with ratio := 300, gain := gain, target := 300, rampStep := 50 })
          (driving 100 1500 0 (inMode .pave (shown 13 height State.reset))))).withPins { noPins with running := 4#4 }
    (feedTick (s 50 700 260)).feed.augL.command = 750 ∧ (feedTick (s 45 750 307)).feed.augL.command = 700
      ∧ (feedTick (s 45 600 307)).feed.augL.command = 568 := by decide

/-- Tick 4 of section 4.4.1: the third tick that finds auger R stopped. -/
theorem test_tripped_breaker :
    let t := feedTick (driveAt .augR (fun u => { u with state := .auto, command := 460, notRunningCount := 2 }) State.reset)
    (t.feed.augR.state, t.feed.augR.cause, t.feed.augR.command) = (.fault, .notRunning, 0)
      ∧ t.ports.l.pendingSet = alertBit .feedFault := by decide

/-- The feed load of section 4.6.1. -/
theorem test_feed_load :
    (feedLoad (driveAt .augR (fun u => { u with lastGoodCurrent := 580 })
      (shown 15 420 (shown 16 395 (shown 17 610 (broken 18 State.reset)))))).heat.feedLoad = 802 := by decide

/-- CLEAR-FAULT of auger R: NOT_ALLOWED from L, OK from R with the cause still readable. -/
theorem test_clear_fault_of_a_drive :
    let s := driveAt .augR (fun u => { u with state := .fault, cause := .notRunning }) State.reset
    ran (.clearFault .l 3#8 noPins) s (fun t => t.feed.augR.state) = some .fault
      ∧ ran (.clearFault .r 3#8 noPins) s (fun t => (t.feed.augR.state, t.feed.augR.cause)) = some (.off, .notRunning) := by
  decide

/-- PREFILL of conveyor R in AUTO (section 4.5.1), and the end of its 60 s. -/
theorem test_prefill :
    let s := driveAt .convR (fun u => { u with state := .auto }) State.reset
    ran (.prefill .r 1#8) s (fun t => (t.feed.convR.state, t.feed.convR.returnAuto, t.feed.convR.prefillDue))
      = some (.prefill, true, some 6000000) := by decide

theorem test_prefill_timer_expiry :
    ran (.prefillTimerExpiry .convR)
        (driveAt .convR (fun u => { u with state := .prefill, returnAuto := true, command := 700, prefillDue := some 90 })
          State.reset)
        (fun t => (t.feed.convR.state, t.feed.convR.command, t.feed.convR.prefillDue)) = some (.auto, 700, none) := by decide

/-! ## Heating: sections 5.4.1, 5.4.2, 5.5.1, 5.5.2, 6.3.1, 6.6 and 6.9.1 -/

/-- The screed of section 5.4.1 with a feed load, its zones HEATING with the demands of the case. -/
def heating (load : Nat) : State :=
  let zone := fun (n boost : Nat) (z : ZoneUnit) =>
    { z with state := if n = 0 then .idle else .heating, demand := n, remaining := n, boost := boost }
  let demands : Vector (Nat × Nat) 12 :=
    #v[(32, 0), (20, 0), (20, 0), (32, 0), (32, 2), (24, 0), (0, 0), (0, 0), (16, 0), (0, 0), (0, 0), (0, 0)]
  let s := driving 100 1500 900 State.reset
  (heatAt (fun h => { h with running := true, effective := 450, feedLoad := load }) s).withZones
    (Vector.ofFn fun k => zone demands[k].1 demands[k].2 s.zones[k])

/-- Slice 0, F = 130: all seven active zones are granted. -/
theorem test_grants_at_130 :
    let h := (startSlice (heating 130)).heat
    (h.budget, h.available, h.grantedPower) = (300, 300, 270) ∧ h.grants = 0x13F#12 := by decide

/-- Section 5.4.2, MR2 welded and F = 210: MR1 and ER1 are skipped. -/
theorem test_grants_beside_a_welded_zone :
    let h := (startSlice (zoneUnit 3 (fun z => { z with state := .faultWelded }) (heating 210))).heat
    (h.budget, h.welded, h.available, h.grantedPower) = (220, 45, 175, 150) ∧ h.grants = 0x033#12 := by decide

/-- Section 5.5.1: the trip in cycle 300. -/
theorem test_trip_in_a_cycle :
    ran (.trip 1) (heatAt (fun h => { h with cycle := 300, slice := 12, grants := 0x13F#12, grantedPower := 270 }) (heating 130))
        (fun t => (t.heat.grants, t.heat.tripped, t.heat.history, t.ports.m.pendingSet))
      = some (0#12, true, [300], alertBit .heatTrip) := by decide

/-- Section 5.5.2: the trip in cycle 213 derates to 90. -/
theorem test_third_trip_derates :
    ran (.trip 0)
        (heatAt (fun h => { h with cycle := 213, history := [205, 211] })
          ((heating 130).withSettings { (heating 130).settings with capacity := 450 }))
        (fun t => (t.heat.history, t.heat.derate, t.heat.effective)) = some ([], 90, 405) := by decide

/-- The demands of section 6.3.1. -/
theorem test_demands :
    let c : ZoneSettings := { setpoint := 1300, band := 200, rated := 30, enabled := true }
    [1050, 1100, 1110, 1180, 1220, 1295, 1300].map (fun t => zoneDemand c true (some t)) = [32, 32, 30, 19, 13, 1, 0]
      ∧ zoneDemand { c with band := 500 } true (some 1295) = 0 := by decide

/-- A zone of section 6.9.1: setpoint 1300 on Z5, its left extension out. -/
def probing (missed : Nat) (s : State) : State :=
  let t := driving 100 1500 0 s
  zoneUnit 5 (fun z => { z with state := .heating, lastGood := some 1220, missed := missed })
    ((heatAt (fun h => { h with running := true, slice := 31 }) t).withSettings
      { t.settings with zones := t.settings.zones.set 5 { setpoint := 1300, band := 200, rated := 30, enabled := true } })

set_option maxRecDepth 40000 in
/-- Cycle starts 1 and 4: 13 slices on 1220; lost at the third miss in a row. -/
theorem test_probe_that_fails :
    ran .sliceStart (probing 0 (shown 24 1220 State.reset)) (fun t => (t.zones[(5 : Fin 12)].state, t.zones[(5 : Fin 12)].demand))
      = some (.heating, 13)
      ∧ ran .sliceStart (probing 2 (broken 24 State.reset))
        (fun t => (t.zones[(5 : Fin 12)].state, t.zones[(5 : Fin 12)].demand, t.ports.r.pendingSet))
      = some (.sensorLost, 0, alertBit .zoneFault) := by decide

/-- The end of the power-on wait: the heating runs, cycle 1 begins with slice 0. -/
theorem test_heating_wait_end :
    ran .heatingWaitEnd State.reset (fun t => (t.heat.running, t.heat.cycle, t.heat.slice, t.zones[(0 : Fin 12)].state, t.now))
      = some (true, 1, 0, .idle, 200000) := by decide

/-- Section 6.6.1: the second welded mismatch in a row; section 6.6.2: the second open one. -/
theorem test_readbacks :
    let s := heatAt (fun h => { h with running := true }) State.reset
    ran (.readback { noPins with sense := 0x020#12 }) (zoneUnit 5 (fun z => { z with state := .idle, weldCount := 1 }) s)
        (fun t => (t.zones[(5 : Fin 12)].state, t.zones[(5 : Fin 12)].weldCount)) = some (.faultWelded, 0)
      ∧ ran (.readback noPins)
        (zoneUnit 1 (fun z => { z with state := .heating, openCount := 1, output := true, sliceCommand := true }) s)
        (fun t => (t.zones[(1 : Fin 12)].state, t.zones[(1 : Fin 12)].output)) = some (.faultOpen, false) := by decide

/-- CLEAR-FAULT of EL2 while its contacts stick, and once they are free. -/
theorem test_clear_fault_of_a_zone :
    let s := zoneUnit 5 (fun z => { z with state := .faultWelded }) State.reset
    ran (.clearFault .l 21#8 { noPins with sense := 0x020#12 }) s (fun t => t.zones[(5 : Fin 12)].state) = some .faultWelded
      ∧ ran (.clearFault .l 21#8 noPins) s (fun t => t.zones[(5 : Fin 12)].state) = some .idle := by decide

/-! ## Scanner and strip records: section 7.7.1 -/

/-- The pixels of a line of section 7.7.1: those outside the mat read 100, pixels 40 and 41 read 65535. -/
def pixelsOfStep : List Word :=
  List.replicate 22 100#16
    ++ [1320#16, 1340#16, 1350#16, 1360#16, 1355#16, 1180#16, 1170#16, 1340#16, 1345#16, 1350#16]
    ++ [1352#16, 1348#16, 1355#16, 1350#16, 1340#16, 1330#16, 1320#16, 1310#16, 65535#16, 65535#16]
    ++ List.replicate 22 100#16

/-- The bytes of that line with line number 7. -/
def lineOfStep : List Byte :=
  ((7#16 :: pixelsOfStep) ++ [checkWord (7#16 :: pixelsOfStep)]).flatMap wordBytes

set_option maxRecDepth 40000 in
/-- One line: two or one pixels a column, none in column 11; the minimum is pixel 28. -/
theorem test_line_is_binned :
    ran (.scannerLine lineOfStep true) (stepping State.reset)
        (fun t => (t.scan.columns.map fun c => (c.sum, c.count), t.scan.minimum, t.scan.linesBinned, t.scan.validTotal))
      = some ([(2660, 2), (1350, 1), (2715, 2), (2350, 2), (1340, 1), (2695, 2), (2700, 2), (1355, 1), (2690, 2), (2650, 2),
          (1310, 1), (0, 0)], some 1170, 1, 1) := by decide

set_option maxRecDepth 40000 in
/-- The same line number again is a repeat, a byte without its stop bit a rejected line. -/
theorem test_lines_rejected :
    ran (.scannerLine lineOfStep true)
        ((stepping State.reset).withScan { (stepping State.reset).scan with previousLine := some 7#8 })
        (fun t => (t.scan.rejectedTotal, t.scan.linesRejected, t.scan.linesBinned)) = some (1, 1, 0)
      ∧ ran (.scannerLine lineOfStep false) (stepping State.reset) (fun t => t.scan.rejectedTotal) = some 1 := by decide

/-- The check word of no words, and the register after one bit that differs (R116). -/
theorem test_check_word : checkWord [] = 0xFFFF#16 ∧ crcBit 0xFFFF#16 false = 0xEFDF#16 := by decide

/-- The means of columns 0, 2, 3, 5 and 11 as column words: 3 is COLD, 11 GAP. -/
theorem test_column_words :
    [(53200, 40), (54300, 40), (47000, 40), (53900, 40), (0, 0)].map
        (fun c => Column.word 1200 { sum := c.1, count := c.2 })
      = [1330#16, 1358#16, 0x1497#16, 1348#16, 0x2000#16] := by decide

/-- The carry at 126 650 closes record 2318 and opens 2319 at the same event. -/
theorem test_close_by_step_length :
    ran .forwardPulse
        (((stepping State.reset).withTravel { (stepping State.reset).travel with distance := 126649 }).withSettings
          { (stepping State.reset).settings with
            record := { (stepping State.reset).settings.record with stepLength := 250 } })
        (fun t => (t.record.current.map fun r => (r.sequence, r.start), t.record.nextSequence,
          t.record.summary.map fun h => (h.sequence, h.length), t.store.newest,
          t.ports.d.pendingSet &&& alertBit .recordClosed))
      = some (some (2319, 126650), 2320, some (2318, 250), 2318, alertBit .recordClosed) := by decide

theorem test_scanner_silence :
    ran .scannerSilenceExpiry (stepping State.reset) (fun t => (t.scan.lost, t.record.current.map fun r => r.flags.scannerLost))
      = some (true, some true) := by decide

theorem test_scanner_run_start : ran .scannerRunStart State.reset (fun t => t.scan.receiving) = some true := by decide

/-! ## The record store: section 8.6 -/

/-- A record of 30 words. -/
def thirtyWords (n : Nat) : StoredRecord := { sequence := n, words := List.replicate 30 (BitVec.ofNat 16 n) }

/-- The records 2046 to 2318. -/
def heldRecords : List StoredRecord := (List.range 273).map fun i => thirtyWords (2046 + i)

/-- The store at the start of section 8.6: 8190 words used. -/
def draining : State :=
  storeAt (fun st => { st with records := heldRecords, base := 2046, newest := 2318, cursor := 2046 }) State.reset

set_option maxRecDepth 40000 in
/-- Record 2319 stored while 2046 is copied: one drop, the cursor raised, RECORDS_DROPPED. -/
theorem test_storing_drops_the_base :
    let h := assembleHeader State.reset { openStep with sequence := 2319, pauseWindows := 6 } false false
    let t := (storeRecord h 15 (List.replicate 12 0#16) draining).1
    (t.store.base, t.store.cursor, t.store.newest, t.store.used, t.store.droppedTotal) = (2047, 2047, 2319, 8191, 1)
      ∧ t.ports.d.pendingSet = alertBit .recordsDropped := by decide

/-- Two records held, 2047 and 2048. -/
def twoHeld (slot : HeldSlot) : State :=
  storeAt (fun st => { st with records := [thirtyWords 2047, thirtyWords 2048], base := 2047, newest := 2048, cursor := 2047
                               slot := slot }) State.reset

set_option maxRecDepth 40000 in
/-- FETCH starts the copy of 2047: 30 words at 40 µs; delivered, the cursor stands at 2048. -/
theorem test_fetch :
    ran (.fetch .d) (twoHeld .empty) (fun t => (t.store.slot, t.ports.d.answer))
      = some (.copying (thirtyWords 2047) 120, some { code := .retry, data := [] })
      ∧ ran (.fetch .d) (twoHeld (.ready (thirtyWords 2047) 200120)) (fun t => (t.store.slot, t.store.cursor))
      = some (.empty, 2048) := by decide

theorem test_copy_completion :
    ran .copyCompletion (twoHeld (.copying (thirtyWords 2047) 120)) (fun t => t.store.slot)
      = some (.ready (thirtyWords 2047) 200120) := by decide

theorem test_held_answer_expiry :
    ran .heldAnswerExpiry (twoHeld (.ready (thirtyWords 2047) 200120)) (fun t => t.store.slot) = some .empty := by decide

/-- RELEASE of 2047, 2046 and 2048: OK, GONE, ORDER. -/
theorem test_release :
    ran (.release .d 2047#32) (twoHeld .empty) (fun t => (t.store.base, t.store.used, t.store.cursor)) = some (2048, 30, 2048)
      ∧ ran (.release .d 2046#32) (twoHeld .empty) (fun t => t.ports.d.answer) = some (some { code := .gone, data := [] })
      ∧ ran (.release .d 2048#32) (twoHeld .empty) (fun t => t.ports.d.answer) = some (some { code := .order, data := [] }) := by
  decide

theorem test_rewind :
    ran (.rewind .d) (storeAt (fun st => { st with cursor := 2049 }) (twoHeld .empty)) (fun t => t.store.cursor) = some 2047 := by
  decide

/-! ## Settings and ports: sections 9.4.1, 10.4.1 and 10.4.2 -/

/-- Time 0.3: a dead band of 80 is clamped to 50. Time 0.9: an undefined state request is refused. -/
theorem test_write :
    ran (.write .l 19#8 80#16) State.reset
        (fun t => (t.ports.l.answer, t.ports.l.queue.map fun e => (e.item, e.value, e.clamped)))
      = some (some { code := .clamped, data := [0x00#8, 0x32#8] }, [(.side .left .deadBand, 50#16, true)])
      ∧ ran (.write .l 96#8 7#16) State.reset (fun t => t.ports.l.answer)
      = some (some { code := .refused, data := [] }) := by decide

/-- The entry falls due 2 ms after the end of its exchange (R152). -/
theorem test_write_due :
    ran (.write .l 19#8 80#16) State.reset (fun t => t.ports.l.queue.map PostEntry.due)
      = some [0 + Config.exchangeTail 0 + 200] := rfl

/-- Time 2.3: the dead band is stored, SETTING_CHANGED on the other ports. -/
theorem test_application :
    ran (.application .l) (posted .l (.side .left .deadBand) 50#16 State.reset)
        (fun t => (t.settings.sides.left.deadBand, t.ports.l.pendingSet, t.ports.r.pendingSet))
      = some (50, 0#16, alertBit .settingChanged) := by decide

/-- The application of a group 7 ramp step, and of a zone that is DISABLED while HEATING. -/
theorem test_application_disables_a_zone :
    ran (.application .m)
        (zoneUnit 0 (fun z => { z with state := .heating, output := true }) (posted .m (.zone 0 .enable) 0#16 State.reset))
        (fun t => (t.zones[(0 : Fin 12)].state, t.zones[(0 : Fin 12)].output, t.settings.zones[(0 : Fin 12)].enabled))
      = some (.idle, false, false) := by decide

/-- Port L of section 10.4.1. -/
def serving (set : AlertSet) (inService : Bool) : State :=
  let s := State.reset.withSettings { State.reset.settings with masks := { State.reset.settings.masks with l := 0x2025#16 } }
  portAt .l (fun p => { p with pendingSet := set, inService := inService, line := !inService }) s

/-- TAKE-ALERTS answers STARVING and keeps RECORD_CLOSED; the line is released. -/
theorem test_take_alerts :
    ran (.takeAlerts .l) (serving 0x00A0#16 false)
        (fun t => (t.ports.l.answer, t.ports.l.pendingSet, t.ports.l.inService, t.ports.l.line))
      = some (some { code := .ok, data := [0x00#8, 0x20#8] }, 0x0080#16, true, false) := by decide

theorem test_alert_done :
    ran (.alertDone .l) (serving 0x00A4#16 true) (fun t => (t.ports.l.inService, t.ports.l.line)) = some (false, true) := by decide

/-- Time 1000 of section 10.4.2. -/
theorem test_presence_timeout :
    ran (.presenceTimeout .r) (sideAt .right (fun u => { u with state := .auto, raise := 300 }) jogging)
        (fun t => (t.ports.r.present, t.lev.right.state, t.lev.right.raise, t.ports.m.pendingSet, t.ports.r.pendingSet))
      = some (false, .manual, 0, alertBit .stationAbsent ||| alertBit .sideRDropped, alertBit .sideRDropped) := by decide

/-- READ of item 1 (450 = 0x01C2) and, with page 1, of item 380, the travel mm-per-pulse. -/
theorem test_read :
    ran (.read .d 1#8 noPins) (State.reset.withSettings { State.reset.settings with capacity := 450 }) (fun t => t.ports.d.answer)
      = some (some { code := .ok, data := [0x01#8, 0xC2#8] })
      ∧ ran (.read .d 124#8 noPins) (portAt .d (fun p => { p with page := some 1 }) State.reset)
        (fun t => (t.ports.d.answer, t.ports.d.page)) = some (some { code := .ok, data := [0x00#8, 0x64#8] }, none) := by decide

theorem test_page :
    ran (.page .d 1#8) State.reset (fun t => t.ports.d.page) = some (some 1)
      ∧ ran (.page .d 4#8) State.reset (fun t => (t.ports.d.page, t.ports.d.answer))
        = some (none, some { code := .refused, data := [] }) := by decide

theorem test_bad_frame :
    ran (.badFrame .d false) State.reset (fun t => (t.ports.d.present, t.ports.d.answer))
      = some (false, some { code := .badFrame, data := [] }) := by decide

theorem test_port_reset :
    ran (.portReset .l) (posted .l (.side .left .deadBand) 50#16 (serving 0x00A4#16 true))
        (fun t => (t.ports.l.queue, t.ports.l.pendingSet, t.ports.l.inService, t.ports.l.present)) = some ([], 0#16, false, true) := by
  decide

theorem test_restart :
    ran (.restart .l) (stepping State.reset) (fun t => (t.ports.l.answer, t.record.current.isSome))
      = some (some { code := .notAllowed, data := [] }, true)
      ∧ ran (.restart .m) (stepping State.reset) (fun t => (t.travel.moving, t.record.current.isSome, t.heat.running))
        = some (false, false, true) := by decide

theorem test_power_on :
    ran .powerOn (stepping draining) (fun t => (t.settings.mode, t.store.records, t.record.current, t.travel.speed))
      = some (.standby, [], none, 0) := by decide

theorem test_radar_pulse_and_second :
    ran .radarPulse State.reset (fun t => t.travel.radarAcc) = some 100
      ∧ ran .secondsCountTick State.reset (fun t => (t.travel.seconds, t.now)) = some (1, 100000) := by decide

/-! ## Witnesses: hypotheses of the statements that hold together -/

/-- A forward pulse that carries into the top of the distance count, one that carries nothing, and an applied mm-per-pulse. -/
theorem witness_SensorPulses :
    (4294967294 ≤ 4294967295 ∧ (State.reset.withTravel { State.reset.travel with distance := 4294967294 }).travel.distance
        + (0 + (100 - 0)) / 100 ≤ 4294967295)
      ∧ ran .forwardPulse (State.reset.withTravel { State.reset.travel with distance := 4294967294 })
          (fun t => t.travel.distance) = some 4294967295
      ∧ (State.reset.travel.encoderAcc + State.reset.settings.travelPulse ≤ 4294967295)
      ∧ State.reset.record.current = none ∧ (stepping State.reset).record.current = some openStep
      ∧ ((posted .m .travelPulse 50#16 State.reset).ports.get .m).queue
          = [{ item := .travelPulse, value := 50#16, clamped := false, due := 200 }]
      ∧ ran (.application .m) (posted .m .travelPulse 50#16 State.reset) (fun t => t.settings.travelPulse) = some 50 := by
  decide

/-- Windows of 1 mm and 2 mm, with a prefill run of either return state, a side in AUTO, a record open and none. -/
theorem witness_SpeedWindow :
    let prefill := fun back => driveAt .convL (fun u => { u with state := .prefill, returnAuto := back, prefillDue := some 9 })
    let window := fun mm (s : State) => s.withTravel { s.travel with windowMm := mm }
    ran .speedWindowExpiry (window 2 (prefill true State.reset)) (fun t => (t.travel.moving, t.feed.convL.state))
        = some (true, .auto)
      ∧ ran .speedWindowExpiry (window 2 (prefill false State.reset)) (fun t => t.feed.convL.state) = some .off
      ∧ ran .speedWindowExpiry (window 1 (prefill true State.reset)) (fun t => (t.travel.moving, t.feed.convL.state))
        = some (false, .prefill)
      ∧ ran .speedWindowExpiry (window 1 (sideAt .left (fun u => { u with state := .auto, raise := 300 }) State.reset))
        (fun t => t.lev.left.raise) = some 0
      ∧ ran .speedWindowExpiry (window 1 (stepping State.reset)) (fun t => t.record.current.map fun r => (r.speedMin, r.pauseWindows))
        = some (some (4, 1))
      ∧ ran .speedWindowExpiry (window 2 (inMode .pave State.reset)) (fun t => t.record.current.map fun r => r.sequence)
        = some (some 1) := by decide

/-- A window of 2 mm in PAVE with no record open: the record starts with the window's speed and empty columns. -/
theorem witness_SpeedWindow_opens :
    let s := inMode .pave (State.reset.withTravel { State.reset.travel with windowMm := 2 })
    s.record.current = none ∧ 2 ≤ s.travel.windowMm ∧ s.settings.mode = .pave
      ∧ ran .speedWindowExpiry s (fun t => (t.record.current.map fun r => (r.speedMin, r.speedMax, r.columns), t.scan.columns.length))
        = some (some (8, 8, 12), 12) := by decide

/-- Every outcome meets the flag both ways; 49 mm is not judged, 50 mm is; a run of 1 and of 2. -/
theorem witness_Plausibility :
    let at' := fun (e r run : Nat) (flag : Bool) =>
      State.reset.withTravel { State.reset.travel with encoderAcc := 100 * e, radarAcc := 100 * r, suspect := flag, plausibleRun := run }
    let seen := fun s => ran .plausibilityWindowExpiry s (fun t => (t.travel.suspect, t.travel.plausibleRun))
    judgeWindow false 49 0 = .notJudged ∧ judgeWindow false 50 0 = .implausible ∧ judgeWindow false 50 43 = .plausible
      ∧ seen (at' 400 300 0 false) = some (true, 0) ∧ seen (at' 400 300 2 true) = some (true, 0)
      ∧ seen (at' 400 400 0 false) = some (false, 0) ∧ seen (at' 400 400 1 true) = some (true, 2)
      ∧ seen (at' 400 400 2 true) = some (false, 0) ∧ seen (at' 49 0 1 true) = some (true, 1) := by decide

/-- Both entries GOOD at the bounds, both not GOOD, a record open and none. -/
theorem witness_WidthUpdate :
    let s := shown 9 3001 (shown 10 (-1) State.reset)
    s.seq.results[(9 : Fin 34)].quality = .good ∧ (widthUpdate s).travel.extL = 3000 ∧ (widthUpdate s).travel.extR = 0
      ∧ (widthUpdate s).travel.widthHeld = false
      ∧ State.reset.seq.results[(9 : Fin 34)].quality = .broken ∧ (widthUpdate State.reset).travel.widthHeld = true
      ∧ (widthUpdate (stepping State.reset)).record.current.map (fun r => r.flags.widthHeld) = some true := by decide

/-- Extensions at 0 and at 3000, zones at 374 and 375 mm, the two ends of the mat, a lawful travel state. -/
theorem witness_MatGeometry :
    (0 ≤ 3000 ∧ 3000 ≤ 3000) ∧ activityMap 0 0 = 0x00F#12 ∧ activityMap 3000 3000 = 0xFFF#12
      ∧ activityMap 374 375 = 0x10F#12 ∧ zoneAt 3000 3000 (-4500) = some 4 ∧ zoneAt 3000 3000 4499 = some 8
      ∧ zoneAt 3000 3000 4500 = none ∧ zoneAt 0 0 (-1501) = none ∧ zoneAt 0 0 (-1500) = some 0
      ∧ columnCount (driving 100 3000 3000 State.reset).travel = 36 ∧ columnCount State.reset.travel = 12 := by decide

/-- The reset state meets the law of the travel and width unit. -/
theorem witness_TravelLaw : TravelLaw State.reset := by
  unfold TravelLaw
  refine ⟨?_, ?_, ?_, ?_, ?_, ?_, ?_, ?_, ?_, ?_, ?_, ?_, ?_, ?_, ?_⟩ <;> first | exact Nat.zero_le _ | decide

/-- The mode to TRAVEL, from TRAVEL, from PAVE to STANDBY, and to PAVE. -/
theorem witness_MachineModes :
    let change := fun v s => ran (.application .m) (posted .m .machineMode v s) (fun t => (t.settings.mode, t.heat.running))
    change 2#16 (stepping (heating 0)) = some (.travel, false) ∧ change 0#16 (inMode .travel State.reset) = some (.standby, true)
      ∧ change 1#16 (inMode .travel State.reset) = some (.pave, true)
      ∧ change 0#16 (stepping State.reset) = some (.standby, false) ∧ change 1#16 State.reset = some (.pave, false)
      ∧ change 1#16 (stepping State.reset) = some (.pave, false)
      ∧ ran (.application .m) (posted .m .machineMode 0#16 (stepping State.reset))
          (fun t => t.record.summary.map fun h => h.partialClose) = some (some true) := by decide

/-- The change to TRAVEL keeps cycle, tripped mark and history, a zone's demand and grant, and clears its mismatch counts; a drive's
previous command takes the command held. The return from TRAVEL starts a cycle. -/
theorem witness_MachineModes_kept :
    let changed := fun v s => ran (α := List Nat) (.application .m) (posted .m .machineMode v s)
    let s := heatAt (fun h => { h with cycle := 9, tripped := true, history := [8] })
      (zoneUnit 0 (fun z => { z with demand := 32, remaining := 12, granted := 20, openCount := 1, weldCount := 1 })
        (driveAt .augR (fun u => { u with state := .auto, command := 500 }) (heating 0)))
    s.settings.mode ≠ .travel ∧ s.record.current = none
      ∧ changed 2#16 s (fun t => [t.heat.cycle, t.heat.tripped.toNat] ++ t.heat.history) = some [9, 1, 8]
      ∧ changed 2#16 s (fun t => [t.zones[(0 : Fin 12)].demand, t.zones[(0 : Fin 12)].remaining, t.zones[(0 : Fin 12)].granted])
        = some [32, 12, 20]
      ∧ changed 2#16 s (fun t => [t.zones[(0 : Fin 12)].openCount, t.zones[(0 : Fin 12)].weldCount]) = some [0, 0]
      ∧ changed 2#16 s (fun t => [t.feed.augR.command, t.feed.augR.previous]) = some [0, 500]
      ∧ changed 0#16 (inMode .travel s) (fun t => [t.heat.cycle, t.heat.slice, t.heat.tripped.toNat]) = some [10, 0, 0] := by
  decide

/-- From PAVE to STANDBY with a record open: it is stored, RECORD_CLOSED and SETTING_CHANGED are raised, the zone under its cold
column is boosted. With the mode held already, only the change itself is told. -/
theorem witness_MachineModes_to_standby :
    let s := (stepping State.reset).withScan { (stepping State.reset).scan with
      columns := { sum := 400, count := 1 } :: List.replicate 11 { sum := 0, count := 0 } }
    let told := fun v u => ran (.application .m) (posted .m .machineMode v u) (fun t => t.ports.r.pendingSet)
    s.settings.mode = .pave ∧ s.record.current = some openStep
      ∧ ran (.application .m) (posted .m .machineMode 0#16 s)
          (fun t => (t.store.newest, t.zones[(0 : Fin 12)].boost, t.zones[(1 : Fin 12)].boost)) = some (2318, 2, 0)
      ∧ told 0#16 s = some (alertBit .recordClosed ||| alertBit .settingChanged)
      ∧ told 1#16 s = some (alertBit .settingChanged) := by decide

/-- A class that is busy (SLOW at reset: its channels wait) and one that is not; an IDLE converter. -/
theorem witness_ClassPeriod :
    let idle := State.reset.withSeq { State.reset.seq with queue := [33], converter := .idle }
    ran (.classPeriodExpiry .slow) State.reset (fun t => (t.seq.rounds.slow.late, t.seq.rounds.slow.lateCount)) = some (true, 1)
      ∧ ran (.classPeriodExpiry .fast) idle (fun t => (t.seq.rounds.fast.late, t.seq.queue.length)) = some (false, 10)
      ∧ idle.seq.converter = .idle
      ∧ ran (.classPeriodExpiry .fast) idle converterEvent = some (some (2000, .converterTake))
      ∧ State.reset.now ≤ State.reset.timers.period.get .fast ∧ State.reset.now ≤ State.reset.timers.second := by decide

/-- Two FAST expiries on time stand on the 20 ms grid; one taken at 1000 ms, after the SLOW one, starts its period there (log
entry 30). -/
theorem test_periodGrid :
    (match exec (.classPeriodExpiry .fast) State.reset with
      | .next t => ran (.classPeriodExpiry .fast) t (fun u => u.timers.period.fast)
      | _ => none) = some 6000
      ∧ (match exec (.classPeriodExpiry .slow) State.reset with
        | .next t => ran (.classPeriodExpiry .fast) t (fun u => u.timers.period.fast)
        | _ => none) = some 102000 := by decide

/-- Channel 9 leaves the queue by the converter's take; channels 0 to 8 join it by the period expiry of FAST. -/
theorem witness_ConversionQueue :
    let s := State.reset.withSeq { State.reset.seq with queue := [9], converter := .idle }
    s.seq.queue.Pairwise (· < ·) ∧ ran .converterTake s (fun t => t.seq.queue) = some []
      ∧ ran (.classPeriodExpiry .fast) s (fun t => t.seq.queue) = some [0, 1, 2, 3, 4, 5, 6, 7, 8, 9] := by decide

/-- An IDLE, a SETTLING and a RECOVERING converter. -/
theorem witness_ConverterSteps :
    let idle := State.reset.withSeq { State.reset.seq with queue := [33], converter := .idle }
    idle.seq.converter = .idle ∧ idle.seq.queue = [33]
      ∧ ran .converterTake idle (fun t => t.seq.converter) = some (.settling 33 1 200)
      ∧ State.reset.seq.converter = .settling 0 1 15 ∧ State.reset.seq.converter.held = some 0
      ∧ ran .settleEnd State.reset (fun t => t.seq.converter.held) = some (some 0)
      ∧ (converterAt (.recovering 974) State.reset).seq.converter = .recovering 974
      ∧ ran .overloadRecoveryEnd (converterAt (.recovering 974) State.reset) converterEvent
          = some (some (974, .converterTake)) := by decide

/-- Channel 30, the last machine channel, at 3440 and 3441 counts, and channel 31, the first reference. -/
theorem witness_ConversionCompletion :
    let s := fun c => converterAt (.converting c 1 17) State.reset
    (s 30).seq.converter = .converting 30 1 17
      ∧ ran (.conversionCompletion 3440#12 noPins) (s 30) (fun t => t.seq.converter) = some .idle
      ∧ ran (.conversionCompletion 3441#12 noPins) (s 30) (fun t => t.seq.converter) = some (.recovering 417)
      ∧ ran (.conversionCompletion 20#12 noPins) (s 31) (fun t => t.seq.results[(31 : Fin 34)].quality) = some .good := by decide

/-- Equal counts, and counts that differ. -/
theorem witness_EngineeringValue :
    let flat : Calibration := { zeroCount := 655, fullCount := 655, zeroValue := 7, fullValue := 9 }
    flat.fullCount = flat.zeroCount ∧ engineeringValue flat 1000 = 7 ∧ machineQuality flat false 1000 = .broken
      ∧ (Calibration.powerOn 8).fullCount ≠ (Calibration.powerOn 8).zeroCount
      ∧ engineeringValue (Calibration.powerOn 8) 3276 = 1000 ∧ engineeringValue (Calibration.powerOn 8) 655 = -1000 := by decide

/-- The limits of a machine channel, and of the three references, on either side. -/
theorem witness_ResultQuality :
    let q := machineQuality (Calibration.powerOn 0)
    q false 589 = .broken ∧ q false 590 = .good ∧ q false 3440 = .good ∧ q false 3441 = .short ∧ q true 590 = .suspect
      ∧ (let seen := fun c (n : BitVec 12) =>
          ran (.conversionCompletion n noPins) (converterAt (.converting c 1 17) State.reset) (fun t => t.seq.results[c].quality)
        [seen 31 20#12, seen 31 21#12, seen 32 4075#12, seen 32 4074#12] = [some .good, some .suspect, some .good, some .suspect]
          ∧ [seen 33 2032#12, seen 33 2031#12, seen 33 2064#12, seen 33 2065#12]
              = [some .good, some .suspect, some .good, some .suspect]) := by decide

/-- Completions that complete a FAST, a MEDIUM and a SLOW round, one with a class still waiting, one with an older tag. -/
theorem witness_RoundCompletion :
    let s := fun c tag queue => State.reset.withSeq { State.reset.seq with queue := queue, converter := .converting c tag 17 }
    let sample := fun s => ran (.conversionCompletion 1000#12 noPins) s (fun t => t.timers.sample)
    completesRound (s 8 1 [9]).seq 8 1 = true ∧ sample (s 8 1 [9]) = some (some 10017)
      ∧ completesRound (s 8 1 [7]).seq 8 1 = false ∧ sample (s 8 1 [7]) = some (some 10000)
      ∧ completesRound (s 8 2 [9]).seq 8 2 = false ∧ completesRound (s 18 1 [19]).seq 18 1 = true
      ∧ completesRound (s 33 1 []).seq 33 1 = true
      ∧ ran (.conversionCompletion 2048#12 noPins) (s 33 1 []) (fun t => t.seq.conditionSuspect) = some true := by decide

/-- A check that passes at its bounds and one that fails, from either condition; the check of a SLOW completion that clears
it. -/
theorem witness_ReferenceCheck :
    let late := (references 20 4075 0).withSeq
      { (references 20 4075 0).seq with conditionSuspect := true, queue := [], converter := .converting 33 1 17 }
    (slowRound (references 20 4075 2032)).seq.conditionSuspect = false
      ∧ (slowRound (references 20 4075 2064)).seq.conditionSuspect = false
      ∧ (slowRound (references 21 4075 2032)).seq.conditionSuspect = true
      ∧ (slowRound ((references 20 4075 2031).withRecord (stepping State.reset).record)).record.current.map
          (fun r => r.flags.converterSuspect) = some true
      ∧ ran (.conversionCompletion 2048#12 noPins) late (fun t => (late.seq.conditionSuspect, t.seq.conditionSuspect))
          = some (true, false) := by decide

/-- BEAM with 0 to 4 valid heads, values 1 and 9999, 0 and 10000; SINGLE and SLOPE, usable and not. -/
theorem witness_ReferenceReading :
    let s := fun a b c d => beaming a b c d
    let slope := fun e => sideSet .left (fun t => { t with refMode := .slope }) (entered 8 e State.reset)
    (judgeReference (s 0 10000 0 0) .left = (none, 0)) ∧ judgeReference (s 1 0 0 0) .left = (none, 1)
      ∧ judgeReference (s 1 9999 0 0) .left = (some 5000, 2) ∧ judgeReference (s 1200 1210 1220 0) .left = (some 1205, 3)
      ∧ judgeReference (s 1203 1210 1251 1207) .left = (some 1207, 4)
      ∧ judgeReference (sideSet .left (fun t => { t with refMode := .single, heads := 8#4 }) (s 0 0 0 77)) .left = (some 77, 1)
      ∧ (judgeReference (sideSet .left (fun t => { t with refMode := .single, heads := 12#4 }) (s 0 0 0 77)) .left).1 = none
      ∧ judgeReference (slope { count := 2000, value := 1001, quality := .good, round := 1 }) .left = (some 1000, 0)
      ∧ (judgeReference (slope { count := 2000, value := 1001, quality := .suspect, round := 1 }) .left).1 = none
      ∧ (s 1 9999 0 0).lev.left.state ≠ .manual := by decide

/-- A side in AUTO with a target in BEAM, and in SLOPE on either side. -/
theorem witness_Deviation :
    let slope := fun sd => sideSet sd (fun c => { c with refMode := .slope, slopeTarget := -1000 }) (driving 100 3000 3000 State.reset)
    ((beaming 1203 1210 1251 1207).lev.get .left).target = some 1180
      ∧ deviation (beaming 1203 1210 1251 1207) .left 1207 = 17
      ∧ deviation (slope .left) .left 1000 = 18000 ∧ deviation (slope .right) .right 1000 = -18000 := by decide

/-- A state that meets the laws the deviation's bounds ask for: the left side in LOST in BEAM with a target. -/
theorem witness_Deviation_lawful :
    let s := sideAt .left (fun u => { u with state := .lost, target := some 9999 }) (shown 0 1 (shown 1 1 State.reset))
    SettingsLaw s ∧ TravelLaw s ∧ ReadingLaw s ∧ (s.lev.get .left).state ≠ .manual
      ∧ judgeReference s .left = (some 1, 2) ∧ deviation s .left 1 = -9998 := by
  refine ⟨⟨by decide, by decide, by decide, by decide, ?_, ?_, ?_, ?_, ?_, by decide, by decide, by decide, ?_⟩, witness_TravelLaw,
    ?_, by decide, by decide, by decide⟩
  · intro sd; cases sd <;> (unfold SideSettings.inRange; decide)
  · unfold ZoneSettings.inRange; decide
  · intro d; cases d <;> (unfold DriveSettings.inRange; decide)
  · unfold RecordSettings.inRange; decide
  · unfold Calibration.inRange; decide
  · intro p e he; cases p <;> cases he
  · intro sd
    cases sd
    · refine ⟨?_, by decide, by decide, by decide, by decide⟩
      intro n h; cases h; decide
    · refine ⟨?_, by decide, by decide, by decide, by decide⟩
      intro n h; cases h

/-- The settings of a side in their ranges, which the smallest duty asks for. -/
theorem witness_Duty_inRange : (beaming 1250 1250 1250 1250).settings.sides.left.inRange := by
  unfold SideSettings.inRange
  decide

/-- At the dead band and just outside it, in either direction; standing still; in LOST below the tenth sample. -/
theorem witness_Duty :
    let at' := fun v => beaming v v v v
    let u := fun s => ((sampleSide .left s).lev.left.raise, (sampleSide .left s).lev.left.lower)
    u (at' 1195) = (0, 0) ∧ u (at' 1196) = (0, 171) ∧ u (at' 1185) = (0, 0) ∧ u (at' 1184) = (171, 0)
      ∧ u (driving 4 0 0 (at' 1250)) = (0, 0) ∧ u (inMode .standby (at' 1250)) = (0, 0)
      ∧ u (sideAt .left (fun v => { v with state := .lost, goodRun := 8 }) (at' 1250)) = (0, 0) := by decide

/-- An unusable sample in AUTO and in LOST; the ninth and the tenth usable one; a side in MANUAL. -/
theorem witness_LostAndReturn :
    let good := beaming 1200 1200 1200 1200
    let bad := sideAt .left (fun u => { u with state := .auto }) State.reset
    let lost := fun n => sideAt .left (fun u => { u with state := .lost, goodRun := n })
    let seen := fun s => ((sampleSide .left s).lev.left.state, (sampleSide .left s).lev.left.goodRun)
    (judgeReference bad .left).1 = none ∧ seen bad = (.lost, 0) ∧ seen (lost 9 bad) = (.lost, 0)
      ∧ seen (lost 8 good) = (.lost, 9) ∧ seen (lost 9 good) = (.auto, 0)
      ∧ sampleSide .left State.reset = State.reset := by decide

/-- A running sample timer, a side in AUTO with a usable reference. -/
theorem witness_SampleRound :
    State.reset.timers.sample = some 10000
      ∧ ((levellingRound (sideAt .left (fun u => { u with stale := true }) (beaming 1203 1210 1251 1207))).lev.left.stepMax = 17)
      ∧ (levellingRound State.reset).timers.sample = some 10000 := by decide

/-- Item bytes 1 and 2, direction bytes 1 and 2, a station that is not the side's. -/
theorem witness_SideRequestChecks :
    let code := fun p c => ran c jogging (fun t => (t.ports.get p).answer.map Answer.code)
    sideOfByte 1#8 = some .right ∧ code .r (.engage .r 2#8) = some (some .refused) ∧ code .l (.engage .l 1#8) = some (some .notAllowed)
      ∧ code .d (.disengage .d 0#8) = some (some .notAllowed) ∧ code .r (.jog .r 1#8 2#8 0#16) = some (some .refused)
      ∧ code .l (.jog .l 1#8 1#8 0#16) = some (some .notAllowed) ∧ code .r (.setZero .r 255#8) = some (some .refused) := by decide

/-- ENGAGE answered NOT_NOW in TRAVEL, from M with the side's station absent, and with an unusable reference; OK in each state of
the side; DISENGAGE in each. -/
theorem witness_Engagement :
    let s := shown 4 1200 (shown 5 1203 jogging)
    let seen := fun p s => ran (.engage p 1#8) s (fun t => ((t.ports.get p).answer.map Answer.code, t.lev.right.state))
    let off := fun s => ran (.disengage .m 1#8) s (fun t => (t.lev.right.state, t.lev.right.jog.isSome))
    seen .r (inMode .travel s) = some (some .notNow, .manual)
      ∧ seen .m (portAt .r (fun p => { p with present := false, presenceDue := none }) s) = some (some .notNow, .manual)
      ∧ seen .r State.reset = some (some .notNow, .manual) ∧ seen .m s = some (some .ok, .auto)
      ∧ seen .r (sideAt .right (fun u => { u with state := .lost, goodRun := 3 }) s) = some (some .ok, .auto)
      ∧ seen .r (sideAt .right (fun u => { u with state := .auto }) s) = some (some .ok, .auto)
      ∧ seen .r (sideSet .right (fun c => { c with refMode := .slope }) (shown 8 0 s)) = some (some .ok, .auto)
      ∧ off (sideAt .right (fun u => { u with state := .auto }) s) = some (.manual, false)
      ∧ off (sideAt .right (fun u => { u with jog := some { direction := .raise, duty := 9, due := 9 }, raise := 9 }) s)
        = some (.manual, false) ∧ off s = some (.manual, false) := by decide

/-- SET-ZERO with an unusable reference, in BEAM, in SLOPE, and with a value that is already stored. -/
theorem witness_SetZero :
    let slope := fun target => sideSet .left (fun c => { c with refMode := .slope, slopeTarget := target }) (shown 8 (-262) State.reset)
    let seen := fun s => ran (.setZero .m 0#8) s (fun t => (t.settings.sides.left.slopeTarget, t.ports.r.pendingSet))
    ran (.setZero .m 0#8) State.reset (fun t => t.ports.m.answer) = some (some { code := .notNow, data := [] })
      ∧ (judgeReference (beaming 1203 1210 1251 1207) .left).1 = some 1207
      ∧ seen (slope 0) = some (-262, alertBit .settingChanged) ∧ seen (slope (-262)) = some (-262, 0#16) := by decide

/-- JOG answered NOT_NOW and OK, with duty 0, −1, 1 and above maxDuty; a pulse that ends. -/
theorem witness_JogPulses :
    let seen := fun d s => ran (.jog .r 1#8 0#8 d) s (fun t => (t.ports.r.answer.map Answer.code, t.lev.right.raise))
    directionOfByte 0#8 = some .raise ∧ directionOfByte 2#8 = none ∧ seen 0#16 jogging = some (some .ok, 0)
      ∧ seen 0xFFFF#16 jogging = some (some .ok, 0) ∧ seen 1#16 jogging = some (some .ok, 1)
      ∧ seen 901#16 jogging = some (some .ok, 900) ∧ seen 1#16 (inMode .travel jogging) = some (some .notNow, 0)
      ∧ ran (.jog .m 1#8 0#8 1#16) State.reset (fun t => t.ports.m.answer.map Answer.code) = some (some .notNow)
      ∧ (sideAt .right (fun u => { u with jog := some { direction := .raise, duty := 9, due := 9 } }) jogging).lev.right.jog
        ≠ none := by decide

/-- minDuty above maxDuty, maxDuty below minDuty, SLOPE against SLOPE, a changed reference mode of a side in AUTO. -/
theorem witness_SideSettingsApplied :
    let duties := fun item v => ran (.application .l) (posted .l (.side .left item) v State.reset)
      (fun t => (t.settings.sides.left.minDuty, t.settings.sides.left.maxDuty))
    let slope := sideSet .right (fun c => { c with refMode := .slope }) State.reset
    let mode := fun v s => ran (.application .l) (posted .l (.side .left .refMode) v s)
      (fun t => (t.settings.sides.left.refMode, t.ports.l.lastRejected, t.lev.left.state))
    duties .minDuty 400#16 = some (400, 900) ∧ duties .maxDuty 100#16 = some (150, 150)
      ∧ ran (.application .l)
          (posted .l (.side .left .maxDuty) 200#16 (sideAt .left (fun u => { u with state := .auto, lower := 405 }) State.reset))
          (fun t => t.lev.left.lower) = some 200
      ∧ mode 2#16 slope = some (.beam, some (.side .left .refMode), .manual)
      ∧ mode 2#16 State.reset = some (.slope, none, .manual)
      ∧ mode 1#16 (sideAt .left (fun u => { u with state := .auto }) State.reset) = some (.single, none, .manual)
      ∧ mode 0#16 (sideAt .left (fun u => { u with state := .auto }) State.reset) = some (.beam, none, .auto) := by decide

/-- A drive that enters no FAULT in each of its states. -/
theorem witness_FeedTickCommand :
    let s := fun st => driveAt .convL (fun u => { u with state := st })
      (driveSet .convL (fun c => { c with manual := 30 }) (shown 11 230 State.reset))
    let seen := fun s => ((feedTick s).feed.convL.state, (feedTick s).feed.convL.command)
    seen (s .off) = (.off, 0) ∧ seen (s .fault) = (.fault, 0) ∧ seen (s .manual) = (.manual, 30)
      ∧ seen (inMode .travel (s .manual)) = (.manual, 0) ∧ seen (s .auto) = (.auto, 0)
      ∧ seen (s .prefill) = (.prefill, 50)
      ∧ (feedTick (broken 11 (s .prefill))).feed.convL.openLoop = true := by decide

/-- The ramp at its edges; two successive commands of one drive that are not 0. -/
theorem witness_FeedRamp :
    ramp 50 100 150 = 150 ∧ ramp 50 100 151 = 150 ∧ ramp 50 100 50 = 50 ∧ ramp 50 100 49 = 50
      ∧ ((conveying 100 150 (shown 11 240 State.reset)).feed.convL.command, (conveying 100 150 State.reset).settings.drives.convL.rampStep)
        = (150, 50)
      ∧ (feedTick (conveying 100 150 (shown 11 240 State.reset))).feed.convL.command = 200 := by decide

/-- Each count at 2 and at 3, and a drive in FAULT. -/
theorem witness_FeedFaults :
    let s := fun (f : DriveUnit → DriveUnit) v => driveAt .convL f (shown 15 v State.reset)
    let seen := fun s => ((feedTick s).feed.convL.state, (feedTick s).feed.convL.cause)
    let run := fun (s : State) => s.withPins { noPins with running := 1#4 }
    seen (s (fun u => { u with overcurrentCount := 2 }) 600) = (.off, .none)
      ∧ seen (s (fun u => { u with overcurrentCount := 1 }) 601) = (.off, .none)
      ∧ seen (s (fun u => { u with overcurrentCount := 2 }) 601) = (.fault, .overcurrent)
      ∧ seen (s (fun u => { u with state := .manual, command := 5, notRunningCount := 2 }) 0) = (.fault, .notRunning)
      ∧ seen (run (s (fun u => { u with runawayCount := 2 }) 0)) = (.fault, .runaway)
      ∧ seen (run (s (fun u => { u with state := .fault, cause := .runaway }) 0)) = (.fault, .runaway)
      ∧ (s (fun u => { u with state := .fault }) 0).feed.convL.state = .fault := by decide

/-- A bus voltage in range, and four currents at their top: 3200. -/
theorem witness_FeedLoad :
    State.reset.settings.busVoltage ≤ 800
      ∧ (feedLoad (shown 15 1001 (shown 16 1000 (shown 17 1000 (shown 18 1000
          (State.reset.withSettings { State.reset.settings with busVoltage := 800 })))))).heat.feedLoad = 3200 := by decide

/-- The reset state meets the law of the feed drives. -/
theorem witness_FeedLaw : FeedLaw State.reset := by
  refine ⟨?_, by decide⟩
  intro d; cases d <;> decide

/-- Each request to a drive in another state, in TRAVEL, and in FAULT. -/
theorem witness_StateRequestApplied :
    let seen := fun v s => ran (.application .l) (posted .l (.drive .convL .request) v s)
      (fun t => (t.feed.convL.state, t.feed.convL.command))
    let at' := fun st => driveAt .convL (fun u => { u with state := st, command := 70 }) State.reset
    seen 0#16 (at' .auto) = some (.off, 0) ∧ seen 1#16 (at' .auto) = some (.manual, 70) ∧ seen 2#16 (at' .prefill) = some (.auto, 70)
      ∧ seen 2#16 (at' .auto) = some (.auto, 70) ∧ seen 2#16 (at' .fault) = some (.fault, 70)
      ∧ seen 2#16 (inMode .travel State.reset) = some (.off, 0) := by decide

/-- Item bytes 3 and 4, another side's station, a drive in MANUAL, a moving paver; both return states. -/
theorem witness_PrefillRuns :
    let seen := fun p i s => ran (.prefill p i) s (fun t => (t.ports.get p).answer.map Answer.code)
    let run := fun back => driveAt .augR (fun u => { u with state := .prefill, returnAuto := back, command := 70, prefillDue := some 9 })
      State.reset
    seen .m 4#8 State.reset = some (some .refused) ∧ seen .m 3#8 State.reset = some (some .ok)
      ∧ seen .l 3#8 State.reset = some (some .notAllowed) ∧ seen .r 3#8 (driving 5 0 0 State.reset) = some (some .notNow)
      ∧ seen .r 3#8 (driveAt .augR (fun u => { u with state := .manual }) State.reset) = some (some .notNow)
      ∧ ran (.prefillTimerExpiry .augR) (run true) (fun t => (t.feed.augR.state, t.feed.augR.command)) = some (.auto, 70)
      ∧ ran (.prefillTimerExpiry .augR) (run false) (fun t => (t.feed.augR.state, t.feed.augR.command)) = some (.off, 0) := by
  decide

/-- Item bytes 3, 4, 15, 16, 27 and 28, with each answer. -/
theorem witness_ClearFault :
    let s := driveAt .augR (fun u => { u with state := .fault })
      (zoneUnit 0 (fun z => { z with state := .faultOpen }) (zoneUnit 11 (fun z => { z with state := .faultWelded }) State.reset))
    let seen := fun p i pins => ran (.clearFault p i pins) s (fun t => (t.ports.get p).answer.map Answer.code)
    seen .m 3#8 noPins = some (some .ok) ∧ seen .m 2#8 noPins = some (some .notNow) ∧ seen .l 3#8 noPins = some (some .notAllowed)
      ∧ seen .m 4#8 noPins = some (some .refused) ∧ seen .m 15#8 noPins = some (some .refused)
      ∧ seen .l 16#8 noPins = some (some .ok) ∧ seen .d 16#8 noPins = some (some .notAllowed)
      ∧ seen .r 27#8 noPins = some (some .ok) ∧ seen .l 27#8 noPins = some (some .notAllowed)
      ∧ seen .r 27#8 { noPins with sense := 0x800#12 } = some (some .notNow) ∧ seen .m 17#8 noPins = some (some .notNow)
      ∧ seen .m 28#8 noPins = some (some .refused) := by decide

/-- A RUNNING heating before its slice 30 and at its slice 31. -/
theorem witness_SliceStart :
    let s := fun n => heatAt (fun h => { h with slice := n }) (heating 130)
    (s 30).heat.running = true ∧ (s 30).heat.slice < 31
      ∧ ran .sliceStart (s 30) (fun t => (t.heat.slice, t.heat.grantedPower)) = some (31, 270) := by decide

set_option maxRecDepth 40000 in
/-- A boundary that closes a cycle, one at the end of the wait, and the end of a wait in TRAVEL. -/
theorem witness_CycleBoundary :
    let s := heatAt (fun h => { h with slice := 31 }) (heating 130)
    s.heat.running = true ∧ 31 ≤ s.heat.slice
      ∧ ran .sliceStart s (fun t => (t.heat.slice, t.zones[(5 : Fin 12)].starved, t.ports.l.pendingSet))
        = some (0, 24, alertBit .starving)
      ∧ ran .sliceStart s (fun t => t.timers.sample) = some s.timers.sample
      ∧ State.reset.timers.heatingWait = some 200000 ∧ State.reset.settings.mode ≠ .travel
      ∧ ran .heatingWaitEnd (inMode .travel State.reset) (fun t => (t.heat.running, t.timers.heatingWait)) = some (false, none) := by
  decide

/-- A trip while STOPPED, a first and a second one of a cycle, a derating one at step 50; an applied capacity. -/
theorem witness_TripsAndDerating :
    let s := fun (f : HeatUnit → HeatUnit) => heatAt (fun h => f { h with running := true, cycle := 20 }) State.reset
    let seen := fun s => ran (.trip 2) s (fun t => (t.heat.history, t.heat.derate, t.ports.d.pendingSet))
    let trip := alertBit .heatTrip
    seen State.reset = some ([], 100, trip) ∧ seen (s id) = some ([20], 100, trip)
      ∧ seen (s fun h => { h with tripped := true, history := [20] }) = some ([20], 100, trip)
      ∧ seen (s fun h => { h with history := [12, 15] }) = some ([], 90, trip ||| alertBit .derated)
      ∧ seen (s fun h => { h with history := [12, 15], derate := 50 }) = some ([], 50, trip)
      ∧ ran (.application .m) (posted .m .writtenCapacity 450#16 (s fun h => { h with derate := 60, history := [12] }))
          (fun t => (t.heat.derate, t.heat.effective, t.heat.history)) = some (100, 450, []) := by decide

/-- Zones commanded on and off, with matching and mismatching sense inputs, at counts 0 and 1. -/
theorem witness_Readback :
    let s := fun f => zoneUnit 4 f (heatAt (fun h => { h with running := true }) State.reset)
    let on := fun n => s fun z => { z with state := .heating, openCount := n, output := true, sliceCommand := true }
    let off := fun n => s fun z => { z with state := .sensorLost, weldCount := n }
    let closed : Pins := { noPins with sense := 0x010#12 }
    let seen := fun pins s => ran (.readback pins) s (fun t => (t.zones[(4 : Fin 12)].state, t.zones[(4 : Fin 12)].openCount,
      t.zones[(4 : Fin 12)].weldCount))
    (on 0).heat.running = true ∧ seen closed (on 1) = some (.heating, 0, 0) ∧ seen noPins (on 0) = some (.heating, 1, 0)
      ∧ seen noPins (on 1) = some (.faultOpen, 0, 0) ∧ seen noPins (off 1) = some (.sensorLost, 0, 0)
      ∧ seen closed (off 0) = some (.sensorLost, 0, 1) ∧ seen closed (off 1) = some (.faultWelded, 0, 0)
      ∧ seen closed (s fun z => { z with state := .heating, output := false, sliceCommand := true, weldCount := 1 })
        = some (.heating, 0, 1) := by decide

set_option maxRecDepth 40000 in
/-- A valid line with a record open and the paver moving, standing, and with no record open; the columns have room. -/
theorem witness_ScannerLine :
    lineOfStep = ((7#16 :: pixelsOfStep) ++ [checkWord (7#16 :: pixelsOfStep)]).flatMap wordBytes ∧ pixelsOfStep.length = 64
      ∧ (stepping State.reset).scan.previousLine ≠ some ((7#16).extractLsb' 0 8)
      ∧ (∀ col ∈ (stepping State.reset).scan.columns, col.count + 64 ≤ 65535)
      ∧ ran (.scannerLine lineOfStep true) State.reset (fun t => (t.scan.validTotal, t.scan.linesBinned)) = some (1, 0)
      ∧ ran (.scannerLine lineOfStep true) (driving 4 0 0 (stepping State.reset)) (fun t => (t.scan.validTotal, t.scan.linesBinned))
        = some (1, 0) := by decide

/-- Scanner-lost is clear at reset, with a record open and none. -/
theorem witness_ScannerLink :
    State.reset.scan.lost = false ∧ State.reset.record.current = none
      ∧ ran .scannerSilenceExpiry State.reset (fun t => (t.scan.lost, t.ports.d.pendingSet))
        = some (true, alertBit .scannerLost) := by decide

/-- A carry one short of the step length, and the numbers around the top. -/
theorem witness_RecordOpen :
    let s := (stepping State.reset).withTravel { (stepping State.reset).travel with distance := 127398 }
    s.record.current = some openStep ∧ 0 < (s.travel.remainder + (100 - 0)) / 100 ∧ s.travel.distance + 1 ≤ 4294967295
      ∧ ran .forwardPulse s (fun t => t.record.current.map fun r => r.sequence) = some (some 2318)
      ∧ seqNext 4294967295 = 1 ∧ seqNext 4294967294 = 4294967295 := by decide

/-- An open record with a cold column, one above the limit and a GAP: zone 1 is boosted, after RESTART none is. -/
theorem witness_RecordClose :
    let cols := List.replicate 3 ({ sum := 27000, count := 20 } : Column) ++ [{ sum := 47000, count := 40 }]
      ++ List.replicate 8 ({ sum := 0, count := 0 } : Column)
    let s := (stepping State.reset).withScan { (stepping State.reset).scan with columns := cols }
    s.record.current = some openStep ∧ (∀ col ∈ s.scan.columns, col.sum ≤ 3000 * col.count)
      ∧ (List.finRange 12).map (fun k => (closeRecord false false s).zones[k].boost) = [0, 2, 0, 0, 0, 0, 0, 0, 0, 0, 0, 0]
      ∧ (closeRecord false true s).zones[(1 : Fin 12)].boost = 0 := by decide

/-- A header whose fields fill their places in the words (R177), and the words with a pause of 15, 3 drops and one column. -/
theorem witness_RecordClose_layout :
    let h : Header := { assembleHeader State.reset openStep false true with
      pauseFlag := true, dropsFlag := true, linesBinned := 255, speedMin := 1020, speedMax := 1020, leftState := .lost
      leftMax := 16383, rightState := .auto, rightMax := 16383, faulted := 0xFFF#12, trips := 15, minimum := 4095
      linesRejected := 15 }
    (h.linesBinned ≤ 255 ∧ h.speedMin ≤ 1020 ∧ h.speedMax ≤ 1020 ∧ h.leftMax ≤ 16383 ∧ h.rightMax ≤ 16383 ∧ h.trips ≤ 15
        ∧ h.linesRejected ≤ 15 ∧ h.minimum ≤ 4095)
      ∧ (recordBody h 15 3 [0x1497#16]).drop 9
        = [0x70FF#16, 0xFFFF#16, 0xBFFF#16, 0x7FFF#16, 0x0000#16, 0xFFFF#16, 0xFFFF#16, 15#16, 3#16, 0x1497#16] := by decide

/-- Two records held, 2047 and 2048, the cursor at base, 2049 the next number, and a slot. -/
def heldWith (slot : HeldSlot) : State :=
  (twoHeld slot).withRecord { current := none, nextSequence := 2049, summary := none }

/-- A copy of 2047 READY, at the cursor. -/
def held : State := heldWith (.ready (thirtyWords 2047) 120)

/-- A copy of 2046 READY, which a drop has taken from the store since (section 8.6). -/
def dropped : State := heldWith (.ready (thirtyWords 2046) 120)

set_option maxRecDepth 40000 in
/-- A header without DROPS, 12 columns and a number of the numbering, against the store of `held`: 29 words, no drop. (`witness_StoreLaw`: the store's premise.) -/
theorem witness_Storing :
    let h := assembleHeader State.reset openStep false false
    let t := (storeRecord h 0 (List.replicate 12 0#16) held).1
    h.dropsFlag = false ∧ (List.replicate 12 0#16).length ≤ 36 ∧ 1 ≤ h.sequence ∧ h.sequence ≤ 4294967295
      ∧ t.store.records.map (fun r => (r.sequence, r.words.length)) = [(2047, 30), (2048, 30), (2318, 29)] ∧ t.store.droppedTotal = 0 := by decide

set_option maxRecDepth 40000 in
/-- The law of the record store in that state. -/
theorem witness_StoreLaw : StoreLaw held := by
  refine ⟨⟨rfl, rfl, trivial⟩, by decide, by decide, ⟨by decide, ?_⟩, ?_, by decide, by decide, ⟨0, by decide, by decide⟩,
    by decide, by decide, ?_⟩
  · decide
  · decide
  · intro r due h
    rcases h with h | h <;> cases h
    decide

set_option maxRecDepth 40000 in
/-- The same law while a copy is READY whose record a drop has taken. -/
theorem witness_StoreLaw_dropped : StoreLaw dropped := by
  refine ⟨⟨rfl, rfl, trivial⟩, by decide, by decide, ⟨by decide, ?_⟩, ?_, by decide, by decide, ⟨0, by decide, by decide⟩,
    by decide, by decide, ?_⟩
  · decide
  · decide
  · intro r due h
    rcases h with h | h <;> cases h
    decide

set_option maxRecDepth 40000 in
/-- The delivery of that copy: the slot EMPTY, the cursor at 2047 as the drop left it. -/
theorem witness_FetchAndCopy_dropped :
    dropped.store.slot = .ready (thirtyWords 2046) 120 ∧ dropped.store.cursor = seqAfter dropped.store.base 0
      ∧ (∀ j, j < dropped.store.records.length → (thirtyWords 2046).sequence ≠ seqAfter dropped.store.base j)
      ∧ ran (.fetch .d) dropped (fun t => (t.store.slot, t.store.cursor)) = some (.empty, 2047) := by decide

set_option maxRecDepth 40000 in
/-- FETCH from another port, with each slot, with nothing at the cursor. -/
theorem witness_FetchAndCopy :
    let seen := fun p s => ran (.fetch p) s (fun t => (t.ports.get p).answer.map Answer.code)
    seen .m (twoHeld .empty) = some (some .notAllowed) ∧ seen .d State.reset = some (some .empty)
      ∧ seen .d (twoHeld .empty) = some (some .retry)
      ∧ seen .d (twoHeld (.copying (thirtyWords 2047) 120)) = some (some .retry)
      ∧ seen .d (twoHeld (.ready (thirtyWords 2047) 120)) = some (some .ok)
      ∧ State.reset.store.records[seqDistance State.reset.store.base State.reset.store.cursor]? = none
      ∧ (twoHeld .empty).store.records[seqDistance 2047 2047]? = some (thirtyWords 2047)
      ∧ held.store.slot = .ready (thirtyWords 2047) 120 ∧ 0 < held.store.records.length
      ∧ (thirtyWords 2047).sequence = seqAfter held.store.base 0 ∧ held.store.cursor = seqAfter held.store.base 0 := by decide

set_option maxRecDepth 40000 in
/-- RELEASE at distance 0 with and without a record, at 1, at 2 147 483 647 and beyond, of 0, and from another port. -/
theorem witness_ReleaseAndRewind :
    let seen := fun p n s => ran (.release p n) s (fun t => (t.ports.get p).answer.map Answer.code)
    seqDistance 4294967295 1 = 1 ∧ seqAfter 4294967295 1 = 1 ∧ seqDistance 1 4294967295 = 4294967294
      ∧ seqDistance 2047 2047 = 0 ∧ seqDistance 2047 2147485694 = 2147483647 ∧ seqDistance 2047 2147485695 = 2147483648
      ∧ seen .d 2047#32 (twoHeld .empty) = some (some .ok) ∧ seen .d 1#32 State.reset = some (some .order)
      ∧ seen .d 2048#32 (twoHeld .empty) = some (some .order) ∧ seen .d 2147485694#32 (twoHeld .empty) = some (some .order)
      ∧ seen .d 2147485695#32 (twoHeld .empty) = some (some .gone) ∧ seen .d 0#32 (twoHeld .empty) = some (some .refused)
      ∧ seen .m 2047#32 (twoHeld .empty) = some (some .notAllowed)
      ∧ ran (.rewind .l) (twoHeld .empty) (fun t => t.ports.l.answer.map Answer.code) = some (some .notAllowed) := by decide

/-- The answer of a WRITE on a port. -/
def writeAnswer (p : Port) (i : Byte) (v : Word) (s : State) : Option (Option Answer) :=
  ran (.write p i v) s fun t => (t.ports.get p).answer

/-- An answer without data. -/
def bare (c : AnswerCode) : Option (Option Answer) := some (some { code := c, data := [] })

set_option maxRecDepth 40000 in
/-- A WRITE turned away: of no item, of a status item, of another station's group, by the guard, by the lock, with an undefined
value, and with a full queue. -/
theorem witness_Write :
    let entry : PostEntry := { item := .side .left .offset, value := 0#16, clamped := false, due := 200 }
    settingAt 255 = none ∧ (statusAt State.reset 255).isNone ∧ writeAnswer .m 255#8 0#16 State.reset = bare .noItem
      ∧ settingAt 512 = none ∧ (statusAt State.reset 512).isSome
      ∧ writeAnswer .m 0#8 0#16 (portAt .m (fun p => { p with page := some 2 }) State.reset) = bare .notAllowed
      ∧ writeAnswer .r 18#8 0#16 State.reset = bare .notAllowed
      ∧ writeAnswer .l 18#8 0#16 (State.reset.withSettings { State.reset.settings with guard := 2#16 }) = bare .guarded
      ∧ writeAnswer .m 8#8 0#16 (State.reset.withSettings { State.reset.settings with calLock := true }) = bare .locked
      ∧ writeAnswer .l 16#8 3#16 State.reset = bare .refused
      ∧ writeAnswer .l 18#8 0#16 (portAt .l (fun p => { p with queue := List.replicate 4 entry }) State.reset) = bare .full := by
  decide

/-- A WRITE posted: in range, at its bounds and outside them, and of an enumerated item. -/
theorem witness_Write_posted :
    writeAnswer .l 18#8 500#16 State.reset = some (some { code := .accepted, data := [0x01#8, 0xF4#8] })
      ∧ writeAnswer .l 18#8 501#16 State.reset = some (some { code := .clamped, data := [0x01#8, 0xF4#8] })
      ∧ writeAnswer .l 18#8 0xFE0C#16 State.reset = some (some { code := .accepted, data := [0xFE#8, 0x0C#8] })
      ∧ writeAnswer .l 18#8 0xFE0B#16 State.reset = some (some { code := .clamped, data := [0xFE#8, 0x0C#8] })
      ∧ writeAnswer .l 16#8 2#16 State.reset = some (some { code := .accepted, data := [0x00#8, 0x02#8] }) := by decide

/-- An entry whose application only stores it, and one that fails its check. -/
theorem witness_ApplicationOfAnEntry :
    let slope := sideSet .right (fun c => { c with refMode := .slope }) State.reset
    ((posted .l (.side .left .deadBand) 50#16 State.reset).ports.get .l).queue
        = [{ item := .side .left .deadBand, value := 50#16, clamped := false, due := 200 }]
      ∧ (2#16 = BitVec.ofNat 16 RefMode.slope.code) ∧ slope.settings.sides.right.refMode = .slope
      ∧ ran (.application .l) (posted .l (.side .left .refMode) 2#16 slope) (fun t => (t.ports.l.pendingSet, t.ports.m.pendingSet))
        = some (alertBit .settingRejected, 0#16) := by decide

/-- The applications of an alert enable mask, the port's own and another's, with the kind pending; of ENABLED and DISABLED to a
zone in HEATING and in IDLE; of the machine mode, whose entry leaves the queue with its mark. -/
theorem witness_ApplicationOfAnEntry_effects :
    let waiting := portAt .l (fun p => { p with pendingSet := 0x0080#16 }) State.reset
    let hot := zoneUnit 0 (fun z => { z with state := .heating, output := true }) State.reset
    let zone := fun v s => ran (.application .m) (posted .m (.zone 0 .enable) v s)
      (fun t => (t.zones[(0 : Fin 12)].state, t.zones[(0 : Fin 12)].output, t.ports.m.lastApplied))
    ran (.application .l) (posted .l (.alertMask .l) 0x0080#16 waiting) (fun t => (t.ports.l.line, t.settings.masks.l))
        = some (true, 0x0080#16)
      ∧ ran (.application .m) (posted .m (.alertMask .l) 0x0080#16 waiting) (fun t => (t.ports.l.line, t.ports.m.line))
        = some (true, false)
      ∧ zone 1#16 hot = some (.heating, true, some (.zone 0 .enable))
      ∧ zone 0#16 hot = some (.idle, false, some (.zone 0 .enable))
      ∧ zone 0#16 State.reset = some (.off, false, some (.zone 0 .enable))
      ∧ ran (.application .m) (posted .m .machineMode 1#16 State.reset)
          (fun t => (t.ports.m.queue, t.ports.m.lastApplied, t.ports.d.pendingSet))
        = some ([], some .machineMode, alertBit .settingChanged) := by decide

/-- Written and read back: an enumerated item, a negative one, CLEAR over a SET lock, a maxDuty below minDuty, and the maxDuty
that a minDuty raises. -/
theorem witness_ApplicationOfAnEntry_read_back :
    let t := { Settings.powerOn with calLock := true }
    (Setting.side .left .refMode).defined 2#16 = true ∧ (t.write (.side .left .refMode) 2#16).read (.side .left .refMode) = 2#16
      ∧ (t.write (.side .left .offset) 0xFFFF#16).read (.side .left .offset) = 0xFFFF#16
      ∧ Setting.calLock.defined 0#16 = true ∧ (t.write .calLock 0#16).read .calLock = 1#16
      ∧ (t.write (.side .left .maxDuty) 100#16).read (.side .left .maxDuty) = 150#16
      ∧ (t.write (.side .left .minDuty) 950#16).read (.side .left .maxDuty) = 950#16
      ∧ (t.write (.side .left .minDuty) 950#16).read (.side .right .maxDuty) = 900#16 := by decide

/-- READ of no item, of an item with a write waiting, and of a status item on page 2. -/
theorem witness_Read :
    let seen := fun i s => ran (.read .l i noPins) s (fun t => t.ports.l.answer.map Answer.code)
    (itemAt (takeRequest .l State.reset) 255).isNone ∧ seen 255#8 State.reset = some (some .noItem)
      ∧ seen 19#8 (posted .l (.side .left .deadBand) 50#16 State.reset) = some (some .retry)
      ∧ seen 20#8 (posted .l (.side .left .deadBand) 50#16 State.reset) = some (some .ok)
      ∧ seen 0#8 (portAt .l (fun p => { p with page := some 2 }) State.reset) = some (some .ok) := by decide

/-- The first and the last number of the calibration block, a number between blocks, and a number of each kind of status item. -/
theorem witness_Read_items :
    settingAt 256 = some (.calibration 0 .zeroCount) ∧ settingAt 379 = some (.calibration 30 .fullValue)
      ∧ settingAt 380 = some .travelPulse ∧ settingAt 382 = none ∧ settingAt 9 = none
      ∧ statusAt State.reset 9 = some (.word 10#16) ∧ (statusAt State.reset 163).isNone
      ∧ statusAt State.reset 955 = some (.word 0#16) ∧ (statusAt State.reset 956).isNone
      ∧ State.reset.record.summary = none ∧ State.reset.record.current = none ∧ State.reset.store.slot = .empty
      ∧ statusAt (stepping State.reset) 173 = some (.dword 2318#32) ∧ statusAt (stepping State.reset) 176 = some (.word 3000#16)
      ∧ statusAt (portAt .d (fun p => { p with line := true }) State.reset) 238 = some (.word 1#16) := by decide

set_option maxRecDepth 40000 in
/-- A summary whose speeds are multiples of 4, a slot that copies and one that is READY with 20 s left, and a history of one cycle. -/
theorem witness_Read_records :
    let h := assembleHeader State.reset openStep false true
    let s := State.reset.withRecord { State.reset.record with summary := some h }
    4 ∣ h.speedMin ∧ 4 ∣ h.speedMax ∧ statusAt s 144 = some (.dword 2318#32) ∧ statusAt s 152 = some (.word 100#16)
      ∧ statusAt s 150 = some (.word 0x4000#16)
      ∧ statusAt (twoHeld (.copying (thirtyWords 2047) 120)) 199 = some (.word 1#16)
      ∧ statusAt (twoHeld (.ready (thirtyWords 2047) 200000)) 201 = some (.word 20#16)
      ∧ statusAt (heatAt (fun u => { u with history := [450] }) State.reset) 775 = some (.word 450#16) := by decide

/-- Page values 3, 4 and 255. -/
theorem witness_PageAndBadFrame :
    (3#8).toNat < 4 ∧ 4 ≤ (4#8).toNat ∧ ran (.page .l 3#8) State.reset (fun t => t.ports.l.page) = some (some 3)
      ∧ ran (.page .l 255#8) (portAt .l (fun p => { p with page := some 1 }) State.reset) (fun t => t.ports.l.page) = some none := by
  decide

set_option maxRecDepth 40000 in
/-- PORT-RESET of D, which empties the held slot, and of another port, which does not. -/
theorem witness_PortReset :
    let s := twoHeld (.ready (thirtyWords 2047) 120)
    ran (.portReset .d) s (fun t => t.store.slot) = some .empty
      ∧ ran (.portReset .m) s (fun t => t.store.slot) = some (.ready (thirtyWords 2047) 120) := by decide

/-- A PRESENT port of a side in AUTO, in MANUAL with a jog pulse, and a port of no side. -/
theorem witness_PresenceTimeout :
    let jog : JogPulse := { direction := .raise, duty := 9, due := 9 }
    (jogging.ports.get .r).present = true
      ∧ ran (.presenceTimeout .r) (sideAt .right (fun u => { u with raise := 9, jog := some jog }) jogging)
        (fun t => (t.lev.right.raise, t.lev.right.jog, t.ports.l.pendingSet)) = some (0, none, alertBit .stationAbsent)
      ∧ ran (.presenceTimeout .d) (portAt .d (fun p => { p with present := true, presenceDue := some 100000 }) State.reset)
        (fun t => (t.ports.d.present, t.ports.d.pendingSet, t.ports.r.pendingSet)) = some (false, 0#16, alertBit .stationAbsent) := by
  decide

/-- RESTART from M in PAVE and in TRAVEL, with sides in AUTO and in MANUAL with a jog pulse. -/
theorem witness_Restart :
    let jog : JogPulse := { direction := .raise, duty := 9, due := 9 }
    let s := sideAt .left (fun u => { u with state := .auto, lower := 405 })
      (sideAt .right (fun u => { u with raise := 9, jog := some jog }) (stepping State.reset))
    ran (.restart .m) s (fun t => (t.lev.left.state, t.lev.left.lower, t.lev.right.jog, t.heat.cycle, t.seq.queue.length))
      = some (.manual, 0, none, 1, 33)
      ∧ ran (.restart .m) (inMode .travel State.reset) (fun t => (t.heat.running, t.heat.cycle)) = some (false, 0)
      ∧ ran (.restart .m) s (fun t => t.record.summary.map fun h => (h.sequence, h.restartClose)) = some (some (2318, true))
      ∧ ran (.restart .m) s (fun t => t.ports.r.pendingSet) = some (alertBit .sideLDropped ||| alertBit .recordClosed) := by
  decide

/-- RESTART in TRAVEL keeps the cycle, the demand and the grant and clears both mismatch counts. -/
theorem witness_Restart_travel :
    let s := heatAt (fun h => { h with cycle := 9, derate := 100 })
      (zoneUnit 0 (fun z => { z with state := .off, demand := 32, granted := 20, openCount := 1, weldCount := 1 }) (inMode .travel State.reset))
    s.settings.mode = .travel ∧ ran (.restart .m) s (fun t => (t.heat.cycle, t.heat.derate)) = some (9, 100)
      ∧ ran (.restart .m) s (fun t => (t.zones[(0 : Fin 12)].demand, t.zones[(0 : Fin 12)].granted,
          t.zones[(0 : Fin 12)].openCount, t.zones[(0 : Fin 12)].weldCount)) = some (32, 20, 0, 0)
      ∧ ran (.restart .m) State.reset (fun t => (t.timers.slice, t.timers.readback, t.timers.heatingWait))
        = some (some 25000, some 10000, none) := by decide

/-- At reset no command waits and no event is due: a tick passes. At the settle time SETTLE_END is due. -/
theorem witness_StepOnAnEmptyQueue :
    State.reset.pending = [] ∧ step State.reset = .next (State.reset.withNow 1)
      ∧ dueCommand (State.reset.withNow 15) = some .settleEnd := by
  refine ⟨rfl, ?_, ?_⟩
  · rfl
  · decide

/-- A deadline that lies ahead, one that lies behind, a timer that runs without its event (slice timer while STOPPED), a command
without a timer, and an IDLE converter with channels waiting. -/
theorem witness_StepOnAnEmptyQueue_time :
    let idle := converterAt .idle State.reset
    ownDeadline State.reset .speedWindowExpiry = some 25000
      ∧ ran .speedWindowExpiry State.reset State.now = some 25000
      ∧ ran .speedWindowExpiry (State.reset.withNow 26000) State.now = some 26000
      ∧ ownDeadline State.reset .sliceStart = none
      ∧ (some (7, .sliceStart) ∈ ownEvents (State.reset.withTimers { State.reset.timers with slice := some 7 }))
      ∧ ownDeadline State.reset .forwardPulse = none ∧ ran .forwardPulse (State.reset.withNow 9) State.now = some 9
      ∧ idle.seq.converter = .idle ∧ idle.seq.queue ≠ [] := by
  decide

/-- A PRESENT port may send each request: the frame of a RELEASE with every byte of its number in use. -/
theorem witness_FrameRoundTrip :
    (requestFrame (.release .d 0x01020304#32)).map Prod.snd
        = some [0x31#8, 0x00#8, 0x04#8, 0x01#8, 0x02#8, 0x03#8, 0x04#8, 0xC1#8]
      ∧ (requestFrame (.read .l 255#8 noPins)).isSome ∧ requestFrame .powerOn = none := by decide

/-- Two bytes and no more, a check byte not yet there, a wrong length with a right sum (1 + 0 + 1 + 0 + 254 = 256), and a TAKE_ALERTS
whose ignored item byte is 5 (4 + 5 + 0 + 247 = 256). -/
theorem witness_FrameRoundTrip_bytes :
    frameCommand .l noPins [0x01#8, 0x05#8] = none ∧ frameCommand .l noPins [0x01#8, 0x05#8, 0x00#8] = none
      ∧ frameCommand .l noPins [0x01#8, 0x00#8, 0x01#8, 0x00#8, 0xFE#8] = some (.badFrame .l true)
      ∧ frameCommand .l noPins [0x01#8, 0x00#8, 0x01#8, 0x00#8, 0xFF#8] = some (.badFrame .l false)
      ∧ frameCommand .l noPins [0x04#8, 0x05#8, 0x00#8, 0xF7#8] = some (.takeAlerts .l)
      ∧ byteSum (({ code := .clamped, data := [0x00#8, 0x32#8] } : Answer).frame) = 0#8 := by decide

/-! ### A lawful state other than the reset state: the heating runs with a zone on, and a command waits -/

/-- Cycle 7, slice 3: MR1 is HEATING with 20 of its 32 slices left, granted and on; SETTLE_END waits. -/
def warm : State :=
  ((State.reset.withHeat { State.reset.heat with
      running := true, cycle := 7, slice := 3, effective := 450, budget := 430, available := 430, grants := 4#12
      grantedPower := 45, history := [5] }).withSettings { State.reset.settings with capacity := 450 }).withZones
    (Vector.ofFn fun k => if k = 2 then
        { State.reset.zones[k] with
          state := .heating, demand := 32, remaining := 20, granted := 12, output := true, sliceCommand := true }
      else { State.reset.zones[k] with state := .idle }) |>.withPending [.settleEnd]

theorem warm_ports : PortLaw warm := by
  intro p; cases p <;> decide

theorem warm_settings : SettingsLaw warm := by
  refine ⟨by decide, by decide, by decide, by decide, ?_, ?_, ?_, ?_, ?_, by decide, by decide, by decide, ?_⟩
  · intro sd; cases sd <;> (unfold SideSettings.inRange; decide)
  · unfold ZoneSettings.inRange; decide
  · intro d; cases d <;> (unfold DriveSettings.inRange; decide)
  · unfold RecordSettings.inRange; decide
  · unfold Calibration.inRange; decide
  · intro p e he; cases p <;> cases he

theorem warm_sequencer : SequencerLaw warm := by
  refine ⟨by decide, ?_, by decide, ?_⟩
  · intro cls; cases cls <;> decide
  · intro c
    by_cases hc : c = 0
    · subst hc; right; left; exact ⟨_, .inl rfl⟩
    · left; revert c; decide

theorem warm_levelling : LevellingLaw warm ∧ ReadingLaw warm := by
  refine ⟨?_, ?_⟩
  · intro sd
    cases sd <;>
      exact ⟨⟨by decide, by decide, by decide, by decide, by decide, fun _ => ⟨rfl, rfl⟩⟩, by decide, by decide⟩
  · intro sd
    cases sd <;> refine ⟨?_, by decide, by decide, by decide, by decide⟩ <;> (intro n h; cases h)

theorem warm_feed : FeedLaw warm := by
  refine ⟨?_, by decide⟩
  intro d; cases d <;> decide

theorem warm_heating : CapacityLaw warm ∧ GrantLaw warm ∧ DemandLaw warm := by
  unfold CapacityLaw GrantLaw DemandLaw
  decide

theorem warm_records : RecordLaw warm ∧ StoreLaw warm := by
  refine ⟨⟨?_, ?_, by decide, by decide, ⟨by decide, ?_⟩, ?_⟩,
    ⟨trivial, ?_, by decide, ⟨by decide, ?_⟩, Nat.zero_le _, by decide, by decide, ⟨0, by decide, by decide⟩, by decide,
      by decide, ?_⟩⟩
  · intro c hc; cases hc
  · intro m hm; cases hm
  · exact Nat.succ_le_succ (Nat.zero_le _)
  · intro r hr; cases hr
  · intro c hc; cases hc
  · exact Nat.succ_le_succ (Nat.zero_le _)
  · intro r due h; rcases h with h | h <;> cases h

/-- The premises of the statements about what every step keeps: a lawful state whose step answers a next state. -/
theorem witness_Lawful : Lawful warm ∧ ∃ t, step warm = .next t ∧ t.seq.converter = .converting 0 1 17 := by
  refine ⟨⟨warm_ports, warm_settings, ?_, warm_sequencer, warm_levelling.1, warm_levelling.2, warm_feed, warm_heating.1,
    warm_heating.2.1, warm_heating.2.2, warm_records.1, warm_records.2⟩, ?_⟩
  · unfold TravelLaw
    refine ⟨?_, ?_, ?_, ?_, ?_, ?_, ?_, ?_, ?_, ?_, ?_, ?_, ?_, ?_, ?_⟩ <;> first | exact Nat.zero_le _ | decide
  · exact ⟨_, rfl, by decide⟩

end Sys2Proof.Tests
end

/-! # Family 01: travel, width and the machine mode

What each operation of the travel unit and of the sequencer does to its block's law. -/

namespace Sys2Proof.Machine

section TravelLaws

variable {s : State}

/-- TravelLaw reads the travel unit alone, so it is a law of the unit that an operation puts in. -/
theorem TravelLaw_withTravel_iff (x : Travel) :
    TravelLaw (s.withTravel x) ↔
      x.distance ≤ 4294967295 ∧ x.remainder < 100 ∧ x.reversePending ≤ 4294967295
        ∧ x.encoderAcc ≤ 4294967295 ∧ x.radarAcc ≤ 4294967295 ∧ x.seconds ≤ 4294967295
        ∧ x.speed ≤ 32767 ∧ x.moving = decide (5 ≤ x.speed)
        ∧ x.plausibleRun < 3 ∧ (x.suspect = false → x.plausibleRun = 0)
        ∧ x.extL ≤ 3000 ∧ x.extR ≤ 3000 ∧ x.width = 3000 + x.extL + x.extR
        ∧ x.widthHeld = (x.heldL || x.heldR) ∧ x.activity = activityMap x.extL x.extR := Iff.rfl

theorem satAdd_le (top a b : Nat) : satAdd top a b ≤ top := Nat.min_le_left _ _

theorem TravelLaw_forward (q : Nat) (h : TravelLaw s) : TravelLaw (s.withTravel (s.travel.forward q)) := by
  obtain ⟨hdist, hrem, hrev, henc, hrest⟩ := h
  refine (TravelLaw_withTravel_iff _).2 ⟨?_, Nat.mod_lt _ (by omega), ?_, satAdd_le _ _ _, hrest⟩
  · simp only [Travel.forward, carriedMm, Config.max32]; omega
  · simp only [Travel.forward]; omega

theorem TravelLaw_reversePulse (q : Nat) (mark : Bool) (h : TravelLaw s) :
    TravelLaw (s.withTravel
      { s.travel with reversePending := satAdd Config.max32 s.travel.reversePending q, reverseMark := mark }) := by
  obtain ⟨hdist, hrem, -, hrest⟩ := h
  exact (TravelLaw_withTravel_iff _).2 ⟨hdist, hrem, satAdd_le _ _ _, hrest⟩

theorem TravelLaw_radarPulse (q : Nat) (h : TravelLaw s) :
    TravelLaw (s.withTravel { s.travel with radarAcc := satAdd Config.max32 s.travel.radarAcc q }) := by
  obtain ⟨hdist, hrem, hrev, henc, -, hrest⟩ := h
  exact (TravelLaw_withTravel_iff _).2 ⟨hdist, hrem, hrev, henc, satAdd_le _ _ _, hrest⟩

theorem TravelLaw_seconds (h : TravelLaw s) :
    TravelLaw (s.withTravel { s.travel with seconds := (s.travel.seconds + 1) % (Config.max32 + 1) }) := by
  obtain ⟨hdist, hrem, hrev, henc, hrad, -, hrest⟩ := h
  exact (TravelLaw_withTravel_iff _).2
    ⟨hdist, hrem, hrev, henc, hrad, Nat.le_of_lt_succ (Nat.mod_lt _ (Nat.succ_pos _)), hrest⟩

theorem TravelLaw_endWindow (h : TravelLaw s) : TravelLaw (s.withTravel s.travel.endWindow) := by
  obtain ⟨hdist, hrem, hrev, henc, hrad, hsec, -, -, hrest⟩ := h
  exact (TravelLaw_withTravel_iff _).2 ⟨hdist, hrem, hrev, henc, hrad, hsec, Nat.min_le_left _ _, rfl, hrest⟩

theorem Travel.judged_run (x : Travel) (o : Plausibility) (hrun : x.plausibleRun < 3)
    (hclear : x.suspect = false → x.plausibleRun = 0) :
    (x.judged o).plausibleRun < 3 ∧ ((x.judged o).suspect = false → (x.judged o).plausibleRun = 0) := by
  cases o with
  | notJudged => exact ⟨hrun, hclear⟩
  | implausible => exact ⟨Nat.zero_lt_succ _, fun _ => rfl⟩
  | plausible =>
    simp only [Travel.judged]
    split
    · split
      · exact ⟨Nat.zero_lt_succ _, fun _ => rfl⟩
      · rename_i hs hlt
        exact ⟨by simp only; omega, fun hc => by simp [hs] at hc⟩
    · exact ⟨hrun, hclear⟩

/-- A judgement touches the flag and the plausible run only. -/
theorem Travel.judged_frame (x : Travel) (o : Plausibility) :
    x.judged o = { x with suspect := (x.judged o).suspect, plausibleRun := (x.judged o).plausibleRun } := by
  unfold Travel.judged; (repeat' split) <;> rfl

/-- The travel unit as a plausibility window leaves it for its judgement: the hundredths kept, the mark clear (R8). -/
def Travel.endPlausibility (x : Travel) : Travel :=
  { x with encoderAcc := x.encoderAcc % 100, radarAcc := x.radarAcc % 100, reverseMark := false }

theorem TravelLaw_judged (o : Plausibility) (h : TravelLaw s) :
    TravelLaw (s.withTravel (s.travel.endPlausibility.judged o)) := by
  obtain ⟨hdist, hrem, hrev, -, -, hsec, hspd, hmov, hrun, hclear, hrest⟩ := h
  obtain ⟨hrun', hclear'⟩ := Travel.judged_run s.travel.endPlausibility o hrun hclear
  rw [Travel.judged_frame]
  have hhundredths (n : Nat) : n % 100 ≤ 4294967295 := by omega
  exact (TravelLaw_withTravel_iff _).2
    ⟨hdist, hrem, hrev, hhundredths _, hhundredths _, hsec, hspd, hmov, hrun', hclear', hrest⟩

theorem TravelLaw_restarted (h : TravelLaw s) : TravelLaw (s.withTravel s.travel.restarted) := by
  obtain ⟨hdist, hrem, hrev, -, -, hsec, -, -, -, -, hrest⟩ := h
  exact (TravelLaw_withTravel_iff _).2
    ⟨hdist, hrem, hrev, Nat.zero_le _, Nat.zero_le _, hsec, Nat.zero_le _, rfl, Nat.zero_lt_succ _, fun _ => rfl, hrest⟩

end TravelLaws

section SequencerLaws

variable {s : State}

theorem mem_joinClass {queue : List (Fin 34)} {cls : SampleClass} {c : Fin 34} :
    c ∈ joinClass queue cls ↔ c ∈ queue ∨ classOf c = cls := by
  simp [joinClass, List.mem_filter]

theorem joinClass_pairwise (queue : List (Fin 34)) (cls : SampleClass) : (joinClass queue cls).Pairwise (· < ·) :=
  (List.pairwise_lt_finRange 34).filter _

/-- A period expiry keeps every channel in its round: those of the class wait again, the others keep their round (R19, R20). -/
theorem SequencerLaw_beginRound (cls : SampleClass) (h : SequencerLaw s) :
    SequencerLaw (s.withSeq
      { s.seq with
        rounds := s.seq.rounds.set cls ((s.seq.rounds.get cls).begin (classBusy s.seq cls))
        queue := joinClass s.seq.queue cls }) := by
  obtain ⟨-, hrounds, hcounts, hserved⟩ := h
  refine ⟨joinClass_pairwise _ _, fun k => ?_, hcounts, fun c => ?_⟩
  · obtain ⟨h1, h2, h3⟩ := hrounds k
    simp only [State.withSeq_seq, PerClass.get_set]
    split
    · subst k
      simp only [RoundState.begin, nextRound]
      refine ⟨by split <;> omega, by split <;> omega, ?_⟩
      split
      · exact satAdd_le _ _ _
      · exact h3
    · exact ⟨h1, h2, h3⟩
  · by_cases hc : classOf c = cls
    · exact .inl (mem_joinClass.2 (.inr hc))
    · refine (hserved c).imp (fun hq => mem_joinClass.2 (.inl hq)) fun hrest => ?_
      simpa only [State.withSeq_seq, PerClass.get_set, if_neg hc] using hrest

/-- The take of a channel: it leaves the queue into the converter, with its class's current round as its tag (R21). -/
theorem SequencerLaw_take {c : Fin 34} {rest : List (Fin 34)} (due : Nat) (hidle : s.seq.converter = .idle)
    (hqueue : s.seq.queue = c :: rest) (h : SequencerLaw s) :
    SequencerLaw (s.withSeq
      { s.seq with
        queue := rest
        converter := .settling c (s.seq.rounds.get (classOf c)).counter due }) := by
  obtain ⟨hsorted, hrounds, hcounts, hserved⟩ := h
  rw [hqueue] at hsorted
  refine ⟨hsorted.of_cons, hrounds, hcounts, fun d => ?_⟩
  by_cases hd : d = c
  · subst hd; exact .inr (.inl ⟨due, .inl rfl⟩)
  · rcases hserved d with hq | ⟨_, hset | hconv⟩ | ⟨-, hround⟩
    · rw [hqueue] at hq
      exact .inl ((List.mem_cons.1 hq).resolve_left hd)
    · rw [hidle] at hset; cases hset
    · rw [hidle] at hconv; cases hconv
    · exact .inr (.inr ⟨fun hheld => hd (Option.some.inj hheld).symm, hround⟩)

/-- A settled channel is converted with the tag it was taken with (R21). -/
theorem SequencerLaw_settled {c : Fin 34} {tag due : Nat} (due' : Nat) (hconv : s.seq.converter = .settling c tag due)
    (h : SequencerLaw s) : SequencerLaw (s.withSeq { s.seq with converter := .converting c tag due' }) := by
  obtain ⟨hsorted, hrounds, hcounts, hserved⟩ := h
  refine ⟨hsorted, hrounds, hcounts, fun d => ?_⟩
  rcases hserved d with hq | ⟨_, hset | hcon⟩ | ⟨hheld, hround⟩
  · exact .inl hq
  · rw [hconv] at hset
    cases hset
    exact .inr (.inl ⟨due', .inr rfl⟩)
  · rw [hconv] at hcon; cases hcon
  · rw [hconv] at hheld
    exact .inr (.inr ⟨hheld, hround⟩)

/-- A recovered converter holds no channel, as it held none before (R22). -/
theorem SequencerLaw_recovered {due : Nat} (hconv : s.seq.converter = .recovering due) (h : SequencerLaw s) :
    SequencerLaw (s.withSeq { s.seq with converter := .idle }) := by
  obtain ⟨hsorted, hrounds, hcounts, hserved⟩ := h
  refine ⟨hsorted, hrounds, hcounts, fun d => ?_⟩
  rcases hserved d with hq | ⟨_, hset | hcon⟩ | ⟨-, hround⟩
  · exact .inl hq
  · rw [hconv] at hset; cases hset
  · rw [hconv] at hcon; cases hcon
  · exact .inr (.inr ⟨nofun, hround⟩)

theorem resultEntry_count (s : State) (c : Fin 34) (tag count : Nat) : (resultEntry s c tag count).count = count := by
  unfold resultEntry; split <;> rfl

theorem resultEntry_round (s : State) (c : Fin 34) (tag count : Nat) : (resultEntry s c tag count).round = tag := by
  unfold resultEntry; split <;> rfl

theorem afterConversion_held (count now : Nat) : (afterConversion count now).held = none := by
  unfold afterConversion; split <;> rfl

theorem writeResult_result (s : State) (c d : Fin 34) (tag count : Nat) :
    (writeResult s c tag count).seq.results[d] = if d = c then resultEntry s c tag count else s.seq.results[d] := by
  simp only [writeResult, State.withSeq_seq, Fin.getElem_fin, Vector.getElem_set, Fin.ext_iff, eq_comm]

/-- A completed conversion: the channel's entry carries the tag, so a channel converted for the current round is served by its
entry (R23). -/
theorem SequencerLaw_writeResult {c : Fin 34} {tag due count : Nat} (hcount : count ≤ 4095)
    (hconv : s.seq.converter = .converting c tag due) (h : SequencerLaw s) :
    SequencerLaw (writeResult s c tag count) := by
  obtain ⟨hsorted, hrounds, hcounts, hserved⟩ := h
  have hfree (d : Fin 34) : (writeResult s c tag count).seq.converter.held ≠ some d := by
    simp [writeResult, afterConversion_held]
  refine ⟨hsorted, hrounds, fun d => ?_, fun d => ?_⟩
  · rw [writeResult_result]
    split
    · rw [resultEntry_count]; exact hcount
    · exact hcounts d
  · rcases hserved d with hq | ⟨_, hset | hcon⟩ | ⟨hheld, hround⟩
    · exact .inl hq
    · rw [hconv] at hset; cases hset
    · rw [hconv] at hcon
      cases hcon
      exact .inr (.inr ⟨hfree _, by rw [writeResult_result, if_pos rfl, resultEntry_round]; rfl⟩)
    · have hd : d ≠ c := fun hdc => hheld (by rw [hconv, hdc]; rfl)
      exact .inr (.inr ⟨hfree _, by rw [writeResult_result, if_neg hd]; exact hround⟩)

end SequencerLaws
end Sys2Proof.Machine

/-! # Family 01: every command keeps the laws of the measuring and driving blocks

The equations of the two windows, what is missing of the laws of levelling and feed, then one lemma for each command that
reaches one of the blocks. -/

namespace Sys2Proof.Machine

section WindowEquations

variable (s : State)

/-- The state a speed window expiry hands to the record unit: the window ended, the next one running (R5). -/
def State.windowEnded : State :=
  ((s.reach s.timers.speed).withTravel s.travel.endWindow).withTimers
    { s.timers with speed := max s.now s.timers.speed + Config.speedWindow }

theorem exec_speedWindowExpiry :
    exec .speedWindowExpiry s = .next (valvesWindow (prefillWindow (recordWindow s.windowEnded))) := rfl

@[simp] theorem windowEnded_frame :
    s.windowEnded.seq = s.seq ∧ s.windowEnded.lev = s.lev ∧ s.windowEnded.feed = s.feed ∧ s.windowEnded.heat = s.heat
      ∧ s.windowEnded.zones = s.zones ∧ s.windowEnded.scan = s.scan ∧ s.windowEnded.record = s.record
      ∧ s.windowEnded.store = s.store ∧ s.windowEnded.settings = s.settings ∧ s.windowEnded.ports = s.ports
      ∧ s.windowEnded.pins = s.pins ∧ s.windowEnded.free = s.free ∧ s.windowEnded.pending = s.pending := by
  simp [State.windowEnded]

@[simp] theorem windowEnded_travel : s.windowEnded.travel = s.travel.endWindow := (rfl)

/-- The judgement of the plausibility window that ends (R8). -/
def State.plausibilityOutcome : Plausibility :=
  judgeWindow s.travel.reverseMark (s.travel.encoderAcc / 100) (s.travel.radarAcc / 100)

/-- The state after a plausibility window's judgement, before the flag is raised and reported (R8, R9). -/
def State.plausibilityJudged : State :=
  ((s.reach s.timers.plausibility).withTravel (s.travel.endPlausibility.judged s.plausibilityOutcome)).withTimers
    { s.timers with plausibility := max s.now s.timers.plausibility + Config.plausibilityWindow }

theorem exec_plausibilityWindowExpiry :
    exec .plausibilityWindowExpiry s = .next
      (if s.plausibilityOutcome = .implausible && !s.travel.suspect then
        reportFlags (fun f => { f with travelSuspect := true }) (raiseAll .travelSuspect s.plausibilityJudged)
      else s.plausibilityJudged) := rfl

@[simp] theorem plausibilityJudged_frame :
    s.plausibilityJudged.seq = s.seq ∧ s.plausibilityJudged.lev = s.lev ∧ s.plausibilityJudged.feed = s.feed
      ∧ s.plausibilityJudged.heat = s.heat ∧ s.plausibilityJudged.zones = s.zones ∧ s.plausibilityJudged.scan = s.scan
      ∧ s.plausibilityJudged.record = s.record ∧ s.plausibilityJudged.store = s.store
      ∧ s.plausibilityJudged.settings = s.settings ∧ s.plausibilityJudged.ports = s.ports
      ∧ s.plausibilityJudged.pins = s.pins ∧ s.plausibilityJudged.free = s.free
      ∧ s.plausibilityJudged.pending = s.pending := by
  simp [State.plausibilityJudged]

@[simp] theorem plausibilityJudged_travel :
    s.plausibilityJudged.travel = s.travel.endPlausibility.judged s.plausibilityOutcome := (rfl)

end WindowEquations

section LevellingLaws

variable {s : State}

/-- A side that may drive its valves more often asks no more of them. -/
theorem SideLawful_mono {u : SideUnit} {t : SideSettings} {l l' : Bool} (hl : l = true → l' = true)
    (h : SideLawful u t l) : SideLawful u t l' := by
  obtain ⟨⟨hone, hraise, hlower, hlost, hauto, hmanual⟩, hrest⟩ := h
  refine ⟨⟨hone, hraise, hlower, hlost, fun ha => ?_, hmanual⟩, hrest⟩
  obtain ⟨hjog, hr, hw⟩ := hauto ha
  exact ⟨hjog, fun hne => ⟨hl (hr hne).1, (hr hne).2⟩, fun hne => ⟨hl (hw hne).1, (hw hne).2⟩⟩

/-- Another travel unit with the same moving flag leaves LevellingLaw as it is. -/
theorem LevellingLaw_withTravel {x : Travel} (hmoving : x.moving = s.travel.moving) :
    LevellingLaw (s.withTravel x) ↔ LevellingLaw s := LevellingLaw_eq rfl rfl rfl hmoving

theorem recordWindow_lev_of_not_moving {u : State} (hmoving : u.travel.moving = false) :
    (recordWindow u).lev = u.lev := by
  simp only [recordWindow, hmoving]; split <;> simp

/-- R6 at the end of a speed window: a paver that moves may drive what it drove, one that does not has its AUTO valves at 0. -/
theorem LevellingLaw_speedWindow (h : LevellingLaw s) :
    LevellingLaw (valvesWindow (prefillWindow (recordWindow s.windowEnded))) := by
  cases hm : s.travel.endWindow.moving with
  | true =>
    have hlevels : levelsNow s = true → levelsNow s.windowEnded = true := by
      simp only [levelsNow, windowEnded_travel, hm, windowEnded_frame, Bool.and_true, Bool.and_eq_true]
      exact And.left
    have hu : LevellingLaw s.windowEnded := LevellingLaw_iff.2 fun sd => SideLawful_mono hlevels (h sd)
    simpa [valvesWindow, hm] using LevellingLaw_recordWindow hu
  | false =>
    refine LevellingLaw_iff.2 fun sd => ?_
    have hlev : (recordWindow s.windowEnded).lev = s.windowEnded.lev := recordWindow_lev_of_not_moving hm
    simpa [valvesWindow, hm, autoValvesZero, hlev] using SideLawful_auto0 (LevellingLaw_iff.1 h sd)

theorem LevellingLaw_goAbsent (p : Port) (h : LevellingLaw s) : LevellingLaw (goAbsent p s) := by
  simp only [goAbsent]; split <;> simp [h]

theorem ReadingLaw_goAbsent (p : Port) (h : ReadingLaw s) : ReadingLaw (goAbsent p s) := by
  simp only [goAbsent]; split <;> simp [h]

theorem LevellingLaw_restartPart (h : LevellingLaw s) : LevellingLaw (restartPart s) :=
  LevellingLaw_restartLevelling (LevellingLaw_iff.1 h) (by simp [restartPart]) (by simp)

end LevellingLaws

section FeedLaws

variable {s : State}

theorem FeedLaw_modifyDrive {d : Drive} {f : DriveUnit → DriveUnit} (h : FeedLaw s)
    (hf : DriveLawful (f (s.feed.get d)) s.settings.mode) : FeedLaw (s.modifyDrive d f) := FeedLaw_set h hf

theorem DriveLawful_endPrefill {u : DriveUnit} {m : Mode} (h : DriveLawful u m) : DriveLawful u.endPrefill m := by
  unfold DriveUnit.endPrefill
  split
  · rename_i hprefill
    split
    · obtain ⟨hcmd, hprev, hgood, -, htravel, hover, hnot, hrun, -, -⟩ := h
      have hmode : m ≠ .travel := fun hm => by simpa [hprefill] using htravel hm
      exact ⟨hcmd, hprev, hgood, by simp, fun hm => absurd hm hmode, hover, hnot, hrun, by simp, by simp⟩
    · exact DriveLawful_off h
  · exact h

theorem DriveLawful_startPrefill {u : DriveUnit} {m : Mode} (due : Nat) (hmode : m ≠ .travel) (h : DriveLawful u m) :
    DriveLawful (u.startPrefill due) m := by
  obtain ⟨hcmd, hprev, hgood, -, -, hover, hnot, hrun, -, -⟩ := h
  exact ⟨hcmd, hprev, hgood, by simp [DriveUnit.startPrefill], fun hm => absurd hm hmode, hover, hnot, hrun,
    by simp [DriveUnit.startPrefill], by simp [DriveUnit.startPrefill]⟩

theorem FeedLaw_clearDrive (p : Port) (d : Drive) (h : FeedLaw s) : FeedLaw (clearDrive p d s) := by
  have hcleared : FeedLaw (s.modifyDrive d DriveUnit.clearFault) := FeedLaw_modifyDrive h (DriveLawful_clear (h.1 d))
  simp only [clearDrive]; (repeat' split) <;> simp [h, hcleared]

end FeedLaws

section MachineLaws

/-- The laws of the measuring and driving blocks, of chapters 1 to 4. -/
def MachineLaws (s : State) : Prop := TravelLaw s ∧ SequencerLaw s ∧ LevellingLaw s ∧ ReadingLaw s ∧ FeedLaw s

theorem Lawful.machineLaws {s : State} (h : Lawful s) : MachineLaws s := by
  obtain ⟨-, -, htravel, hseq, hlev, hread, hfeed, -⟩ := h
  exact ⟨htravel, hseq, hlev, hread, hfeed⟩

theorem Lawful.settingsLaw {s : State} (h : Lawful s) : SettingsLaw s := h.2.1

variable {s t : State}

theorem machineLaws_reset : MachineLaws State.reset := by
  refine ⟨?_, started_ok 0 true State.reset rfl, fun sd => ?_, fun sd => ?_, fun d => ?_, by decide⟩
  · refine ⟨?_, ?_, ?_, ?_, ?_, ?_, ?_, ?_, ?_, ?_, ?_, ?_, ?_, ?_, ?_⟩ <;> decide
  · cases sd <;>
      exact ⟨⟨by decide, by decide, by decide, by decide, by decide, fun _ => ⟨rfl, rfl⟩⟩, by decide, by decide⟩
  · cases sd <;> exact ⟨nofun, by decide, by decide, by decide, by decide⟩
  · cases d <;> decide

theorem machineLaws_forwardPulse (h : MachineLaws s) (hx : exec .forwardPulse s = .next t) : MachineLaws t := by
  obtain ⟨htravel, hseq, hlev, hread, hfeed⟩ := h
  cases hx
  have htravel' := TravelLaw_forward s.settings.travelPulse htravel
  have hlev' := (LevellingLaw_withTravel (x := s.travel.forward s.settings.travelPulse) rfl).2 hlev
  unfold MachineLaws
  split <;> simp [htravel', hseq, hlev', hread, hfeed]

theorem machineLaws_reversePulse (h : MachineLaws s) (hx : exec .reversePulse s = .next t) : MachineLaws t := by
  obtain ⟨htravel, hseq, hlev, hread, hfeed⟩ := h
  cases hx
  exact ⟨TravelLaw_reversePulse _ _ htravel, hseq, (LevellingLaw_withTravel rfl).2 hlev, hread, hfeed⟩

theorem machineLaws_radarPulse (h : MachineLaws s) (hx : exec .radarPulse s = .next t) : MachineLaws t := by
  obtain ⟨htravel, hseq, hlev, hread, hfeed⟩ := h
  cases hx
  exact ⟨TravelLaw_radarPulse _ htravel, hseq, (LevellingLaw_withTravel rfl).2 hlev, hread, hfeed⟩

theorem machineLaws_secondsCountTick (h : MachineLaws s) (hx : exec .secondsCountTick s = .next t) : MachineLaws t := by
  obtain ⟨htravel, hseq, hlev, hread, hfeed⟩ := h
  cases hx
  exact ⟨TravelLaw_seconds htravel, hseq, (LevellingLaw_withTravel rfl).2 hlev, hread, hfeed⟩

theorem machineLaws_speedWindowExpiry (h : MachineLaws s) (hx : exec .speedWindowExpiry s = .next t) : MachineLaws t := by
  obtain ⟨htravel, hseq, hlev, hread, hfeed⟩ := h
  rw [exec_speedWindowExpiry] at hx
  cases hx
  have htravel' : TravelLaw s.windowEnded := TravelLaw_endWindow htravel
  have hread' : ReadingLaw s.windowEnded := hread
  have hfeed' : FeedLaw s.windowEnded := hfeed
  have hseq' : SequencerLaw s.windowEnded := hseq
  exact ⟨by simpa, by simpa, LevellingLaw_speedWindow hlev, by simp [hread'], by simp [hfeed']⟩

theorem machineLaws_plausibilityWindowExpiry (h : MachineLaws s) (hx : exec .plausibilityWindowExpiry s = .next t) :
    MachineLaws t := by
  obtain ⟨htravel, hseq, hlev, hread, hfeed⟩ := h
  have hmoving : s.plausibilityJudged.travel.moving = s.travel.moving := by
    rw [plausibilityJudged_travel, Travel.judged_frame]; rfl
  have hlev' : LevellingLaw s.plausibilityJudged :=
    (LevellingLaw_eq (s := s) (u := s.plausibilityJudged) rfl rfl rfl hmoving).2 hlev
  have hjudged : MachineLaws s.plausibilityJudged := ⟨TravelLaw_judged _ htravel, hseq, hlev', hread, hfeed⟩
  rw [exec_plausibilityWindowExpiry] at hx
  cases hx
  split
  · simpa [MachineLaws] using hjudged
  · exact hjudged

theorem machineLaws_classPeriodExpiry {cls : SampleClass} (h : MachineLaws s)
    (hx : exec (.classPeriodExpiry cls) s = .next t) : MachineLaws t := by
  obtain ⟨htravel, hseq, hlev, hread, hfeed⟩ := h
  cases hx
  exact ⟨htravel, SequencerLaw_beginRound cls hseq, hlev, hread, hfeed⟩

theorem machineLaws_converterTake (h : MachineLaws s) (hx : exec .converterTake s = .next t) : MachineLaws t := by
  simp only [exec, execConverterTake, Host.Outcome.next.injEq] at hx
  subst hx
  split
  case h_1 hidle hqueue =>
    obtain ⟨htravel, hseq, hlev, hread, hfeed⟩ := h
    exact ⟨htravel, SequencerLaw_take _ hidle hqueue hseq, hlev, hread, hfeed⟩
  all_goals exact h

theorem machineLaws_settleEnd (h : MachineLaws s) (hx : exec .settleEnd s = .next t) : MachineLaws t := by
  simp only [exec, execSettleEnd, Host.Outcome.next.injEq] at hx
  subst hx
  split
  case h_1 hconv =>
    obtain ⟨htravel, hseq, hlev, hread, hfeed⟩ := h
    exact ⟨htravel, SequencerLaw_settled _ hconv hseq, hlev, hread, hfeed⟩
  all_goals exact h

theorem machineLaws_overloadRecoveryEnd (h : MachineLaws s) (hx : exec .overloadRecoveryEnd s = .next t) :
    MachineLaws t := by
  simp only [exec, execOverloadRecoveryEnd, Host.Outcome.next.injEq] at hx
  subst hx
  split
  case h_1 hconv =>
    obtain ⟨htravel, hseq, hlev, hread, hfeed⟩ := h
    exact ⟨htravel, SequencerLaw_recovered hconv hseq, hlev, hread, hfeed⟩
  all_goals exact h

theorem machineLaws_roundCompletion (cls : SampleClass) (hs : SettingsLaw s) (h : MachineLaws s) :
    MachineLaws (roundCompletion cls s) := by
  obtain ⟨htravel, hseq, hlev, hread, hfeed⟩ := h
  simp [MachineLaws, hs, htravel, hseq, hlev, hread, hfeed]

theorem machineLaws_conversionCompletion {count : BitVec 12} {pins : Pins} (hs : SettingsLaw s) (h : MachineLaws s)
    (hx : exec (.conversionCompletion count pins) s = .next t) : MachineLaws t := by
  simp only [exec, execConversionCompletion, Host.Outcome.next.injEq] at hx
  subst hx
  split
  case h_1 c tag due hconv =>
    obtain ⟨htravel, hseq, hlev, hread, hfeed⟩ := h
    have hcount : count.toNat ≤ 4095 := Nat.le_of_lt_succ count.isLt
    have hseq' : SequencerLaw (writeResult ((s.reach due).withPins pins) c tag count.toNat) :=
      SequencerLaw_writeResult hcount hconv hseq
    have hwritten : MachineLaws (writeResult ((s.reach due).withPins pins) c tag count.toNat) :=
      ⟨htravel, hseq', hlev, hread, hfeed⟩
    split
    · exact machineLaws_roundCompletion _ hs hwritten
    · exact hwritten
  all_goals exact h

theorem machineLaws_sampleTimerExpiry (h : MachineLaws s) (hx : exec .sampleTimerExpiry s = .next t) : MachineLaws t := by
  simp only [exec, execSampleTimerExpiry, Host.Outcome.next.injEq] at hx
  subst hx
  split
  · exact h
  · rename_i due _
    obtain ⟨htravel, hseq, hlev, hread, hfeed⟩ := h
    have hlev' : LevellingLaw (autoValvesZero (s.reach due)) := by simp [hlev]
    have hread' : ReadingLaw (autoValvesZero (s.reach due)) := by simp [hread]
    exact ⟨htravel, hseq, LevellingLaw_map hlev' fun _ hu => hu, ReadingLaw_map hread' fun _ hu => hu, hfeed⟩

theorem machineLaws_jogTimerExpiry {sd : Side} (h : MachineLaws s) (hx : exec (.jogTimerExpiry sd) s = .next t) :
    MachineLaws t := by
  simp only [exec, execJogTimerExpiry, Host.Outcome.next.injEq] at hx
  subst hx
  split
  · exact h
  · rename_i j hj
    obtain ⟨htravel, hseq, hlev, hread, hfeed⟩ := h
    have hlev' : LevellingLaw (s.reach j.due) := hlev
    have hread' : ReadingLaw (s.reach j.due) := hread
    exact ⟨htravel, hseq, LevellingLaw_mod hlev' fun hu => SideLawful_endJog' hu (Option.isSome_of_eq_some hj),
      ReadingLaw_mod hread' SideReadingLawful_endJog, hfeed⟩

theorem machineLaws_prefillTimerExpiry {d : Drive} (h : MachineLaws s) (hx : exec (.prefillTimerExpiry d) s = .next t) :
    MachineLaws t := by
  simp only [exec, execPrefillTimerExpiry, Host.Outcome.next.injEq] at hx
  subst hx
  split
  · obtain ⟨htravel, hseq, hlev, hread, hfeed⟩ := h
    have hfeed' : FeedLaw (s.reachOpt (s.feed.get d).prefillDue) := by simpa using hfeed
    have hdrive := DriveLawful_endPrefill (FeedLaw_iff.1 hfeed' |>.1 d)
    simp [MachineLaws, htravel, hseq, hlev, hread, FeedLaw_modifyDrive hfeed' hdrive]
  · exact h

theorem machineLaws_takeRequest (p : Port) (h : MachineLaws s) : MachineLaws (takeRequest p s) := by
  simpa [MachineLaws] using h

theorem machineLaws_answerCode (p : Port) (c : AnswerCode) (h : MachineLaws s) : MachineLaws (answerCode p c s) := by
  simpa [MachineLaws] using h

theorem machineLaws_startPrefill {d : Drive} (due : Nat) (hallowed : prefillAllowed s d = true) (h : MachineLaws s) :
    MachineLaws (s.modifyDrive d fun u => u.startPrefill due) := by
  obtain ⟨htravel, hseq, hlev, hread, hfeed⟩ := h
  have hmode : s.settings.mode ≠ .travel := by
    simp only [prefillAllowed, Bool.and_eq_true, bne_iff_ne] at hallowed
    exact hallowed.1.1
  have hdrive := DriveLawful_startPrefill due hmode (FeedLaw_iff.1 hfeed |>.1 d)
  exact ⟨htravel, hseq, hlev, hread, FeedLaw_modifyDrive hfeed hdrive⟩

theorem machineLaws_prefill {p : Port} {item : Byte} (h : MachineLaws s) (hx : exec (.prefill p item) s = .next t) :
    MachineLaws t := by
  simp only [exec, execPrefill, Host.Outcome.next.injEq] at hx
  subst hx
  have htaken := machineLaws_takeRequest p h
  split
  · exact machineLaws_answerCode _ _ htaken
  · split
    · split
      · exact machineLaws_answerCode _ _ (machineLaws_startPrefill _ ‹_› htaken)
      · exact machineLaws_answerCode _ _ htaken
    · exact machineLaws_answerCode _ _ htaken

theorem machineLaws_clearFault {p : Port} {item : Byte} {pins : Pins} (h : MachineLaws s)
    (hx : exec (.clearFault p item pins) s = .next t) : MachineLaws t := by
  simp only [exec, execClearFault, Host.Outcome.next.injEq] at hx
  subst hx
  have htaken : MachineLaws ((takeRequest p s).withPins pins) := machineLaws_takeRequest p h
  split
  · obtain ⟨htravel, hseq, hlev, hread, hfeed⟩ := htaken
    simpa [MachineLaws, htravel, hseq, hlev, hread] using FeedLaw_clearDrive p _ hfeed
  · split
    · simpa [MachineLaws] using htaken
    · exact machineLaws_answerCode _ _ htaken

theorem machineLaws_restart {p : Port} (h : MachineLaws s) (hx : exec (.restart p) s = .next t) : MachineLaws t := by
  obtain ⟨htravel, hseq, hlev, hread, hfeed⟩ := h
  simp only [exec, execRestart, Host.Outcome.next.injEq] at hx
  subst hx
  have hlev' : LevellingLaw (restartPart (takeRequest p s)) := LevellingLaw_restartPart (by simpa using hlev)
  have htravel' : TravelLaw (restartPart (takeRequest p s)) :=
    (TravelLaw_congr (by simp [restartPart])).2 (TravelLaw_restarted htravel)
  have hseq' : SequencerLaw (restartPart (takeRequest p s)) := started_ok _ _ _ (by simp [restartPart]; rfl)
  split <;> simp [MachineLaws, htravel, htravel', hseq, hseq', hlev, hlev', hread, hfeed]

theorem machineLaws_applyEntry {p : Port} {e : PostEntry} (hs : SettingsLaw s) (hv : e.valid)
    (hpass : applicationPasses s.settings e = true) (h : MachineLaws s) : MachineLaws (applyEntry p e s) := by
  obtain ⟨htravel, hseq, hlev, hread, hfeed⟩ := h
  have hlev' := LevellingLaw_storeSetting hs hlev hv hpass
  have hread' : ReadingLaw (storeSetting e.item e.value s) := ReadingLaw_storeSetting hread
  simp [MachineLaws, applyEntry, htravel, hseq, hlev', hread', hfeed]

theorem machineLaws_application {p : Port} (hs : SettingsLaw s) (h : MachineLaws s)
    (hx : exec (.application p) s = .next t) : MachineLaws t := by
  cases hq : (s.ports.get p).queue with
  | nil =>
    simp only [exec, execApplication, hq, Host.Outcome.next.injEq] at hx
    exact hx ▸ h
  | cons e rest =>
    rw [application_eq hq] at hx
    cases hx
    have hv : e.valid := (SettingsLaw_iff.1 hs).2 p e (by simp [hq])
    obtain ⟨htravel, hseq, hlev, hread, hfeed⟩ := h
    have hs' : SettingsLaw (s.reach (max e.due (s.ports.get p).applyAfter)) := by simpa using hs
    split
    · exact machineLaws_applyEntry (SettingsLaw_pop hs' (by simpa using hq)) hv (by simpa)
        (by simp [MachineLaws, htravel, hseq, hlev, hread, hfeed])
    · simp [MachineLaws, htravel, hseq, hlev, hread, hfeed]

theorem machineLaws_presenceTimeout {p : Port} (h : MachineLaws s) (hx : exec (.presenceTimeout p) s = .next t) :
    MachineLaws t := by
  simp only [exec, execPresenceTimeout, Host.Outcome.next.injEq] at hx
  subst hx
  split
  · obtain ⟨htravel, hseq, hlev, hread, hfeed⟩ := h
    have hlev' : LevellingLaw (s.reachOpt (s.ports.get p).presenceDue) := by simpa using hlev
    have hread' : ReadingLaw (s.reachOpt (s.ports.get p).presenceDue) := by simpa using hread
    simp [MachineLaws, htravel, hseq, LevellingLaw_goAbsent p hlev', ReadingLaw_goAbsent p hread', hfeed]
  · exact h

/-- A side request keeps the laws when the act it names does: a request turned away is answered only (R42). -/
theorem machineLaws_sideRequest {p : Port} {item : Byte} {act : Side → State → State} (h : MachineLaws s)
    (hact : ∀ sd, MachineLaws (takeRequest p s) → MachineLaws (act sd (takeRequest p s))) :
    MachineLaws (sideRequest p item act s) := by
  have htaken := machineLaws_takeRequest p h
  simp only [sideRequest]
  split
  · exact machineLaws_answerCode _ _ htaken
  · split
    · exact hact _ htaken
    · exact machineLaws_answerCode _ _ htaken

theorem machineLaws_engage {p : Port} {item : Byte} (h : MachineLaws s) (hx : exec (.engage p item) s = .next t) :
    MachineLaws t := by
  cases hx
  refine machineLaws_sideRequest h fun sd ⟨htravel, hseq, hlev, hread, hfeed⟩ => ?_
  exact ⟨by simpa, by simpa, LevellingLaw_engageSide hlev, ReadingLaw_engageSide hread, by simpa⟩

theorem machineLaws_disengage {p : Port} {item : Byte} (h : MachineLaws s) (hx : exec (.disengage p item) s = .next t) :
    MachineLaws t := by
  cases hx
  refine machineLaws_sideRequest h fun sd ⟨htravel, hseq, hlev, hread, hfeed⟩ => ?_
  exact ⟨by simpa, by simpa, LevellingLaw_disengageSide hlev, ReadingLaw_disengageSide hread, by simpa⟩

theorem machineLaws_setZero {p : Port} {item : Byte} (h : MachineLaws s) (hx : exec (.setZero p item) s = .next t) :
    MachineLaws t := by
  cases hx
  refine machineLaws_sideRequest h fun sd ⟨htravel, hseq, hlev, hread, hfeed⟩ => ?_
  exact ⟨by simpa, by simpa, LevellingLaw_setZeroSide hlev, ReadingLaw_setZeroSide hread, FeedLaw_setZeroSide hfeed⟩

theorem machineLaws_jog {p : Port} {item direction : Byte} {duty : Word} (hs : SettingsLaw s) (h : MachineLaws s)
    (hx : exec (.jog p item direction duty) s = .next t) : MachineLaws t := by
  simp only [exec, execJog, Host.Outcome.next.injEq] at hx
  subst hx
  split
  · exact machineLaws_answerCode _ _ (machineLaws_takeRequest p h)
  · refine machineLaws_sideRequest h fun sd ⟨htravel, hseq, hlev, hread, hfeed⟩ => ?_
    have hs' : SettingsLaw (takeRequest p s) := by simpa using hs
    exact ⟨by simpa, by simpa, LevellingLaw_jogSide hs' hlev, ReadingLaw_jogSide hread, by simpa⟩

/-- The commands that reach a measuring or driving block, by an operation that changes what one of its laws reads. -/
def reachesMachine : Instr → Bool
  | .powerOn | .forwardPulse | .reversePulse | .radarPulse | .secondsCountTick | .speedWindowExpiry
  | .plausibilityWindowExpiry | .classPeriodExpiry _ | .converterTake | .settleEnd | .conversionCompletion _ _
  | .overloadRecoveryEnd | .sampleTimerExpiry | .jogTimerExpiry _ | .prefillTimerExpiry _ | .engage _ _ | .disengage _ _
  | .setZero _ _ | .jog _ _ _ _ | .prefill _ _ | .clearFault _ _ _ | .restart _ | .application _
  | .presenceTimeout _ => true
  | .scannerLine _ _ | .scannerSilenceExpiry | .sliceStart | .heatingWaitEnd | .readback _ | .trip _ | .read _ _ _
  | .write _ _ _ | .page _ _ | .takeAlerts _ | .alertDone _ | .fetch _ | .release _ _ | .rewind _ | .portReset _
  | .badFrame _ _ | .copyCompletion | .heldAnswerExpiry | .scannerRunStart => false

/-- The commands of the heating, the scanner, the store and the ports: every operation they are made of leaves the machine's
laws as they are. -/
theorem machineLaws_elsewhere {c : Instr} (hc : reachesMachine c = false) (h : MachineLaws s) (hx : exec c s = .next t) :
    MachineLaws t := by
  obtain ⟨htravel, hseq, hlev, hread, hfeed⟩ := h
  cases c with
  | scannerLine | scannerSilenceExpiry | sliceStart | heatingWaitEnd | readback | trip | read | write | page | takeAlerts
  | alertDone | fetch | release | rewind | portReset | badFrame | copyCompletion | heldAnswerExpiry | scannerRunStart =>
    simp only [exec, execScannerLine, execScannerSilenceExpiry, execSliceStart, execHeatingWaitEnd, execReadback, execTrip,
      execRead, execWrite, execPage, execTakeAlerts, execAlertDone, execFetch, execRelease, execRewind, execPortReset,
      execBadFrame, execCopyCompletion, execHeldAnswerExpiry, execScannerRunStart, Host.Outcome.next.injEq] at hx
    subst hx
    unfold MachineLaws
    (repeat' split) <;> simp [htravel, hseq, hlev, hread, hfeed]
  | _ => cases hc

/-- Every command keeps the laws of the measuring and driving blocks. -/
theorem machineLaws_exec (c : Instr) (hs : SettingsLaw s) (h : MachineLaws s) (hx : exec c s = .next t) :
    MachineLaws t := by
  cases c with
  | powerOn => cases hx; exact machineLaws_reset
  | forwardPulse => exact machineLaws_forwardPulse h hx
  | reversePulse => exact machineLaws_reversePulse h hx
  | radarPulse => exact machineLaws_radarPulse h hx
  | secondsCountTick => exact machineLaws_secondsCountTick h hx
  | speedWindowExpiry => exact machineLaws_speedWindowExpiry h hx
  | plausibilityWindowExpiry => exact machineLaws_plausibilityWindowExpiry h hx
  | classPeriodExpiry => exact machineLaws_classPeriodExpiry h hx
  | converterTake => exact machineLaws_converterTake h hx
  | settleEnd => exact machineLaws_settleEnd h hx
  | conversionCompletion => exact machineLaws_conversionCompletion hs h hx
  | overloadRecoveryEnd => exact machineLaws_overloadRecoveryEnd h hx
  | sampleTimerExpiry => exact machineLaws_sampleTimerExpiry h hx
  | jogTimerExpiry => exact machineLaws_jogTimerExpiry h hx
  | prefillTimerExpiry => exact machineLaws_prefillTimerExpiry h hx
  | engage => exact machineLaws_engage h hx
  | disengage => exact machineLaws_disengage h hx
  | setZero => exact machineLaws_setZero h hx
  | jog => exact machineLaws_jog hs h hx
  | prefill => exact machineLaws_prefill h hx
  | clearFault => exact machineLaws_clearFault h hx
  | restart => exact machineLaws_restart h hx
  | application => exact machineLaws_application hs h hx
  | presenceTimeout => exact machineLaws_presenceTimeout h hx
  | _ => exact machineLaws_elsewhere rfl h hx

/-- A law that every command gives on a lawful state is given by every step on one: the laws look neither at the queue nor at
the free values, and time alone changes none. -/
theorem step_gives_of_lawful {law : State → Prop} (time : ∀ s n, Lawful s → law (s.withNow n))
    (command : ∀ c s t, Lawful s → exec c s = .next t → law t) (hs : Lawful s) (h : step s = .next t) : law t := by
  have hqueue (q : List Instr) : Lawful (s.withPending q) := hs
  have hfree (n : Nat) : Lawful (s.withFree n) := hs
  rcases step_cases h with ⟨c, rest, -, hc⟩ | ⟨c, -, -, hc⟩ | ⟨-, -, rfl⟩
  · exact command c _ _ (hqueue rest) hc
  · exact command c _ _ (hfree _) hc
  · exact time s _ hs

/-- Settles O57, command by command: each block's law is kept by the block's own operations, and no other operation touches what
it reads. -/
theorem machineLawsKept : Obligations.MachineLawsKept := fun _ _ =>
  step_gives_of_lawful (law := MachineLaws) (fun _ _ hs => hs.machineLaws)
    fun c _ _ hs hx => machineLaws_exec c hs.settingsLaw hs.machineLaws hx

end MachineLaws
end Sys2Proof.Machine

/-! # Family 01: the pulses and the seconds count -/

namespace Sys2Proof.Machine

section Frames

variable {s t u : State} {parts : List Part}

/-- A frame is shown part by part: each is listed or stands as it stood. -/
theorem changesOnly_of (h : ∀ part, part ∈ parts ∨ part.kept s t) : changesOnly parts s t :=
  fun part hpart => (h part).resolve_left hpart

theorem changesOnly_withTravel (x : Travel) : changesOnly [.travel] s (s.withTravel x) :=
  changesOnly_of fun part => by cases part <;> simp [Part.kept]

end Frames

section Pulses

variable (s : State)

theorem pulseLeft_eq (q pending : Nat) : pulseLeft q pending = if q ≤ pending then 0 else q - pending := by
  unfold pulseLeft; split <;> omega

theorem reversePending_paid (q pending : Nat) : pending - q = if q ≤ pending then pending - q else 0 := by
  split <;> omega

/-- The hundredths from which a forward pulse of worth `q` carries: the remainder and what paying off leaves over (R2). -/
def Travel.hundredths (q : Nat) (x : Travel) : Nat := x.remainder + pulseLeft q x.reversePending

/-- Below the top of the distance count everything is carried (R2). -/
theorem carriedMm_of_le {q : Nat} {x : Travel} (h : x.distance + x.hundredths q / 100 ≤ 4294967295) :
    carriedMm q x = x.hundredths q / 100 := by
  simp only [carriedMm, Config.max32, Travel.hundredths] at *; omega

/-- The distance count saturates (R2). -/
theorem distance_carried {q : Nat} {x : Travel} (h : x.distance ≤ 4294967295) :
    x.distance + carriedMm q x = min 4294967295 (x.distance + x.hundredths q / 100) := by
  simp only [carriedMm, Config.max32, Travel.hundredths]; omega

theorem carriedMm_eq_zero {q : Nat} {x : Travel} (h : x.hundredths q < 100) : carriedMm q x = 0 := by
  simp only [carriedMm, Config.max32, Travel.hundredths] at *; omega

theorem satAdd_of_le {top a b : Nat} (h : a + b ≤ top) : satAdd top a b = a + b := Nat.min_eq_right h

theorem closeByStep_none (h : s.record.current = none) : closeByStep s = s := by simp [closeByStep, h]

/-- A forward pulse: the travel unit by the pulse alone, the rest by the close at a carry, which needs a carry and an open
record (R2, R123). -/
theorem forwardPulse_outcome :
    ∃ t, exec .forwardPulse s = .next t ∧ t.travel = s.travel.forward s.settings.travelPulse
      ∧ changesOnly [.travel, .lev, .zones, .scan, .record, .store, .ports] s t
      ∧ (carriedMm s.settings.travelPulse s.travel = 0 ∨ s.record.current = none → changesOnly [.travel] s t) := by
  refine ⟨_, rfl, ?_, ?_, fun hquiet => ?_⟩
  · split <;> simp
  · split <;> exact changesOnly_of fun part => by cases part <;> simp [Part.kept]
  · split
    · have hnone : (s.withTravel (s.travel.forward s.settings.travelPulse)).record.current = none :=
        hquiet.resolve_left (by omega)
      rw [closeByStep_none _ hnone]
      exact changesOnly_withTravel _
    · exact changesOnly_withTravel _

/-- An application of the travel mm-per-pulse stores it, and no count of the travel unit changes (R2). -/
theorem travelPulse_applied {p : Port} {e : PostEntry} {rest : List PostEntry} (hq : (s.ports.get p).queue = e :: rest)
    (hitem : e.item = .travelPulse) :
    ∃ t, exec (.application p) s = .next t ∧ t.settings.travelPulse = e.value.toNat ∧ t.travel = s.travel := by
  refine ⟨_, application_eq hq, ?_, ?_⟩
  · simp [applicationPasses, hitem, applyEntry, storeSetting, settingApplied, Settings.write]
  · split <;> simp

theorem secondsCountTick_outcome :
    ∃ t, exec .secondsCountTick s = .next t
      ∧ t.travel = { s.travel with seconds := (s.travel.seconds + 1) % 4294967296 }
      ∧ (s.now ≤ s.timers.second → t.timers.second = s.timers.second + 100000)
      ∧ t.timers = { s.timers with second := t.timers.second }
      ∧ changesOnly [.travel, .timers, .now] s t := by
  refine ⟨_, rfl, rfl, fun hnow => ?_, rfl, changesOnly_of fun part => by cases part <;> simp [Part.kept]⟩
  exact congrArg (· + 100000) (Nat.max_eq_right hnow)

/-- Settles O1: each pulse and the tick by the equation of its command, the saturations by the arithmetic of the carry. -/
theorem sensorPulses : Obligations.SensorPulses := by
  refine ⟨fun s hdistance => ?_, ⟨fun s => ?_, fun s p e rest => travelPulse_applied s⟩, fun s => ⟨?_, ?_, ?_⟩,
    secondsCountTick_outcome⟩
  · intro q p total
    have htotal : s.travel.hundredths q = total := by simp only [Travel.hundredths, pulseLeft_eq]; rfl
    obtain ⟨t, ht, htravel, hframe, hquiet⟩ := forwardPulse_outcome s
    refine ⟨t, ht, ?_⟩
    rw [htravel, ← htotal]
    exact ⟨reversePending_paid q p, rfl, distance_carried hdistance,
      fun hle => congrArg (s.travel.windowMm + ·) (carriedMm_of_le hle), satAdd_of_le, rfl, hframe,
      fun h => hquiet (h.imp_left carriedMm_eq_zero)⟩
  · exact ⟨_, rfl, rfl, changesOnly_withTravel _⟩
  · exact ⟨_, rfl, rfl, changesOnly_withTravel _⟩
  · obtain ⟨t, ht, htravel, -, -⟩ := forwardPulse_outcome s
    exact ⟨t, ht, by rw [htravel]; rfl, fun hle => by rw [htravel]; exact satAdd_of_le hle⟩
  · exact ⟨_, rfl, rfl, rfl⟩

end Pulses
end Sys2Proof.Machine

/-! # Family 01: the plausibility window and the speed window -/

namespace Sys2Proof.Machine

section Plausibility

theorem judgeWindow_marked (de dr : Nat) : judgeWindow true de dr = .notJudged := rfl

theorem judgeWindow_unmarked (de dr : Nat) :
    judgeWindow false de dr =
      if max de dr < 50 then .notJudged
      else if 15 * max de dr < ((de : Int) - dr).natAbs * 100 then .implausible else .plausible := by
  simp [judgeWindow]

theorem judgeWindow_notJudged_iff (mark : Bool) (de dr : Nat) :
    judgeWindow mark de dr = .notJudged ↔ mark = true ∨ max de dr < 50 := by
  cases mark
  · rw [judgeWindow_unmarked]; split_ifs with hshort <;> simp [hshort]
  · simp [judgeWindow_marked]

theorem judgeWindow_implausible_iff (mark : Bool) (de dr : Nat) :
    judgeWindow mark de dr = .implausible ↔
      mark = false ∧ 50 ≤ max de dr ∧ 15 * max de dr < ((de : Int) - dr).natAbs * 100 := by
  cases mark
  · rw [judgeWindow_unmarked, ← Nat.not_lt]; split_ifs <;> simp [*]
  · simp [judgeWindow_marked]

theorem judgeWindow_plausible_iff (mark : Bool) (de dr : Nat) :
    judgeWindow mark de dr = .plausible ↔
      mark = false ∧ 50 ≤ max de dr ∧ ((de : Int) - dr).natAbs * 100 ≤ 15 * max de dr := by
  cases mark
  · rw [judgeWindow_unmarked, ← Nat.not_lt, ← Nat.not_lt]; split_ifs <;> simp [*]
  · simp [judgeWindow_marked]

variable (s : State)

/-- What a plausibility window leaves: travel and timers as judged, and TRAVEL_SUSPECT raised and reported when the judgement
newly sets it (R8, R9). -/
theorem plausibility_outcome :
    ∃ t, exec .plausibilityWindowExpiry s = .next t
      ∧ t.travel = s.travel.endPlausibility.judged s.plausibilityOutcome
      ∧ t.timers = { s.timers with plausibility := t.now + 100000 }
      ∧ changesOnly [.travel, .timers, .now, .ports, .record] s t
      ∧ (s.plausibilityOutcome = .implausible → s.travel.suspect = false →
          raisedOnly s t (fun _ => True) .travelSuspect
            ∧ ∀ r, s.record.current = some r →
                t.record =
                  { s.record with current := some { r with flags := { r.flags with travelSuspect := true } } })
      ∧ (s.record.current = none → t.record = s.record)
      ∧ (¬(s.plausibilityOutcome = .implausible ∧ s.travel.suspect = false) →
          t.ports = s.ports ∧ t.record = s.record) := by
  refine ⟨_, exec_plausibilityWindowExpiry s, ?_⟩
  by_cases hnew : s.plausibilityOutcome = .implausible ∧ s.travel.suspect = false
  · obtain ⟨himp, hclear⟩ := hnew
    have hif : (decide (s.plausibilityOutcome = .implausible) && !s.travel.suspect) = true := by simp [himp, hclear]
    rw [if_pos hif]
    refine ⟨by simp, by simp; rfl, changesOnly_of fun part => ?_, fun _ _ => ⟨fun q => ⟨fun _ => ?_, by simp⟩, ?_⟩, ?_,
      fun hno => absurd ⟨himp, hclear⟩ hno⟩
    · cases part <;> simp [Part.kept]
    · simp [raiseAll_get]
    · intro r hr
      simp [reportFlags, report_record, hr]
    · intro hnone
      simp [reportFlags, report_record, hnone]
  · have hif : (decide (s.plausibilityOutcome = .implausible) && !s.travel.suspect) ≠ true := by
      simpa using hnew
    rw [if_neg hif]
    refine ⟨rfl, rfl, changesOnly_of fun part => ?_, fun himp hclear => absurd ⟨himp, hclear⟩ hnew, fun _ => rfl,
      fun _ => ⟨rfl, rfl⟩⟩
    cases part <;> simp [Part.kept]

/-- Settles O3: the three outcomes of the judgement from the window's two distances, and what each does to the flag and its
run. -/
theorem plausibility : Obligations.Plausibility := by
  refine ⟨⟨fun mark de dr => ⟨judgeWindow_notJudged_iff mark de dr, judgeWindow_implausible_iff mark de dr,
    judgeWindow_plausible_iff mark de dr⟩, fun s => ?_⟩, fun s => ?_⟩
  · obtain ⟨t, ht, htravel, htimers, hframe, -⟩ := plausibility_outcome s
    refine ⟨t, ht, ?_⟩
    rw [htravel, Travel.judged_frame]
    exact ⟨rfl, rfl, rfl, htimers, rfl, hframe⟩
  · intro outcome
    obtain ⟨t, ht, htravel, -, -, hraised, hnone, hquiet⟩ := plausibility_outcome s
    have houtcome : s.plausibilityOutcome = outcome := rfl
    rw [houtcome] at htravel hraised hquiet
    refine ⟨t, ht, ?_⟩
    rw [htravel]
    refine ⟨fun ho => ?_, fun ho => ?_, fun ho hclear => ?_, fun ho hset hrun => ?_, fun ho hset hrun => ?_, hraised, hnone,
      hquiet⟩
    · rw [ho]; exact ⟨rfl, rfl⟩
    · rw [ho]; exact ⟨rfl, rfl⟩
    · simp [Travel.judged, Travel.endPlausibility, ho, hclear]
    · have hlt : ¬3 ≤ s.travel.plausibleRun + 1 := by omega
      simp [Travel.judged, Travel.endPlausibility, ho, hset, hlt]
    · have hle : 3 ≤ s.travel.plausibleRun + 1 := by omega
      simp [Travel.judged, Travel.endPlausibility, ho, hset, hle]

end Plausibility

section Window

variable (s : State)

theorem endWindow_speed : s.travel.endWindow.speed = min 32767 (s.travel.windowMm * 4) := by
  simp only [Travel.endWindow, windowSpeed]; omega

theorem endWindow_moving : s.travel.endWindow.moving = true ↔ 5 ≤ s.travel.endWindow.speed := by
  simp [Travel.endWindow]

/-- The moving flag in whole mm: 8 mm/s is the least speed that reaches 5 (R5). -/
theorem endWindow_moving_mm : s.travel.endWindow.moving = true ↔ 2 ≤ s.travel.windowMm := by
  rw [endWindow_moving, endWindow_speed]; omega

theorem endWindow_moving_eq : s.travel.endWindow.moving = decide (2 ≤ s.travel.windowMm) :=
  Bool.eq_iff_iff.2 (by rw [endWindow_moving_mm, decide_eq_true_iff])

/-- The state a speed window expiry ends in. -/
def State.afterWindow : State := valvesWindow (prefillWindow (recordWindow s.windowEnded))

theorem afterWindow_travel : s.afterWindow.travel = s.travel.endWindow := by simp [State.afterWindow]

theorem afterWindow_timers : s.afterWindow.timers = { s.timers with speed := s.afterWindow.now + 25000 } := by
  simp [State.afterWindow]; rfl

theorem afterWindow_frame :
    changesOnly [.travel, .timers, .now, .lev, .feed, .scan, .record] s s.afterWindow :=
  changesOnly_of fun part => by cases part <;> simp [Part.kept, State.afterWindow]

theorem afterWindow_record :
    s.afterWindow.record = (recordWindow s.windowEnded).record ∧ s.afterWindow.scan = (recordWindow s.windowEnded).scan := by
  simp [State.afterWindow]

/-- At the end of a window a record may open, which clears the step maxima; a side's state and valves stay (R120). -/
theorem recordWindow_valves (u : State) (sd : Side) :
    ((recordWindow u).lev.get sd).state = (u.lev.get sd).state ∧ ((recordWindow u).lev.get sd).raise = (u.lev.get sd).raise
      ∧ ((recordWindow u).lev.get sd).lower = (u.lev.get sd).lower := by
  simp only [recordWindow]
  split
  · exact ⟨rfl, rfl, rfl⟩
  · split
    · simp [openRecord]
    · exact ⟨rfl, rfl, rfl⟩

theorem afterWindow_of_moving (h : 2 ≤ s.travel.windowMm) :
    s.afterWindow = (recordWindow s.windowEnded).withFeed (s.feed.map fun _ d => d.endPrefill) := by
  have hmoving := (endWindow_moving_mm s).2 h
  simp [State.afterWindow, valvesWindow, prefillWindow, hmoving]

theorem afterWindow_of_not_moving (h : s.travel.windowMm < 2) :
    s.afterWindow = autoValvesZero (recordWindow s.windowEnded) := by
  have hmoving : s.travel.endWindow.moving = false := by rw [endWindow_moving_eq]; simpa using h
  simp [State.afterWindow, valvesWindow, prefillWindow, hmoving]

theorem endPrefill_eq (d : DriveUnit) :
    d.endPrefill =
      if d.state = .prefill then
        if d.returnAuto then { d with state := .auto, prefillDue := none }
        else { d with state := .off, command := 0, previous := d.command, openLoop := false, prefillDue := none }
      else d := rfl

theorem afterWindow_feed (d : Drive) :
    s.afterWindow.feed.get d =
      if 2 ≤ s.travel.windowMm ∧ (s.feed.get d).state = .prefill then (s.feed.get d).endPrefill else s.feed.get d := by
  by_cases h : 2 ≤ s.travel.windowMm
  · rw [afterWindow_of_moving s h, State.withFeed_feed, PerDrive.get_map]
    split
    · rfl
    · rw [endPrefill_eq, if_neg (by simp_all)]
  · rw [afterWindow_of_not_moving s (by omega), if_neg (fun hc => h hc.1)]
    simp

theorem afterWindow_side_of_not_moving (sd : Side) (h : s.travel.windowMm < 2) :
    s.afterWindow.lev.get sd =
      if (s.lev.get sd).state = .auto then { s.lev.get sd with raise := 0, lower := 0 } else s.lev.get sd := by
  have hmoving : s.windowEnded.travel.moving = false := by
    rw [windowEnded_travel, endWindow_moving_eq]; simpa using h
  rw [afterWindow_of_not_moving s h, autoValvesZero, State.withLev_lev, PerSide.get_map,
    recordWindow_lev_of_not_moving hmoving]
  rfl

theorem afterWindow_valves (sd : Side) :
    (s.afterWindow.lev.get sd).state = (s.lev.get sd).state
      ∧ (2 ≤ s.travel.windowMm →
          (s.afterWindow.lev.get sd).raise = (s.lev.get sd).raise
            ∧ (s.afterWindow.lev.get sd).lower = (s.lev.get sd).lower) := by
  obtain ⟨hstate, hraise, hlower⟩ := recordWindow_valves s.windowEnded sd
  by_cases h : 2 ≤ s.travel.windowMm
  · rw [afterWindow_of_moving s h]
    exact ⟨hstate, fun _ => ⟨hraise, hlower⟩⟩
  · refine ⟨?_, fun hc => absurd hc h⟩
    rw [afterWindow_side_of_not_moving s sd (by omega)]
    split <;> rfl

/-- An open record takes the window that ends (R122). -/
theorem afterWindow_record_open {r : OpenRecord} (h : s.record.current = some r) :
    s.afterWindow.scan = s.scan
      ∧ s.afterWindow.record =
          { s.record with current := some (r.window s.travel.endWindow.speed s.travel.endWindow.moving) } := by
  obtain ⟨hrecord, hscan⟩ := afterWindow_record s
  rw [hrecord, hscan]
  simp [recordWindow, h]

/-- With no record open the window that ends opens one exactly when the paver moves in PAVE (R120). -/
theorem recordWindow_none (h : s.record.current = none) :
    recordWindow s.windowEnded =
      if 2 ≤ s.travel.windowMm ∧ s.settings.mode = .pave then openRecord s.windowEnded else s.windowEnded := by
  simp [recordWindow, h, endWindow_moving_eq]

/-- Settles O2: the window by the travel unit's equation, each neighbour by what it does with a paver that moves or stands. -/
theorem speedWindow : Obligations.SpeedWindow := by
  refine ⟨fun s => ⟨s.afterWindow, exec_speedWindowExpiry s, ?_⟩,
    fun s => ⟨s.afterWindow, exec_speedWindowExpiry s, fun d => ?_, fun sd => ?_, fun r hr => ?_,
    fun hnone => ⟨fun hopen => ?_, fun hclosed => ?_⟩⟩⟩
  · rw [afterWindow_travel]
    exact ⟨endWindow_speed s, endWindow_moving s, endWindow_moving_mm s, rfl, afterWindow_timers s, afterWindow_frame s⟩
  · rw [afterWindow_feed]
    split
    · rename_i hprefill
      rw [endPrefill_eq, if_pos hprefill.2]
    · rfl
  · obtain ⟨hstate, hvalves⟩ := afterWindow_valves s sd
    exact ⟨hstate, hvalves, afterWindow_side_of_not_moving s sd⟩
  · obtain ⟨hscan, hrecord⟩ := afterWindow_record_open s hr
    refine ⟨hscan, ?_⟩
    rw [hrecord, afterWindow_travel]
    simp [OpenRecord.window, endWindow_moving_eq, satAdd]
  · have hafter := afterWindow_of_moving s hopen.1
    rw [recordWindow_none s hnone, if_pos hopen] at hafter
    refine ⟨⟨newRecord s.windowEnded, ?_, rfl, rfl⟩, s.windowEnded, ?_, ?_, ?_,
      changesOnly_of fun part => ?_, changesOnly_of fun part => ?_⟩
    · rw [hafter]; rfl
    · rw [hafter]; rfl
    · rw [hafter]; rfl
    · rw [hafter]; rfl
    · cases part <;> simp [Part.kept]
    · rw [hafter]; cases part <;> simp [Part.kept]
  · obtain ⟨hrecord, hscan⟩ := afterWindow_record s
    rw [hrecord, hscan, recordWindow_none s hnone, if_neg hclosed]
    simp

end Window
end Sys2Proof.Machine

/-! # Family 01: the width update and the geometry of the mat -/

namespace Sys2Proof.Machine

section Width

variable (s : State)

theorem extensionOf_eq (e : ResultEntry) (held : Nat) :
    extensionOf e held = if e.quality = .good then (min 3000 (max 0 e.value)).toNat else held := by
  have hclamp : clampInt 0 3000 e.value = min 3000 (max 0 e.value) := by unfold clampInt; split_ifs <;> omega
  rw [extensionOf, hclamp]

/-- The travel unit after the width update: HELD or not, the report to the record leaves it (R10). -/
theorem widthUpdate_travel :
    (widthUpdate s).travel = s.travel.updateWidth s.seq.results[(9 : Fin 34)] s.seq.results[(10 : Fin 34)] := by
  simp only [widthUpdate]; split <;> simp

theorem widthUpdate_record_none (h : s.record.current = none) : (widthUpdate s).record = s.record := by
  simp only [widthUpdate]; split <;> simp [reportFlags, report_record, h]

/-- The open record gathers HELD: its flag is set by a held width and kept otherwise (R121). -/
theorem widthUpdate_record_some {r : OpenRecord} (h : s.record.current = some r) :
    (widthUpdate s).record =
      { s.record with
        current :=
          some { r with flags := { r.flags with widthHeld := r.flags.widthHeld || (widthUpdate s).travel.widthHeld } } } := by
  rw [widthUpdate_travel]
  simp only [widthUpdate, State.withTravel_travel]
  split
  · rename_i hheld
    rw [hheld]
    simp [reportFlags, report_record, h]
  · rename_i hheld
    rw [Bool.not_eq_true] at hheld
    rw [hheld]
    simp [← h]

end Width

section Geometry

variable {L R : Nat} {x : Int}

/-- The exposure of an extension zone as R11 writes it. -/
theorem exposure_eq (ext j : Nat) : ((exposure ext (j + 1) : Nat) : Int) = max 0 (min 750 ((ext : Int) - (j : Int) * 750)) := by
  unfold exposure; omega

theorem activityMap_bit (z : Fin 12) :
    (activityMap L R).getLsbD z.val =
      if z.val < 4 then true
      else if z.val < 8 then decide (375 ≤ exposure L (z.val - 3)) else decide (375 ≤ exposure R (z.val - 7)) := by
  rw [activityMap, setOf_bit']

theorem zoneBand_main (z : Fin 12) (hz : z.val < 4) :
    zoneBand L R z = (-1500 + 750 * (z.val : Int), -1500 + 750 * (z.val : Int) + 750) ∧
      (activityMap L R).getLsbD z.val = true :=
  ⟨main_band L R ⟨z.val, hz⟩, by rw [activityMap_bit, if_pos hz]⟩

/-- The extension zones of both sides, the j-th after the first: band and activity by their exposure (R11). -/
theorem zoneBand_extension (j : Nat) (hj : j < 4) :
    let eL : Int := max 0 (min 750 ((L : Int) - (j : Int) * 750))
    let eR : Int := max 0 (min 750 ((R : Int) - (j : Int) * 750))
    zoneBand L R ⟨4 + j, by omega⟩ = (-1500 - (L : Int) + (j : Int) * 750, -1500 - (L : Int) + (j : Int) * 750 + eL)
      ∧ zoneBand L R ⟨8 + j, by omega⟩ = (1500 + (R : Int) - (j : Int) * 750 - eR, 1500 + (R : Int) - (j : Int) * 750)
      ∧ ((activityMap L R).getLsbD (4 + j) = true ↔ 375 ≤ eL)
      ∧ ((activityMap L R).getLsbD (8 + j) = true ↔ 375 ≤ eR) := by
  intro eL eR
  have hL : ((exposure L (j + 1) : Nat) : Int) = eL := exposure_eq L j
  have hR : ((exposure R (j + 1) : Nat) : Int) = eR := exposure_eq R j
  refine ⟨?_, ?_, ?_, ?_⟩
  · rw [left_band L R ⟨j, hj⟩, ← hL, Int.mul_comm 750]
  · rw [right_band L R ⟨j, hj⟩, ← hR, Int.mul_comm 750]
  · have hbit := activityMap_bit (L := L) (R := R) ⟨4 + j, by omega⟩
    simp only [show ¬4 + j < 4 by omega, show 4 + j < 8 by omega, show 4 + j - 3 = j + 1 by omega, if_true, if_false] at hbit
    rw [hbit, decide_eq_true_iff]; omega
  · have hbit := activityMap_bit (L := L) (R := R) ⟨8 + j, by omega⟩
    simp only [show ¬8 + j < 4 by omega, show ¬8 + j < 8 by omega, show 8 + j - 7 = j + 1 by omega, if_false] at hbit
    rw [hbit, decide_eq_true_iff]; omega

/-- No two bands share an x, so the zone found for an x is the one whose band holds it (R12). -/
theorem zoneAt_eq_some_iff (hL : L ≤ 3000) (hR : R ≤ 3000) (z : Fin 12) : zoneAt L R x = some z ↔ inBand L R x z := by
  have hfound (w : Fin 12) (hw : zoneAt L R x = some w) : inBand L R x w := by
    unfold zoneAt at hw
    simpa [inBand] using List.find?_some hw
  constructor
  · exact hfound z
  · intro hz
    cases hat : zoneAt L R x with
    | none =>
      unfold zoneAt at hat
      exact absurd hz (by simpa [inBand] using List.find?_eq_none.1 hat z (List.mem_finRange z))
    | some w => rw [inBand_unique hL hR hz (hfound w hat)]

/-- Settles O5: bands and activity zone by zone, the cover of the mat by `inBand_exists` and `inBand_unique`, the columns by the
law of the travel unit. -/
theorem matGeometry : Obligations.MatGeometry := by
  refine ⟨fun L R hL hR => ⟨fun z hz => zoneBand_main z hz, fun k hk1 hk4 => ?_, fun x => ⟨fun hx => ?_, fun hx z hz => ?_,
    fun z => zoneAt_eq_some_iff hL hR z⟩⟩, fun s hlaw => ?_⟩
  · obtain ⟨j, rfl⟩ : ∃ j, k = j + 1 := ⟨k - 1, by omega⟩
    have hzone := zoneBand_extension (L := L) (R := R) j (by omega)
    simp only [Nat.cast_add, Nat.cast_one, add_sub_cancel_right, show 3 + (j + 1) = 4 + j by omega,
      show 7 + (j + 1) = 8 + j by omega]
    exact hzone
  · obtain ⟨z, hz⟩ := (inBand_exists hL hR).2 hx
    exact ⟨z, fun w => ⟨fun hw => inBand_unique hL hR hz hw, fun hw => hw ▸ hz⟩⟩
  · exact hx ((inBand_exists hL hR).1 ⟨z, hz⟩)
  · obtain ⟨-, -, -, -, -, -, -, -, -, -, hL, hR, hwidth, -, -⟩ := hlaw
    refine ⟨rfl, ?_, ?_, rfl, ?_, ?_, fun c hc => ?_⟩
    · simp only [columnCount]; omega
    · simp only [columnCount]; omega
    · simp only [columnCount]; omega
    · simp only [columnCount]; omega
    · simp only [columnCount] at hc
      obtain ⟨z, hz⟩ := (inBand_exists (x := matLeft s.travel + 250 * (c : Int) + 125) hL hR).2
        (by simp only [matLeft]; omega)
      exact ⟨z, (zoneAt_eq_some_iff hL hR z).2 hz⟩

end Geometry
end Sys2Proof.Machine

/-! The model's own operation is named `widthUpdate`; the theorem that settles the statement stands beside it. -/
namespace Sys2Proof.Proofs

open Sys2Proof.Machine

/-- Settles O4, by the equation of the travel unit's update and of the report. -/
theorem widthUpdate : Obligations.WidthUpdate := by
  intro s left right t
  have ht : t = s.travel.updateWidth left right := widthUpdate_travel s
  refine ⟨?_, ?_, ?_, ?_, ?_, ?_, ?_, ?_, widthUpdate_record_none s, fun r => widthUpdate_record_some s,
    changesOnly_of fun part => by cases part <;> simp [Part.kept]⟩
  · rw [ht, ← extensionOf_eq]; rfl
  · rw [ht, ← extensionOf_eq]; rfl
  · simp [ht, Travel.updateWidth]
  · simp [ht, Travel.updateWidth]
  · simp [ht, Travel.updateWidth]
  · rw [ht]; rfl
  · rw [ht]; rfl
  · rw [ht]; rfl

end Sys2Proof.Proofs

/-! # Family 01: the applications of the machine mode -/

namespace Sys2Proof.Machine

section AppliedMode

variable {s u v : State} {p q : Port} {e : PostEntry} {rest : List PostEntry}

/-- The end of an application that passed: SETTING_CHANGED on the three other ports, the entry kept as the port's last applied
one (R153). -/
def State.appliedAt (v : State) (p : Port) (e : PostEntry) : State :=
  (raiseOthers p .settingChanged v).modifyPort p fun t => { t with lastApplied := some e.item, lastClamped := e.clamped }

@[simp] theorem appliedAt_frame (v : State) (p : Port) (e : PostEntry) :
    (v.appliedAt p e).travel = v.travel ∧ (v.appliedAt p e).seq = v.seq ∧ (v.appliedAt p e).lev = v.lev
      ∧ (v.appliedAt p e).feed = v.feed ∧ (v.appliedAt p e).heat = v.heat ∧ (v.appliedAt p e).zones = v.zones
      ∧ (v.appliedAt p e).scan = v.scan ∧ (v.appliedAt p e).record = v.record ∧ (v.appliedAt p e).store = v.store
      ∧ (v.appliedAt p e).settings = v.settings ∧ (v.appliedAt p e).timers = v.timers ∧ (v.appliedAt p e).pins = v.pins
      ∧ (v.appliedAt p e).now = v.now ∧ (v.appliedAt p e).free = v.free ∧ (v.appliedAt p e).pending = v.pending := by
  simp [State.appliedAt]

theorem appliedAt_ports (v : State) (p q : Port) (e : PostEntry) :
    (v.appliedAt p e).ports.get q =
      if q = p then { v.ports.get p with lastApplied := some e.item, lastClamped := e.clamped }
      else portRaised (v.settings.masks.get q) .settingChanged (v.ports.get q) := by
  by_cases hqp : q = p
  · subst hqp; simp [State.appliedAt, State.modifyPort, raiseOthers_get]
  · simp [State.appliedAt, State.modifyPort, raiseOthers_get, hqp]

/-- An application of the machine mode in two steps: a state `u` that holds the new mode and has the entry out of the queue, then
what the mode does at once (R153, R155). -/
theorem mode_application {m : Mode} (hq : (s.ports.get p).queue = e :: rest) (hitem : e.item = .machineMode)
    (hvalue : e.value = BitVec.ofNat 16 m.code) :
    ∃ u : State, u.settings = { s.settings with mode := m } ∧ changesOnly [.settings, .ports, .now] s u
      ∧ (∀ q, u.ports.get q =
          if q = p then { s.ports.get p with queue := rest, applyAfter := u.now + 200 } else s.ports.get q)
      ∧ exec (.application p) s = .next ((modeApplied s.settings.mode u).appliedAt p e) := by
  obtain ⟨u, hsettings, hframe, hports, hexec⟩ := app_mode hq hitem hvalue
  exact ⟨u, hsettings, hframe, fun q => by rw [hports, PerPort.get_set], hexec⟩

/-- A frame carried over a second step that touches listed parts only. -/
theorem changesOnly_trans {parts more : List Part} {s u t : State} (hu : changesOnly parts s u)
    (ht : ∀ part, part ∈ more ∨ (part ∉ parts ∧ (part.kept s u → part.kept s t))) : changesOnly more s t :=
  fun part hpart => by
    obtain ⟨hnot, hstep⟩ := (ht part).resolve_left hpart
    exact hstep (hu part hnot)

/-- What the first step of an application leaves, part by part. -/
theorem mode_stored_frame (h : changesOnly [.settings, .ports, .now] s u) :
    u.lev = s.lev ∧ u.feed = s.feed ∧ u.heat = s.heat ∧ u.timers = s.timers ∧ u.zones = s.zones ∧ u.record = s.record
      ∧ u.store = s.store :=
  ⟨h .lev (by simp), h .feed (by simp), h .heat (by simp), h .timers (by simp), h .zones (by simp), h .record (by simp),
    h .store (by simp)⟩

/-! ### Between STANDBY and PAVE -/

/-- The mode that is held, and PAVE after STANDBY, are stored and nothing more (R13, R16). -/
theorem modeApplied_quiet {old m : Mode} (hmode : u.settings.mode = m) (hquiet : old = m ∨ (old = .standby ∧ m = .pave)) :
    modeApplied old u = u := by
  rcases hquiet with hheld | ⟨rfl, rfl⟩
  · simp [modeApplied, hmode, hheld]
  · simp [modeApplied, modeChanged, hmode]

theorem mode_applied_quiet {m : Mode} (hq : (s.ports.get p).queue = e :: rest) (hitem : e.item = .machineMode)
    (hvalue : e.value = BitVec.ofNat 16 m.code) (hquiet : s.settings.mode = m ∨ (s.settings.mode = .standby ∧ m = .pave)) :
    ∃ t, exec (.application p) s = .next t
      ∧ t.settings = { s.settings with mode := m }
      ∧ (∀ q, t.ports.get q =
          if q = p then
            { s.ports.get p with
              queue := rest, applyAfter := t.now + 200, lastApplied := some .machineMode, lastClamped := e.clamped }
          else portRaised (s.settings.masks.get q) .settingChanged (s.ports.get q))
      ∧ changesOnly [.settings, .ports, .now] s t := by
  obtain ⟨u, hsettings, hframe, hports, hexec⟩ := mode_application hq hitem hvalue
  rw [modeApplied_quiet (by rw [hsettings]) hquiet] at hexec
  refine ⟨_, hexec, by simpa using hsettings, fun q => ?_, changesOnly_trans hframe fun part => ?_⟩
  · rw [appliedAt_ports, hsettings]
    split
    · rw [hports, if_pos rfl, hitem]; simp
    · rw [hports, if_neg ‹_›]
  · cases part <;> simp [Part.kept]

/-- The summary a close leaves is the header of the record it stores: the record's number, and the marks of the close (R127). -/
theorem closeRecord_summary {r : OpenRecord} (a b : Bool) (h : s.record.current = some r) :
    (closeRecord a b s).record.current = none
      ∧ ∃ hd, (closeRecord a b s).record.summary = some hd ∧ hd.sequence = r.sequence ∧ hd.partialClose = a
        ∧ hd.restartClose = b ∧ hd.leftState = s.lev.left.state ∧ hd.rightState = s.lev.right.state := by
  rw [closeRecord_record]
  simp only [h, true_and]
  exact ⟨_, rfl, rfl, rfl, rfl, rfl, rfl⟩

theorem modeApplied_leavePave (hmode : u.settings.mode = .standby) : modeApplied .pave u = leavePave u := by
  simp [modeApplied, modeChanged, hmode]

theorem leavePave_side (sd : Side) :
    (leavePave u).lev.get sd =
      if (u.lev.get sd).state = .auto then { u.lev.get sd with raise := 0, lower := 0 } else u.lev.get sd := by
  simp only [leavePave, autoValvesZero, State.withLev_lev, PerSide.get_map, closeRecord_frame]; rfl

/-! ### From TRAVEL -/

theorem modeApplied_fromTravel {m : Mode} (hm : m ≠ .travel) (hmode : u.settings.mode = m) :
    modeApplied .travel u = startHeating u := by
  cases m with
  | travel => exact absurd rfl hm
  | standby | pave => simp [modeApplied, modeChanged, hmode]

theorem startHeating_cycle :
    (startHeating u).heat.running = true ∧ (startHeating u).heat.slice = 0
      ∧ (startHeating u).heat.cycle = (u.heat.cycle + 1) % 65536 ∧ (startHeating u).heat.tripped = false := by
  simp [startHeating, cycleBoundary, startSlice, State.mapZones, formBudget, HeatUnit.nextCycle]

theorem evaluateZone_ne_off (z : ZoneUnit) (demand : Nat) : (evaluateZone z demand).1 ≠ .off := by
  unfold evaluateZone; split <;> (try split_ifs) <;> simp

/-- A cycle start gives every zone a state other than OFF (R98, R101). -/
theorem startHeating_zone_ne_off (k : Fin 12) : (startHeating u).zones[k].state ≠ .off := by
  obtain ⟨granted, hzone⟩ := startHeating_zone u k
  rw [hzone]
  unfold ZoneUnit.startSlice
  split <;> exact evaluateZone_ne_off _ _

theorem startHeating_open : (startHeating u).record.current.isSome = u.record.current.isSome := by
  obtain ⟨lost, -, hrecord⟩ := cycleStart_lost false
    ((u.withHeat { u.heat with running := true }).withHeat (HeatUnit.nextCycle { u.heat with running := true }))
  have hstart : (startHeating u).record = (cycleStart false
      ((u.withHeat { u.heat with running := true }).withHeat (HeatUnit.nextCycle { u.heat with running := true }))).record := by
    simp [startHeating, cycleBoundary]
  rw [hstart, hrecord]
  cases hcurrent : u.record.current <;> simp [hcurrent]

/-! ### To TRAVEL -/

/-- The state at a change to TRAVEL before the close of the record: sides dropped, drives off, the heating stopped (R14). -/
def State.stoppedForTravel (u : State) : State :=
  let t := dropSideAndJog .right (dropSideAndJog .left u)
  stopHeating (t.withFeed (t.feed.map fun _ d => d.toTravel))

@[simp] theorem stoppedForTravel_frame (u : State) :
    u.stoppedForTravel.travel = u.travel ∧ u.stoppedForTravel.seq = u.seq ∧ u.stoppedForTravel.scan = u.scan
      ∧ u.stoppedForTravel.record = u.record ∧ u.stoppedForTravel.store = u.store
      ∧ u.stoppedForTravel.settings = u.settings ∧ u.stoppedForTravel.pins = u.pins ∧ u.stoppedForTravel.now = u.now
      ∧ u.stoppedForTravel.free = u.free ∧ u.stoppedForTravel.pending = u.pending := by
  simp [State.stoppedForTravel]

/-- A side at a change to TRAVEL or at a RESTART: dropped from AUTO and LOST, its jog pulse ended in MANUAL (R14). -/
theorem dropBoth_side (sd : Side) :
    (dropSideAndJog .right (dropSideAndJog .left u)).lev.get sd =
      if (u.lev.get sd).engaged then (u.lev.get sd).toManual else (u.lev.get sd).endJog := by
  simp only [dropSideAndJog_lev]
  cases sd <;> simp

theorem engaged_iff (x : SideUnit) : x.engaged = true ↔ x.state ≠ .manual := by simp [SideUnit.engaged]

theorem dropBoth_ports (q : Port) :
    (dropSideAndJog .right (dropSideAndJog .left u)).ports.get q =
      let mask := u.settings.masks.get q
      let p0 := u.ports.get q
      let p1 := if (u.lev.get .left).state ≠ .manual then portRaised mask .sideLDropped p0 else p0
      if (u.lev.get .right).state ≠ .manual then portRaised mask .sideRDropped p1 else p1 := by
  have hright : (dropSideAndJog .left u).lev.get .right = u.lev.get .right := by
    simp [dropSideAndJog_lev]
  rw [drop_ports, drop_ports, hright]
  simp only [engaged_iff, dropSideAndJog_frame]
  rfl

theorem stoppedForTravel_side (sd : Side) :
    u.stoppedForTravel.lev.get sd =
      if (u.lev.get sd).engaged then (u.lev.get sd).toManual else (u.lev.get sd).endJog := by
  rw [← dropBoth_side]; simp [State.stoppedForTravel]

theorem stoppedForTravel_ports (q : Port) :
    u.stoppedForTravel.ports.get q =
      let mask := u.settings.masks.get q
      let p0 := u.ports.get q
      let p1 := if (u.lev.get .left).state ≠ .manual then portRaised mask .sideLDropped p0 else p0
      if (u.lev.get .right).state ≠ .manual then portRaised mask .sideRDropped p1 else p1 := by
  rw [← dropBoth_ports]; simp [State.stoppedForTravel]

theorem stoppedForTravel_drive (d : Drive) : u.stoppedForTravel.feed.get d = (u.feed.get d).toTravel := by
  simp [State.stoppedForTravel]

theorem stoppedForTravel_heat :
    u.stoppedForTravel.heat = { u.heat with running := false, grants := 0#12, grantedPower := 0 } := by
  simp [State.stoppedForTravel, stopHeating, cutGrants, outputsOff, State.mapZones]

theorem stoppedForTravel_timers :
    u.stoppedForTravel.timers = { u.timers with slice := none, readback := none, heatingWait := none } := by
  simp [State.stoppedForTravel, stopHeating, State.mapZones]

theorem stoppedForTravel_zone (k : Fin 12) :
    u.stoppedForTravel.zones[k] =
      { u.zones[k] with state := .off, output := false, openCount := 0, weldCount := 0 } := by
  simp [State.stoppedForTravel, stopHeating, cutGrants, outputsOff, State.mapZones, ZoneUnit.toOff]

theorem toManual_of_not_manual {x : SideUnit} (h : x.state ≠ .manual) :
    (if x.engaged then x.toManual else x.endJog) = { x with state := .manual, raise := 0, lower := 0, goodRun := 0 } := by
  rw [if_pos ((engaged_iff x).2 h)]; rfl

theorem endJog_of_manual {x : SideUnit} (h : x.state = .manual) :
    (if x.engaged then x.toManual else x.endJog) =
      if x.jog = none then x else { x with raise := 0, lower := 0, jog := none } := by
  rw [if_neg (by simp [engaged_iff, h])]
  cases hjog : x.jog <;> simp [SideUnit.endJog, SideUnit.valvesZero, hjog]

theorem dropped_state_manual (x : SideUnit) : (if x.engaged then x.toManual else x.endJog).state = .manual := by
  by_cases h : x.state = .manual
  · rw [endJog_of_manual h]; split <;> exact h
  · rw [toManual_of_not_manual h]

/-- A drive at a change to TRAVEL (R14, R67): OFF, the command held as the previous one unless it was OFF before. -/
theorem toTravel_facts (x : DriveUnit) :
    x.toTravel.state = .off
      ∧ (x.state = .off → x.toTravel = x)
      ∧ (x.state ≠ .off →
          x.toTravel.command = 0 ∧ x.toTravel.openLoop = false ∧ x.toTravel.prefillDue = none
            ∧ x.toTravel.previous = x.command)
      ∧ x.toTravel.cause = x.cause ∧ x.toTravel.returnAuto = x.returnAuto
      ∧ x.toTravel.lastGoodCurrent = x.lastGoodCurrent
      ∧ (x.state = .fault →
          x.toTravel.overcurrentCount = 0 ∧ x.toTravel.notRunningCount = 0 ∧ x.toTravel.runawayCount = 0) := by
  cases h : x.state <;> simp [DriveUnit.toTravel, DriveUnit.clearFault, DriveUnit.enterOff, h]

/-! ### Pending kinds -/

/-- A raise keeps every kind that is pending. -/
theorem pending_portRaised {i : Nat} (mask : AlertSet) (k : AlertKind) {x : PortState}
    (h : x.pendingSet.getLsbD i = true) : (portRaised mask k x).pendingSet.getLsbD i = true := by
  simp [portRaised, h]

theorem pending_portRaised_self (mask : AlertSet) (k : AlertKind) (x : PortState) :
    (portRaised mask k x).pendingSet.getLsbD k.bit = true := by
  have hbit : (alertBit k).getLsbD k.bit = true := by cases k <;> rfl
  simp [portRaised, hbit]

theorem pending_raiseAll {i : Nat} (k : AlertKind) (h : (v.ports.get q).pendingSet.getLsbD i = true) :
    ((raiseAll k v).ports.get q).pendingSet.getLsbD i = true := by
  rw [raiseAll_get]; exact pending_portRaised _ _ h

theorem pending_raiseAllIf {i : Nat} (c : Bool) (k : AlertKind) (h : (v.ports.get q).pendingSet.getLsbD i = true) :
    ((raiseAllIf c k v).ports.get q).pendingSet.getLsbD i = true := by
  unfold raiseAllIf
  split
  · exact pending_raiseAll k h
  · exact h

theorem pending_closeRecord {i : Nat} (a b : Bool) (h : (v.ports.get q).pendingSet.getLsbD i = true) :
    ((closeRecord a b v).ports.get q).pendingSet.getLsbD i = true := by
  cases hr : v.record.current with
  | none => rw [closeRecord_none hr]; exact h
  | some r =>
    have hstored (hd : Header) (pause : Nat) (columns : List Word) :
        ((storeRecord hd pause columns v).1.ports.get q).pendingSet.getLsbD i = true :=
      pending_raiseAllIf _ _ (pending_raiseAllIf _ _ h)
    rw [closeRecord_some hr]
    simp only [State.withRecord_ports]
    split
    · exact pending_raiseAll _ (hstored _ _ _)
    · exact pending_raiseAll _ (hstored _ _ _)

theorem pending_appliedAt {i : Nat} (p : Port) (e : PostEntry) (h : (v.ports.get q).pendingSet.getLsbD i = true) :
    ((v.appliedAt p e).ports.get q).pendingSet.getLsbD i = true := by
  rw [appliedAt_ports]
  split
  · rename_i hqp; subst hqp; exact h
  · exact pending_portRaised _ _ h

/-- A dropped side is pending on every port when the sides are dropped. -/
theorem pending_stoppedForTravel (sd : Side) (q : Port) (h : (u.lev.get sd).state ≠ .manual) :
    (u.stoppedForTravel.ports.get q).pendingSet.getLsbD (droppedKind sd).bit = true := by
  rw [stoppedForTravel_ports]
  cases sd with
  | left =>
    simp only [if_pos h]
    split
    · exact pending_portRaised _ _ (pending_portRaised_self _ _ _)
    · exact pending_portRaised_self _ _ _
  | right =>
    simp only [if_pos h]
    exact pending_portRaised_self _ _ _

/-! ### To TRAVEL, with the close of the record -/

/-- The state a change to TRAVEL ends in: an open record of PAVE closed PARTIAL last (R14, log entry 23). -/
def State.changedToTravel (old : Mode) (u : State) : State :=
  if old = .pave then closeRecord true false u.stoppedForTravel else u.stoppedForTravel

theorem modeApplied_toTravel {old : Mode} (hold : old ≠ .travel) (hmode : u.settings.mode = .travel) :
    modeApplied old u = u.changedToTravel old := by
  simp [modeApplied, modeChanged, hmode, hold.symm]; rfl

@[simp] theorem changedToTravel_frame (old : Mode) (u : State) :
    (u.changedToTravel old).travel = u.travel ∧ (u.changedToTravel old).seq = u.seq
      ∧ (u.changedToTravel old).lev = u.stoppedForTravel.lev ∧ (u.changedToTravel old).feed = u.stoppedForTravel.feed
      ∧ (u.changedToTravel old).heat = u.stoppedForTravel.heat ∧ (u.changedToTravel old).scan = u.scan
      ∧ (u.changedToTravel old).settings = u.settings ∧ (u.changedToTravel old).timers = u.stoppedForTravel.timers
      ∧ (u.changedToTravel old).pins = u.pins ∧ (u.changedToTravel old).now = u.now
      ∧ (u.changedToTravel old).free = u.free ∧ (u.changedToTravel old).pending = u.pending := by
  simp only [State.changedToTravel]; split <;> simp

/-- The close may boost a zone and changes nothing else of it (R129). -/
theorem changedToTravel_zone (old : Mode) (k : Fin 12) :
    (u.changedToTravel old).zones[k] =
      { u.zones[k] with
        state := .off, output := false, openCount := 0, weldCount := 0, boost := (u.changedToTravel old).zones[k].boost } := by
  unfold State.changedToTravel
  split
  · rw [closeRecord_zone, stoppedForTravel_zone]
  · rw [stoppedForTravel_zone]

theorem changedToTravel_of_no_close {old : Mode} (h : old ≠ .pave ∨ u.record.current = none) :
    u.changedToTravel old = u.stoppedForTravel := by
  unfold State.changedToTravel
  split
  · rename_i hpave
    exact closeRecord_none (by simpa using h.resolve_left (fun hne => hne hpave))
  · rfl

theorem pending_changedToTravel (old : Mode) (sd : Side) (q : Port) (h : (u.lev.get sd).state ≠ .manual) :
    ((u.changedToTravel old).ports.get q).pendingSet.getLsbD (droppedKind sd).bit = true := by
  unfold State.changedToTravel
  split
  · exact pending_closeRecord _ _ (pending_stoppedForTravel sd q h)
  · exact pending_stoppedForTravel sd q h

/-- Settles O6: each change of the mode as `mode_application` cuts it, the new mode stored first, then what it does at once. -/
theorem machineModes : Obligations.MachineModes := by
  refine ⟨fun s p e rest hq hitem hvalue hold => ?_, fun s p e rest hq hitem hvalue hold => ?_,
    fun s p e rest hq hitem hvalue hold => ?_, fun s p e rest m => mode_applied_quiet⟩
  · -- To TRAVEL: everything but the record is as `stoppedForTravel` leaves it.
    obtain ⟨u, hsettings, hframe, hports, hexec⟩ := mode_application (m := .travel) hq hitem hvalue
    rw [modeApplied_toTravel hold (by rw [hsettings])] at hexec
    obtain ⟨hlev, hfeed, hheat, htimers, hzones, hrecord, hstore⟩ := mode_stored_frame hframe
    refine ⟨_, hexec, by simpa using hsettings, fun sd => ?_, fun sd hsd => ⟨?_, fun q => ?_⟩, fun sd hsd => ?_, fun d => ?_,
      ?_, ?_, fun k => ⟨?_, fun hno => ?_⟩, ⟨u.stoppedForTravel, ?_⟩, fun hpave r hr => ?_, fun hno => ?_, ?_⟩
    · simp [stoppedForTravel_side, dropped_state_manual]
    · rw [← hlev] at hsd ⊢
      simp [stoppedForTravel_side, toManual_of_not_manual hsd]
    · exact pending_appliedAt p e (pending_changedToTravel _ sd q (by rwa [hlev]))
    · rw [← hlev] at hsd ⊢
      simp only [appliedAt_frame, changedToTravel_frame, stoppedForTravel_side, endJog_of_manual hsd]
    · simp only [appliedAt_frame, changedToTravel_frame, stoppedForTravel_drive, hfeed]
      exact toTravel_facts _
    · simp [stoppedForTravel_heat, hheat]
    · simp [stoppedForTravel_timers, htimers]
    · simp only [appliedAt_frame]
      rw [changedToTravel_zone, hzones]
    · rw [← hrecord] at hno
      simp only [appliedAt_frame]
      rw [changedToTravel_of_no_close hno, stoppedForTravel_zone, hzones]
    · refine ⟨changesOnly_trans hframe fun part => ?_, by simp, by simp, by simp, by simp, by simp, by simp, fun k => ?_,
        fun q => ?_, by simp only [appliedAt_frame]; rfl, by simp only [appliedAt_frame]; rfl,
        by simp only [appliedAt_frame]; rfl, fun q => ?_⟩
      · cases part <;> simp [Part.kept]
      · rw [stoppedForTravel_zone, hzones]
      · rw [stoppedForTravel_ports, hports, hsettings, hlev]; simp
      · simp only [appliedAt_ports, hitem, changedToTravel_frame, hsettings]
        rfl
    · simp only [appliedAt_frame, State.changedToTravel, if_pos hpave]
      obtain ⟨hnone, hd, hsummary, hsequence, hpartial, hrestart, hleft, hright⟩ :=
        closeRecord_summary (s := u.stoppedForTravel) true false (by simpa [hrecord] using hr)
      have hmanual (sd : Side) : (u.stoppedForTravel.lev.get sd).state = .manual := by
        rw [stoppedForTravel_side]; exact dropped_state_manual _
      exact ⟨hnone, hd, hsummary, hsequence, hpartial, hrestart, hleft.trans (hmanual .left), hright.trans (hmanual .right)⟩
    · rw [← hrecord] at hno
      simp [changedToTravel_of_no_close hno, hrecord, hstore]
    · refine changesOnly_trans hframe fun part => ?_
      cases part <;> simp [Part.kept]
  · -- From TRAVEL: the heating starts on the state that holds the new mode.
    obtain ⟨m, hcode, hm, hmode⟩ : ∃ m : Mode, e.value = BitVec.ofNat 16 m.code ∧ m ≠ .travel
        ∧ m = if e.value = 0#16 then .standby else .pave := by
      rcases hvalue with hzero | hone
      · exact ⟨.standby, hzero, by simp, by simp [hzero]⟩
      · exact ⟨.pave, hone, by simp, by simp [hone]⟩
    obtain ⟨u, hsettings, hframe, hports, hexec⟩ := mode_application hq hitem hcode
    rw [hold, modeApplied_fromTravel hm (by rw [hsettings])] at hexec
    obtain ⟨hlev, hfeed, hheat, htimers, -, hrecord, -⟩ := mode_stored_frame hframe
    obtain ⟨hrunning, hslice, hcycle, htripped⟩ := startHeating_cycle (u := u)
    refine ⟨_, hexec, by simpa [← hmode] using hsettings, by simpa, by simpa, ?_, by simpa, by simpa, ?_, by simpa,
      fun k => by simpa using startHeating_zone_ne_off k, ?_, ⟨u, ?_⟩, changesOnly_trans hframe fun part => ?_⟩
    · simp [startHeating_open, hrecord]
    · simp [hcycle, hheat]
    · simp only [appliedAt_frame, startHeating_timers, startHeating_frame, htimers]
      rfl
    · refine ⟨by simp, by simp, hframe, fun q => ?_, changesOnly_of fun part => ?_, fun q => ?_⟩
      · simpa using hports q
      · cases part <;> simp [Part.kept]
      · rw [appliedAt_ports, hitem]; simp [hsettings]
    · cases part <;> simp [Part.kept]
  · -- From PAVE to STANDBY: the close of the record, then the AUTO valves at 0.
    obtain ⟨u, hsettings, hframe, hports, hexec⟩ := mode_application (m := .standby) hq hitem hvalue
    rw [hold, modeApplied_leavePave (by rw [hsettings])] at hexec
    obtain ⟨hlev, -, hheat, -, hzones, hrecord, hstore⟩ := mode_stored_frame hframe
    refine ⟨_, hexec, by simpa using hsettings, fun sd => ?_, by simpa, ⟨u, ?_⟩, fun r hr => ?_, fun hnone => ?_,
      changesOnly_trans hframe fun part => ?_⟩
    · simp only [appliedAt_frame, leavePave_side, hlev]
    · refine ⟨by simp, by simp, hframe, fun q => ?_, by simp [leavePave], by simp [leavePave], by simp [leavePave],
        fun q => ?_⟩
      · simpa using hports q
      · rw [appliedAt_ports, hitem]; simp [leavePave, hsettings]
    · obtain ⟨hnone, hd, hsummary, hsequence, hpartial, hrestart, -⟩ :=
        closeRecord_summary (s := u) true false (by rwa [hrecord])
      simp only [appliedAt_frame, leavePave, autoValvesZero_frame]
      exact ⟨hnone, hd, hsummary, hsequence, hpartial, hrestart⟩
    · simp [leavePave, closeRecord_none (hrecord ▸ hnone), hrecord, hstore, hzones]
    · cases part <;> simp [Part.kept]

end AppliedMode
end Sys2Proof.Machine

/-! # Family 02: the measurement sequencer

What the sequencer's own operations do, said once for each; then each statement from them. -/

namespace Sys2Proof.Machine

section Rounds

variable {q : Sequencer} {cls : SampleClass} {c : Fin 34}

theorem Converter.held_eq_some_iff {k : Converter} :
    k.held = some c ↔ ∃ tag due, k = .settling c tag due ∨ k = .converting c tag due := by
  cases k <;> simp [Converter.held]

theorem classBusy_iff :
    classBusy q cls = true ↔
      (∃ c, c ∈ q.queue ∧ classOf c = cls)
        ∨ ∃ c tag due, classOf c = cls ∧ (q.converter = .settling c tag due ∨ q.converter = .converting c tag due) := by
  have hheld : q.converter.held.any (fun c => classOf c = cls) = true ↔ ∃ c, q.converter.held = some c ∧ classOf c = cls := by
    simp [Option.any_eq_true]
  simp only [classBusy, Bool.or_eq_true, hheld, List.any_eq_true, decide_eq_true_eq, Converter.held_eq_some_iff]
  exact or_congr_right ⟨fun ⟨c, ⟨tag, due, hconv⟩, hc⟩ => ⟨c, tag, due, hc, hconv⟩,
    fun ⟨c, tag, due, hc, hconv⟩ => ⟨c, ⟨tag, due, hconv⟩, hc⟩⟩

theorem exists_classOf (cls : SampleClass) : ∃ c, classOf c = cls := by
  cases cls
  exacts [⟨0, rfl⟩, ⟨9, rfl⟩, ⟨19, rfl⟩]

theorem completesRound_iff {tag : Nat} :
    completesRound q c tag = true ↔
      (∀ d ∈ q.queue, classOf d ≠ classOf c) ∧ tag = (q.rounds.get (classOf c)).counter := by
  simp [completesRound]

/-- The sequencer after a class's period expiry: the next round begun, every channel of the class waiting (R19). -/
def Sequencer.beginRound (q : Sequencer) (cls : SampleClass) : Sequencer :=
  { q with
    rounds := q.rounds.set cls ((q.rounds.get cls).begin (classBusy q cls))
    queue := joinClass q.queue cls }

theorem beginRound_round_same : (q.beginRound cls).rounds.get cls = (q.rounds.get cls).begin (classBusy q cls) :=
  PerClass.get_set_self _ _ _

theorem beginRound_round_other {other : SampleClass} (h : other ≠ cls) :
    (q.beginRound cls).rounds.get other = q.rounds.get other := PerClass.get_set_ne _ _ _ _ h

theorem mem_beginRound_queue : c ∈ (q.beginRound cls).queue ↔ c ∈ q.queue ∨ classOf c = cls := mem_joinClass

theorem beginRound_queue_ne_nil : (q.beginRound cls).queue ≠ [] := by
  obtain ⟨c, hc⟩ := exists_classOf cls
  exact List.ne_nil_of_mem (mem_beginRound_queue.2 (.inr hc))

/-- After a period expiry no conversion of the class completes the round: the channel itself waits again (R24). -/
theorem completesRound_beginRound {tag : Nat} (hc : classOf c = cls) : completesRound (q.beginRound cls) c tag = false :=
  Bool.eq_false_iff.2 fun h => (completesRound_iff.1 h).1 c (mem_beginRound_queue.2 (.inr hc)) rfl

variable {s : State}

theorem converterEvent_take (hidle : s.seq.converter = .idle) (hqueue : s.seq.queue ≠ []) :
    converterEvent s = some (s.now, .converterTake) := by
  simp [converterEvent, hidle, hqueue]

/-- A class's period expiry: the next round begun and the next period counted from the time reached (R19). -/
theorem classPeriodExpiry_outcome (s : State) (cls : SampleClass) :
    ∃ t, exec (.classPeriodExpiry cls) s = .next t ∧ t.seq = s.seq.beginRound cls
      ∧ t.now = max s.now (s.timers.period.get cls)
      ∧ t.timers = { s.timers with period := s.timers.period.set cls (t.now + Config.classPeriod cls) }
      ∧ changesOnly [.seq, .timers, .now] s t :=
  ⟨_, rfl, rfl, rfl, rfl, changesOnly_of fun part => by cases part <;> simp [Part.kept]⟩

/-- Settles O7: the expiry by its outcome, the round and the queue by the lemmas of `Sequencer.beginRound`. -/
theorem classPeriod : Obligations.ClassPeriod := by
  refine ⟨fun c => rfl, fun s cls => ?_⟩
  intro r busy period
  have hbusy : classBusy s.seq cls = true ↔ busy := classBusy_iff
  have hperiod : Config.classPeriod cls = period := by cases cls <;> rfl
  obtain ⟨t, ht, hseq, hnow, htimers, hframe⟩ := classPeriodExpiry_outcome s cls
  rw [hperiod] at htimers
  refine ⟨t, ht, ?_⟩
  simp only [hseq, beginRound_round_same]
  refine ⟨rfl, hbusy, fun h => if_pos (hbusy.2 h), fun h => if_neg (mt hbusy.1 h), fun _ => beginRound_round_other,
    fun _ => mem_beginRound_queue, rfl, rfl, rfl, fun _ _ hc _ => completesRound_beginRound hc, fun hidle => ?_, hnow,
    htimers, fun hle => ?_, hframe, _, rfl, rfl, rfl⟩
  · exact converterEvent_take (by rw [hseq]; exact hidle) (by rw [hseq]; exact beginRound_queue_ne_nil)
  · rw [htimers, PerClass.get_set_self, hnow, Nat.max_eq_right hle]

end Rounds

section Completion

variable {s : State} {c : Fin 34} {tag due : Nat} {count : BitVec 12} {pins : Pins}

/-- What a round completion hands on touches nothing of the sequencer but the converter condition (R25, R31). -/
theorem roundCompletion_seq (cls : SampleClass) (u : State) :
    (roundCompletion cls u).seq = { u.seq with conditionSuspect := (roundCompletion cls u).seq.conditionSuspect }
      ∧ (cls ≠ .slow → (roundCompletion cls u).seq = u.seq) := by
  cases cls with
  | fast | medium => simp [roundCompletion]
  | slow => simp only [roundCompletion, slowRound]; split <;> simp

/-- The state a completed conversion hands on: the inputs sampled, the entry written, the converter's hold ended (R22, R23). -/
def State.converted (s : State) (c : Fin 34) (tag due : Nat) (count : BitVec 12) (pins : Pins) : State :=
  writeResult ((s.reach due).withPins pins) c tag count.toNat

@[simp] theorem converted_frame :
    (s.converted c tag due count pins).travel = s.travel ∧ (s.converted c tag due count pins).lev = s.lev
      ∧ (s.converted c tag due count pins).feed = s.feed ∧ (s.converted c tag due count pins).heat = s.heat
      ∧ (s.converted c tag due count pins).zones = s.zones ∧ (s.converted c tag due count pins).scan = s.scan
      ∧ (s.converted c tag due count pins).record = s.record ∧ (s.converted c tag due count pins).store = s.store
      ∧ (s.converted c tag due count pins).settings = s.settings ∧ (s.converted c tag due count pins).ports = s.ports
      ∧ (s.converted c tag due count pins).timers = s.timers ∧ (s.converted c tag due count pins).pins = pins
      ∧ (s.converted c tag due count pins).free = s.free ∧ (s.converted c tag due count pins).pending = s.pending := by
  simp [State.converted]

theorem converted_seq :
    (s.converted c tag due count pins).seq =
      { s.seq with
        results := s.seq.results.set c (resultEntry s c tag count.toNat)
        converter := afterConversion count.toNat (s.converted c tag due count pins).now } := rfl

theorem converted_result (d : Fin 34) :
    (s.converted c tag due count pins).seq.results[d] =
      if d = c then resultEntry s c tag count.toNat else s.seq.results[d] := writeResult_result _ _ _ _ _

theorem exec_conversionCompletion (hconv : s.seq.converter = .converting c tag due) :
    exec (.conversionCompletion count pins) s = .next
      (if completesRound s.seq c tag then roundCompletion (classOf c) (s.converted c tag due count pins)
        else s.converted c tag due count pins) := by
  simp only [exec, execConversionCompletion, hconv]
  rfl

end Completion

section ConverterSteps

theorem changesOnly_reach_withSeq (s : State) (due : Nat) (x : Sequencer) :
    changesOnly [.seq, .now] s ((s.reach due).withSeq x) :=
  changesOnly_of fun part => by cases part <;> simp [Part.kept]

/-- What a command does to the sequencer, every command and every case (R19 to R24, R30, R33, R34): it leaves it, or it is one of
the sequencer's own. -/
inductive SequencerStep (s : State) : Instr → Sequencer → Prop
  | kept (i : Instr) : SequencerStep s i s.seq
  | powerOn : SequencerStep s .powerOn (.started 0 true)
  | restart (p : Port) : SequencerStep s (.restart p) (.started s.now s.seq.conditionSuspect)
  | period (cls : SampleClass) : SequencerStep s (.classPeriodExpiry cls) (s.seq.beginRound cls)
  | take {c : Fin 34} {rest : List (Fin 34)} (hidle : s.seq.converter = .idle) (hqueue : s.seq.queue = c :: rest) :
    SequencerStep s .converterTake
      { s.seq with
        queue := rest
        converter := .settling c (s.seq.rounds.get (classOf c)).counter (s.now + Config.settleTime (classOf c)) }
  | settled {c : Fin 34} {tag due : Nat} (hconv : s.seq.converter = .settling c tag due) :
    SequencerStep s .settleEnd { s.seq with converter := .converting c tag (max s.now due + Config.convertTime) }
  | recovered {due : Nat} (hconv : s.seq.converter = .recovering due) :
    SequencerStep s .overloadRecoveryEnd { s.seq with converter := .idle }
  | completed {count : BitVec 12} {pins : Pins} {c : Fin 34} {tag due : Nat} {q : Sequencer}
      (hconv : s.seq.converter = .converting c tag due) (hqueue : q.queue = s.seq.queue)
      (hcondition : q.conditionSuspect ≠ s.seq.conditionSuspect → classOf c = .slow) :
    SequencerStep s (.conversionCompletion count pins) q

variable {s t : State}

/-- The commands with an arm of their own in `SequencerStep`. -/
def reachesSequencer : Instr → Bool
  | .powerOn | .restart _ | .classPeriodExpiry _ | .converterTake | .settleEnd | .overloadRecoveryEnd
  | .conversionCompletion _ _ => true
  | .forwardPulse | .reversePulse | .radarPulse | .secondsCountTick | .speedWindowExpiry | .plausibilityWindowExpiry
  | .sampleTimerExpiry | .jogTimerExpiry _ | .prefillTimerExpiry _ | .scannerLine _ _ | .scannerSilenceExpiry | .sliceStart
  | .heatingWaitEnd | .readback _ | .trip _ | .read _ _ _ | .write _ _ _ | .page _ _ | .takeAlerts _ | .alertDone _
  | .engage _ _ | .disengage _ _ | .setZero _ _ | .jog _ _ _ _ | .prefill _ _ | .clearFault _ _ _ | .fetch _ | .release _ _
  | .rewind _ | .portReset _ | .badFrame _ _ | .copyCompletion | .heldAnswerExpiry | .application _ | .presenceTimeout _
  | .scannerRunStart => false

theorem sideRequest_seq {p : Port} {item : Byte} {act : Side → State → State} (hact : ∀ sd u, (act sd u).seq = u.seq) :
    (sideRequest p item act s).seq = s.seq := by
  simp only [sideRequest]
  (repeat' split) <;> simp [hact]

/-- Outside those commands nothing touches the sequencer: each is made of operations that leave it. -/
theorem seq_of_not_reachesSequencer {i : Instr} (hi : reachesSequencer i = false) (hx : exec i s = .next t) :
    t.seq = s.seq := by
  cases i with
  | engage | disengage | setZero => cases hx; exact sideRequest_seq fun _ _ => by simp
  | jog =>
    simp only [exec, execJog, Host.Outcome.next.injEq] at hx
    subst hx
    split
    · simp
    · exact sideRequest_seq fun _ _ => by simp
  | speedWindowExpiry => cases hx; simp
  | plausibilityWindowExpiry =>
    rw [exec_plausibilityWindowExpiry] at hx
    cases hx
    split <;> simp
  | application p =>
    cases hq : (s.ports.get p).queue with
    | nil =>
      simp only [exec, execApplication, hq, Host.Outcome.next.injEq] at hx
      rw [hx]
    | cons e rest =>
      rw [application_eq hq] at hx
      cases hx
      split <;> simp
  | forwardPulse | reversePulse | radarPulse | secondsCountTick | sampleTimerExpiry | jogTimerExpiry | prefillTimerExpiry
  | scannerLine | scannerSilenceExpiry | sliceStart | heatingWaitEnd | readback | trip | read | write | page | takeAlerts
  | alertDone | prefill | clearFault | fetch | release | rewind | portReset | badFrame | copyCompletion | heldAnswerExpiry
  | presenceTimeout | scannerRunStart =>
    simp only [exec, execForwardPulse, execReversePulse, execRadarPulse, execSecondsCountTick, execSampleTimerExpiry,
      execJogTimerExpiry, execPrefillTimerExpiry, execScannerLine, execScannerSilenceExpiry, execSliceStart,
      execHeatingWaitEnd, execReadback, execTrip, execRead, execWrite, execPage, execTakeAlerts, execAlertDone, execPrefill,
      execClearFault, execFetch, execRelease, execRewind, execPortReset, execBadFrame, execCopyCompletion,
      execHeldAnswerExpiry, execPresenceTimeout, execScannerRunStart, Host.Outcome.next.injEq] at hx
    subst hx
    (repeat' split) <;> simp
  | _ => cases hi

theorem restartPart_seq : (restartPart s).seq = .started s.now s.seq.conditionSuspect := by
  simp [restartPart]

/-- Every command makes one of the steps of the sequencer. -/
theorem sequencerStep_of_exec {i : Instr} (hx : exec i s = .next t) : SequencerStep s i t.seq := by
  cases hi : reachesSequencer i with
  | false => exact seq_of_not_reachesSequencer hi hx ▸ .kept i
  | true =>
    cases i with
    | powerOn => cases hx; exact .powerOn
    | restart p =>
      simp only [exec, execRestart, Host.Outcome.next.injEq] at hx
      subst hx
      split
      · have hseq : (answerCode p .ok (restartPart (takeRequest p s))).seq = .started s.now s.seq.conditionSuspect := by
          simp [restartPart_seq]
        exact hseq ▸ .restart p
      · have hseq : (answerCode p .notAllowed (takeRequest p s)).seq = s.seq := by simp
        exact hseq ▸ .kept _
    | classPeriodExpiry cls => cases hx; exact .period cls
    | converterTake =>
      simp only [exec, execConverterTake, Host.Outcome.next.injEq] at hx
      subst hx
      split
      case h_1 hidle hqueue => exact .take hidle hqueue
      all_goals exact .kept _
    | settleEnd =>
      simp only [exec, execSettleEnd, Host.Outcome.next.injEq] at hx
      subst hx
      split
      case h_1 hconv => exact .settled hconv
      all_goals exact .kept _
    | overloadRecoveryEnd =>
      simp only [exec, execOverloadRecoveryEnd, Host.Outcome.next.injEq] at hx
      subst hx
      split
      case h_1 hconv => exact .recovered hconv
      all_goals exact .kept _
    | conversionCompletion count pins =>
      cases hconv : s.seq.converter with
      | converting c tag due =>
        rw [exec_conversionCompletion hconv] at hx
        cases hx
        split
        · obtain ⟨hseq, hother⟩ := roundCompletion_seq (classOf c) (s.converted c tag due count pins)
          refine .completed hconv (by rw [hseq]; rfl) fun hne => ?_
          by_contra hslow
          exact hne (by rw [hother hslow]; rfl)
        · exact .completed hconv rfl fun hne => absurd rfl hne
      | idle | settling | recovering =>
        simp only [exec, execConversionCompletion, hconv, Host.Outcome.next.injEq] at hx
        exact hx ▸ .kept _
    | _ => cases hi

theorem tail_finRange_pairwise : (List.finRange 34).tail.Pairwise (· < ·) := (List.pairwise_lt_finRange 34).tail

theorem SequencerStep.queue_pairwise {i : Instr} {q : Sequencer} (h : SequencerStep s i q)
    (hsorted : s.seq.queue.Pairwise (· < ·)) : q.queue.Pairwise (· < ·) := by
  cases h with
  | kept => exact hsorted
  | powerOn => exact tail_finRange_pairwise
  | restart => exact tail_finRange_pairwise
  | period cls => exact joinClass_pairwise _ _
  | take hidle hqueue => rw [hqueue] at hsorted; exact hsorted.of_cons
  | settled => exact hsorted
  | recovered => exact hsorted
  | completed hconv hqueue => rwa [hqueue]

/-- A channel leaves the queue at a reset or into the converter (R20, R21). -/
theorem SequencerStep.queue_leaves {i : Instr} {q : Sequencer} (h : SequencerStep s i q) {c : Fin 34}
    (hin : c ∈ s.seq.queue) (hout : c ∉ q.queue) :
    i = .powerOn ∨ (∃ p, i = .restart p)
      ∨ (i = .converterTake ∧ s.seq.converter = .idle ∧ s.seq.queue.head? = some c) := by
  cases h with
  | powerOn => exact .inl rfl
  | restart p => exact .inr (.inl ⟨p, rfl⟩)
  | period cls => exact absurd (mem_beginRound_queue.2 (.inl hin)) hout
  | take hidle hqueue =>
    rw [hqueue, List.mem_cons] at hin
    exact .inr (.inr ⟨rfl, hidle, by rw [hqueue, hin.resolve_right hout, List.head?_cons]⟩)
  | completed hconv hqueue => exact absurd (hqueue ▸ hin) hout
  | kept | settled | recovered => exact absurd hin hout

/-- A channel joins the queue at a reset or at its class's period expiry (R19). -/
theorem SequencerStep.queue_joins {i : Instr} {q : Sequencer} (h : SequencerStep s i q) {c : Fin 34}
    (hout : c ∉ s.seq.queue) (hin : c ∈ q.queue) :
    i = .powerOn ∨ (∃ p, i = .restart p) ∨ i = .classPeriodExpiry (classOf c) := by
  cases h with
  | powerOn => exact .inl rfl
  | restart p => exact .inr (.inl ⟨p, rfl⟩)
  | period cls =>
    obtain rfl := (mem_beginRound_queue.1 hin).resolve_left hout
    exact .inr (.inr rfl)
  | take hidle hqueue => exact absurd (hqueue ▸ List.mem_cons_of_mem _ hin) hout
  | completed hconv hqueue => exact absurd (hqueue ▸ hin) hout
  | kept | settled | recovered => exact absurd hin hout

/-- The channel the converter holds stays until its completion or a reset (R21). -/
theorem SequencerStep.held_kept {i : Instr} {q : Sequencer} (h : SequencerStep s i q) {c : Fin 34}
    (hheld : s.seq.converter.held = some c) :
    q.converter.held = some c ∨ i = .powerOn ∨ (∃ p, i = .restart p) ∨ ∃ count pins, i = .conversionCompletion count pins := by
  cases h with
  | kept => exact .inl hheld
  | powerOn => exact .inr (.inl rfl)
  | restart p => exact .inr (.inr (.inl ⟨p, rfl⟩))
  | period cls => exact .inl hheld
  | take hidle => rw [hidle] at hheld; cases hheld
  | settled hconv => rw [hconv] at hheld; exact .inl hheld
  | recovered hconv => rw [hconv] at hheld; cases hheld
  | completed => exact .inr (.inr (.inr ⟨_, _, rfl⟩))

/-- The converter condition changes at power-on and at the completion of a SLOW channel only (R34, R35). -/
theorem SequencerStep.condition_changes {i : Instr} {q : Sequencer} (h : SequencerStep s i q)
    (hne : q.conditionSuspect ≠ s.seq.conditionSuspect) :
    (i = .powerOn ∧ q.conditionSuspect = true)
      ∨ ∃ count pins c tag due, i = .conversionCompletion count pins ∧ s.seq.converter = .converting c tag due
          ∧ classOf c = .slow := by
  cases h with
  | powerOn => exact .inl ⟨rfl, rfl⟩
  | completed hconv hqueue hcondition => exact .inr ⟨_, _, _, _, _, rfl, hconv, hcondition hne⟩
  | kept | restart | period | take | settled | recovered => exact absurd rfl hne

theorem length_le_of_pairwise_lt {n : Nat} {l : List (Fin n)} (h : l.Pairwise (· < ·)) : l.length ≤ n := by
  simpa using List.Nodup.length_le_card (h.imp Fin.ne_of_lt)

/-- The classes take the channels in increasing channel number (R19, R20). -/
theorem classOf_order {a b : Fin 34} (h : a < b) :
    ¬(classOf a = .slow ∧ classOf b ≠ .slow) ∧ ¬(classOf a = .medium ∧ classOf b = .fast) := by
  simp only [classOf, Fin.lt_def] at *
  split_ifs <;> simp <;> omega

/-- Settles O8, by the cases of `SequencerStep`. -/
theorem conversionQueue : Obligations.ConversionQueue := by
  refine ⟨fun a b => classOf_order, fun i s t hx => ?_⟩
  have hstep := sequencerStep_of_exec hx
  exact ⟨fun hsorted => ⟨hstep.queue_pairwise hsorted, length_le_of_pairwise_lt (hstep.queue_pairwise hsorted)⟩,
    fun c => hstep.queue_leaves, fun c => hstep.queue_joins⟩

theorem exec_converterTake {c : Fin 34} {rest : List (Fin 34)} (hidle : s.seq.converter = .idle)
    (hqueue : s.seq.queue = c :: rest) :
    exec .converterTake s = .next (s.withSeq
      { s.seq with
        queue := rest
        converter := .settling c (s.seq.rounds.get (classOf c)).counter (s.now + Config.settleTime (classOf c)) }) := by
  simp only [exec, execConverterTake, hidle, hqueue]

theorem exec_settleEnd {c : Fin 34} {tag due : Nat} (hconv : s.seq.converter = .settling c tag due) :
    exec .settleEnd s = .next ((s.reach due).withSeq
      { s.seq with converter := .converting c tag (max s.now due + Config.convertTime) }) := by
  simp only [exec, execSettleEnd, hconv]
  rfl

theorem exec_overloadRecoveryEnd {due : Nat} (hconv : s.seq.converter = .recovering due) :
    exec .overloadRecoveryEnd s = .next ((s.reach due).withSeq { s.seq with converter := .idle }) := by
  simp only [exec, execOverloadRecoveryEnd, hconv]

/-- Settles O9: the converter's three steps by their equations, the rest by the cases of `SequencerStep`. -/
theorem converterSteps : Obligations.ConverterSteps := by
  refine ⟨⟨fun s c rest hidle hqueue => ?_, fun s c tag due hconv => ?_, fun i s t c hx =>
    (sequencerStep_of_exec hx).held_kept⟩, fun s due hconv => ?_⟩
  · intro settle
    have hsettle : Config.settleTime (classOf c) = settle := by simp only [settle]; cases classOf c <;> rfl
    rw [exec_converterTake hidle hqueue, hsettle]
    exact ⟨_, rfl, rfl, changesOnly_of fun part => by cases part <;> simp [Part.kept]⟩
  · exact ⟨_, exec_settleEnd hconv, rfl, changesOnly_reach_withSeq _ _ _⟩
  · exact ⟨_, exec_overloadRecoveryEnd hconv, rfl, fun hqueue => converterEvent_take rfl hqueue,
      changesOnly_reach_withSeq _ _ _⟩

end ConverterSteps
end Sys2Proof.Machine

/-! # Family 02: the completion of a conversion -/

namespace Sys2Proof.Machine

section Values

variable {cal : Calibration} {suspect : Bool} {count : Nat}

theorem clampInt_eq {lo hi x : Int} (h : lo ≤ hi) : clampInt lo hi x = max lo (min hi x) := by
  unfold clampInt; split_ifs <;> omega

theorem divHalfUp_eq (a b : Nat) : divHalfUp a b = (2 * a + b) / (2 * b) := by
  rw [divHalfUp, ← Nat.div_div_eq_div_mul]
  congr 1
  omega

theorem divHalfUp_zero (b : Nat) : divHalfUp 0 b = 0 := by
  rw [divHalfUp, Nat.div_eq_zero_iff]; omega

/-- R1's division half away from zero: the magnitude divided half up, and the sign of the exact quotient. -/
theorem divHalfAway_spec {n d : Int} (hd : d ≠ 0) :
    ((divHalfAway n d).natAbs : Int) = (2 * (n.natAbs : Int) + d.natAbs) / (2 * (d.natAbs : Int))
      ∧ (0 < divHalfAway n d → 0 < n * d) ∧ (divHalfAway n d < 0 → n * d < 0) := by
  have hsign : n.sign * d.sign < 0 ↔ n * d < 0 := by rw [← Int.sign_mul, Int.sign_neg_iff]
  have hzero : n * d = 0 → divHalfUp n.natAbs d.natAbs = 0 := fun h => by
    rw [(Int.mul_eq_zero.1 h).resolve_right hd]
    exact divHalfUp_zero _
  have hmagnitude : ((divHalfUp n.natAbs d.natAbs : Nat) : Int) =
      (2 * (n.natAbs : Int) + d.natAbs) / (2 * (d.natAbs : Int)) := by
    rw [divHalfUp_eq]; push_cast; rfl
  rw [← hmagnitude]
  simp only [divHalfAway, hsign]
  split <;> omega

theorem machineQuality_broken_iff :
    machineQuality cal suspect count = .broken ↔ count < 590 ∨ cal.zeroCount = cal.fullCount := by
  unfold machineQuality; split_ifs <;> simp_all

theorem machineQuality_short_iff :
    machineQuality cal suspect count = .short ↔ 3440 < count ∧ cal.zeroCount ≠ cal.fullCount := by
  unfold machineQuality; split_ifs <;> simp_all; omega

theorem machineQuality_suspect_iff :
    machineQuality cal suspect count = .suspect ↔
      590 ≤ count ∧ count ≤ 3440 ∧ cal.zeroCount ≠ cal.fullCount ∧ suspect = true := by
  unfold machineQuality; split_ifs <;> simp_all; omega

theorem machineQuality_good_iff :
    machineQuality cal suspect count = .good ↔
      590 ≤ count ∧ count ≤ 3440 ∧ cal.zeroCount ≠ cal.fullCount ∧ suspect = false := by
  unfold machineQuality; split_ifs <;> simp_all; omega

theorem referenceMeets_iff {c : Fin 34} (hc : 31 ≤ c.val) :
    referenceMeets c count = true ↔
      (c.val = 31 ∧ count ≤ 20) ∨ (c.val = 32 ∧ 4075 ≤ count) ∨ (c.val = 33 ∧ 2032 ≤ count ∧ count ≤ 2064) := by
  unfold referenceMeets; split_ifs <;> simp <;> omega

end Values

section Entries

variable {s : State} {c : Fin 34} {tag due : Nat} {count : BitVec 12} {pins : Pins}

theorem resultEntry_machine {n : Nat} (h : c.val < 31) :
    (resultEntry s c tag n).value = engineeringValue s.settings.cals[(⟨c.val, h⟩ : Fin 31)] n
      ∧ (resultEntry s c tag n).quality
          = machineQuality s.settings.cals[(⟨c.val, h⟩ : Fin 31)] s.seq.conditionSuspect n := by
  simp [resultEntry, h]

theorem resultEntry_reference {n : Nat} (h : 31 ≤ c.val) :
    (resultEntry s c tag n).value = 0
      ∧ (resultEntry s c tag n).quality = if referenceMeets c n then .good else .suspect := by
  simp [resultEntry, show ¬c.val < 31 by omega]

theorem afterConversion_eq (n now : Nat) :
    afterConversion n now = if 3440 < n then .recovering (now + 400) else .idle := rfl

/-- A completion leaves the sequencer as it stood after the entry was written, but for the converter condition. -/
theorem conversionCompletion_outcome (hconv : s.seq.converter = .converting c tag due) (count : BitVec 12) (pins : Pins) :
    ∃ t, exec (.conversionCompletion count pins) s = .next t
      ∧ t.seq = { (s.converted c tag due count pins).seq with conditionSuspect := t.seq.conditionSuspect }
      ∧ t.now = (s.converted c tag due count pins).now ∧ t.pins = pins
      ∧ changesOnly [.seq, .travel, .lev, .feed, .heat, .record, .ports, .timers, .pins, .now, .free] s t := by
  refine ⟨_, exec_conversionCompletion hconv, ?_⟩
  split
  · exact ⟨(roundCompletion_seq _ _).1, by simp, by simp, changesOnly_of fun part => by cases part <;> simp [Part.kept]⟩
  · exact ⟨rfl, rfl, by simp, changesOnly_of fun part => by cases part <;> simp [Part.kept]⟩

/-- Settles O10: the entry by its equations, the rest by what a completion leaves of the sequencer. -/
theorem conversionCompletion : Obligations.ConversionCompletion := by
  intro s count pins c tag due hconv
  obtain ⟨t, ht, hseq, hnow, hpins, hframe⟩ := conversionCompletion_outcome hconv count pins
  have hentry : t.seq.results[c] = resultEntry s c tag count.toNat := by
    rw [hseq]; exact (converted_result c).trans (if_pos rfl)
  refine ⟨t, ht, ?_⟩
  rw [hentry]
  refine ⟨resultEntry_count _ _ _ _, resultEntry_round _ _ _ _, fun h => ?_, resultEntry_reference, fun d hd => ?_, ?_, ?_, ?_,
    hpins, hframe⟩
  · rw [hentry]; exact resultEntry_machine h
  · rw [hseq]; exact (converted_result d).trans (if_neg hd)
  · rw [hseq, hnow, ← afterConversion_eq]; rfl
  · rw [hseq]; rfl
  · rw [hseq]; rfl

/-- Settles O12: each quality by its own condition, a reference channel's entry by the completion. -/
theorem resultQuality : Obligations.ResultQuality := by
  refine ⟨fun cal suspect count => ⟨machineQuality_broken_iff, machineQuality_short_iff, machineQuality_suspect_iff,
    machineQuality_good_iff⟩, fun s count pins c tag due hconv hc => ?_⟩
  obtain ⟨t, ht, -, -, -, hreference, -⟩ := conversionCompletion s count pins c tag due hconv
  obtain ⟨hvalue, hquality⟩ := hreference hc
  refine ⟨t, ht, hvalue, ?_, ?_⟩
  · rw [hquality, ← referenceMeets_iff hc]; split <;> simp_all
  · rw [hquality]; split <;> simp

end Entries

section ReferenceCheck

variable {s : State}

theorem referenceCheck_iff (q : Sequencer) :
    referenceCheck q = true ↔
      q.results[(31 : Fin 34)].count ≤ 20 ∧ 4075 ≤ q.results[(32 : Fin 34)].count
        ∧ 2032 ≤ q.results[(33 : Fin 34)].count ∧ q.results[(33 : Fin 34)].count ≤ 2064 := by
  simp [referenceCheck, referenceMeets, and_assoc]

theorem slowRound_seq : (slowRound s).seq = { s.seq with conditionSuspect := !referenceCheck s.seq } := by
  simp only [slowRound]; split <;> simp

/-- The condition turns SUSPECT: raised on every port and reported to an open record (R31). -/
theorem slowRound_turning (hpass : ¬referenceCheck s.seq = true) (hgood : s.seq.conditionSuspect = false) :
    raisedOnly s (slowRound s) (fun _ => True) .converterSuspect
      ∧ ∀ r, s.record.current = some r →
          (slowRound s).record =
            { s.record with current := some { r with flags := { r.flags with converterSuspect := true } } } := by
  have hturn : (!referenceCheck s.seq && !s.seq.conditionSuspect) = true := by simp [hpass, hgood]
  simp only [slowRound, hturn, if_true]
  exact ⟨fun q => ⟨fun _ => by simp [raiseAll_get], fun h => absurd trivial h⟩,
    fun r hr => by simp [reportFlags, report_record, hr]⟩

theorem slowRound_not_turning (h : referenceCheck s.seq = true ∨ s.seq.conditionSuspect = true) :
    (slowRound s).ports = s.ports ∧ (slowRound s).record = s.record := by
  have hstays : (!referenceCheck s.seq && !s.seq.conditionSuspect) = false := by
    rcases h with h | h <;> simp [h]
  simp [slowRound, hstays]

end ReferenceCheck
end Sys2Proof.Machine

/-! The model's own operations are named `engineeringValue`, `roundCompletion` and `referenceCheck`; the theorems that settle the
statements of these names stand beside them. -/
namespace Sys2Proof.Proofs

open Sys2Proof.Machine

/-- Settles O11: the quotient by `divHalfAway_spec`, the clamp as a maximum of a minimum. -/
theorem engineeringValue : Obligations.EngineeringValue := by
  refine fun cal count => ⟨fun heq => ⟨if_pos heq, fun suspect => machineQuality_broken_iff.2 (.inr heq.symm)⟩, fun hne => ?_⟩
  intro n d lo hi
  obtain ⟨hmagnitude, hpos, hneg⟩ := divHalfAway_spec (n := n) (d := d) (by omega)
  refine ⟨divHalfAway n d, hmagnitude, hpos, hneg, ?_⟩
  rw [← clampInt_eq (by omega : lo ≤ hi)]
  exact if_neg hne

/-- Settles O13: the state handed on is `State.converted`, the hand-over the equation of the completion. -/
theorem roundCompletion : Obligations.RoundCompletion := by
  intro s count pins c tag due hconv completes
  have hcompletes : completesRound s.seq c tag = true ↔ completes := completesRound_iff
  have hentry : (s.converted c tag due count pins).seq.results[c] = resultEntry s c tag count.toNat :=
    (converted_result c).trans (if_pos rfl)
  have hdone (h : completes) : exec (.conversionCompletion count pins) s =
      .next (Machine.roundCompletion (classOf c) (s.converted c tag due count pins)) := by
    rw [exec_conversionCompletion hconv, if_pos (hcompletes.2 h)]
  refine ⟨s.converted c tag due count pins, ?_⟩
  rw [hentry]
  refine ⟨resultEntry_round _ _ _ _, resultEntry_count _ _ _ _, fun d hd => (converted_result d).trans (if_neg hd), rfl,
    fun h => ?_, rfl, rfl, by simp, changesOnly_of fun part => by cases part <;> simp [Part.kept], fun h => ?_,
    fun h hfast => ?_, fun h hmedium => ?_, fun h hslow => ?_⟩
  · rw [hentry]; exact resultEntry_machine h
  · rw [exec_conversionCompletion hconv, if_neg (mt hcompletes.1 h)]
  · rw [hdone h, hfast]; rfl
  · refine ⟨(s.converted c tag due count pins).free + 1, ?_⟩
    rw [hdone h, hmedium]
    simp only [Machine.roundCompletion, mediumRound]
    split
    · exact .inl rfl
    · exact .inr rfl
  · rw [hdone h, hslow]; rfl

/-- Settles O14: the check by the two cases of `slowRound`, the other commands by the cases of `SequencerStep`. -/
theorem referenceCheck : Obligations.ReferenceCheck := by
  refine ⟨fun s => ?_, fun i s t hx hne => (sequencerStep_of_exec hx).condition_changes hne⟩
  intro pass
  have hpass : Machine.referenceCheck s.seq = true ↔ pass := referenceCheck_iff s.seq
  refine ⟨?_, by rw [slowRound_seq], fun ⟨hfail, hgood⟩ => slowRound_turning (mt hpass.1 hfail) hgood,
    fun h => slowRound_not_turning (h.imp_left hpass.2), changesOnly_of fun part => by cases part <;> simp [Part.kept]⟩
  rw [slowRound_seq, ← hpass, Bool.not_eq_true, Bool.not_eq_true']

end Sys2Proof.Proofs

/-! # Family 02: the state after power-on -/

namespace Sys2Proof.Machine

section PowerOn

theorem mem_tail_finRange {n : Nat} {c : Fin (n + 1)} : c ∈ (List.finRange (n + 1)).tail ↔ c.val ≠ 0 := by
  rw [List.finRange_succ, List.tail_cons, Fin.val_ne_zero_iff, ← Fin.exists_succ_eq]
  simp

/-- A channel's calibration at power-on, the table of section 2.1 (R18). -/
theorem calibration_powerOn (c : Fin 31) :
    Calibration.powerOn c =
      { zeroCount := 655, fullCount := 3276
        zeroValue := if c.val = 8 then -1000 else 0
        fullValue := if c.val < 8 then 10000 else if c.val = 8 then 1000 else if c.val < 11 then 3000
          else if c.val < 15 then 600 else if c.val < 19 then 1000 else 3000 } := by
  revert c; decide

theorem calibration_powerOn_inRange (c : Fin 31) : (Calibration.powerOn c).inRange := by
  revert c; unfold Calibration.inRange; decide

theorem zoneSettings_powerOn_inRange (k : Fin 12) : (ZoneSettings.powerOn k).inRange := by
  revert k; unfold ZoneSettings.inRange; decide

theorem sideSettings_powerOn_inRange : SideSettings.powerOn.inRange := by
  unfold SideSettings.inRange; decide

theorem driveSettings_powerOn_inRange : DriveSettings.powerOn.inRange := by
  unfold DriveSettings.inRange; decide

@[simp] theorem reset_zone (k : Fin 12) : State.reset.zones[k] = .powerOn := by simp [State.reset]

@[simp] theorem reset_side (sd : Side) : State.reset.lev.get sd = .powerOn := by cases sd <;> rfl

@[simp] theorem reset_drive (d : Drive) : State.reset.feed.get d = .powerOn := by cases d <;> rfl

@[simp] theorem reset_port (p : Port) : State.reset.ports.get p = .powerOn := by cases p <;> rfl

@[simp] theorem reset_sideSettings (sd : Side) : State.reset.settings.sides.get sd = .powerOn := by cases sd <;> rfl

@[simp] theorem reset_driveSettings (d : Drive) : State.reset.settings.drives.get d = .powerOn := by cases d <;> rfl

@[simp] theorem reset_zoneSettings (k : Fin 12) : State.reset.settings.zones[k] = .powerOn k := by
  simp [State.reset, Settings.powerOn]

@[simp] theorem reset_calibration (c : Fin 31) : State.reset.settings.cals[c] = .powerOn c := by
  simp [State.reset, Settings.powerOn]

@[simp] theorem reset_mask (p : Port) : State.reset.settings.masks.get p = 0#16 := by cases p <;> rfl

@[simp] theorem reset_round (cls : SampleClass) :
    State.reset.seq.rounds.get cls = { counter := 1, late := false, lateCount := 0 } := by cases cls <;> rfl

@[simp] theorem reset_result (c : Fin 34) : State.reset.seq.results[c] = .unconverted := by
  simp [State.reset, Sequencer.started]

theorem reset_converter : State.reset.seq.converter = .settling 0 1 (State.reset.now + 15) := by decide

theorem reset_period :
    State.reset.timers.period =
      { fast := State.reset.now + 2000, medium := State.reset.now + 10000, slow := State.reset.now + 100000 } := by decide

theorem reset_waits :
    State.reset.timers.heatingWait = some (State.reset.now + 200000)
      ∧ State.reset.timers.silence = some (State.reset.now + 100000) := by decide

theorem mem_reset_queue (c : Fin 34) : c ∈ State.reset.seq.queue ↔ c.val ≠ 0 := by
  simp only [State.reset, Sequencer.started]
  exact mem_tail_finRange

/-- POWER_ON is the reset state with what stands outside the part (log entry 14). -/
theorem exec_powerOn (s : State) :
    exec .powerOn s = .next { State.reset with pending := s.pending, pins := s.pins, free := s.free } := rfl

/-- Settles O51: the reset state, block by block. -/
theorem powerOn : Obligations.PowerOn := by
  intro s
  refine ⟨_, exec_powerOn s, rfl, rfl, rfl, rfl, rfl, rfl, rfl, reset_mask, rfl, rfl, reset_sideSettings,
    reset_zoneSettings, reset_driveSettings, rfl, rfl, rfl, fun c => (reset_calibration c).trans (calibration_powerOn c),
    rfl, rfl, rfl, rfl, rfl, rfl, rfl, rfl, reset_round, reset_result, rfl, mem_reset_queue, reset_converter, reset_period,
    reset_waits.1, reset_waits.2, fun sd => ?_, fun d => ?_, rfl, rfl, rfl, rfl, rfl, rfl, rfl, rfl, fun k => ?_, rfl, rfl,
    rfl, rfl, rfl, rfl, rfl, rfl, rfl, rfl, rfl, fun p => ?_⟩
  · simp only [reset_side]; exact ⟨rfl, rfl, rfl, rfl, rfl, rfl⟩
  · simp only [reset_drive]; exact ⟨rfl, rfl, rfl, rfl⟩
  · simp only [reset_zone]; exact ⟨rfl, rfl, rfl, rfl, rfl⟩
  · simp only [reset_port]; exact ⟨rfl, rfl, rfl, rfl, rfl, rfl, rfl, rfl⟩

end PowerOn

section LawfulAtReset

theorem portLaw_reset : PortLaw State.reset := fun p => by
  simp [PortState.powerOn]

theorem settingsLaw_reset : SettingsLaw State.reset := by
  refine ⟨by decide, by decide, by decide, by decide, fun sd => ?_, fun k => ?_, fun d => ?_, ?_, fun c => ?_, by decide,
    by decide, by decide, fun p e he => ?_⟩
  · rw [reset_sideSettings]; exact sideSettings_powerOn_inRange
  · rw [reset_zoneSettings]; exact zoneSettings_powerOn_inRange k
  · rw [reset_driveSettings]; exact driveSettings_powerOn_inRange
  · unfold RecordSettings.inRange; decide
  · rw [reset_calibration]; exact calibration_powerOn_inRange c
  · rw [reset_port] at he; cases he

theorem capacityLaw_reset : CapacityLaw State.reset :=
  ⟨by decide, rfl, by decide, .nil, nofun, by decide, by decide⟩

theorem grantLaw_reset : GrantLaw State.reset := by
  refine ⟨fun k => ?_, fun _ => rfl, nofun, fun k => ?_, fun _ => rfl, fun h => absurd rfl h⟩
  · rw [reset_zone]; exact ⟨fun _ => rfl, fun _ => rfl⟩
  · rw [reset_zone]; exact nofun

theorem demandLaw_reset : DemandLaw State.reset := fun k => by
  rw [reset_zone]; simp [ZoneUnit.powerOn]

theorem recordLaw_reset : RecordLaw State.reset :=
  ⟨nofun, nofun, Nat.zero_le _, Nat.zero_le _, ⟨Nat.le_refl _, by simp [State.reset]⟩, nofun⟩

/-- The empty store: the next record is number 1, which follows newest 0 (R134, R146). -/
theorem storeLaw_reset : StoreLaw State.reset :=
  ⟨trivial, nofun, Nat.zero_le _, ⟨Nat.le_refl _, by simp [State.reset, Store.powerOn]⟩, Nat.zero_le _, rfl, rfl,
    ⟨0, Nat.le_refl _, rfl⟩, Nat.zero_le _, rfl, fun _ _ h => by rcases h with h | h <;> cases h⟩

/-- Settles O55, law by law; chapters 1 to 4 by `machineLaws_reset`. -/
theorem lawfulAtReset : Obligations.LawfulAtReset := by
  obtain ⟨htravel, hseq, hlev, hread, hfeed⟩ := machineLaws_reset
  exact ⟨portLaw_reset, settingsLaw_reset, htravel, hseq, hlev, hread, hfeed, capacityLaw_reset, grantLaw_reset,
    demandLaw_reset, recordLaw_reset, storeLaw_reset⟩

end LawfulAtReset
end Sys2Proof.Machine

/-! # Family 03: every command keeps the laws of the ports and the settings -/

namespace Sys2Proof.Machine

section StationLaws

/-- The laws of what a station deals with: the ports and the settings table, of chapters 9 and 10. -/
def StationLaws (s : State) : Prop := PortLaw s ∧ SettingsLaw s

theorem Lawful.stationLaws {s : State} (h : Lawful s) : StationLaws s := by
  obtain ⟨hport, hsettings, -⟩ := h
  exact ⟨hport, hsettings⟩

variable {s t : State} {p : Port}

theorem stationLaws_takeRequest (p : Port) (h : StationLaws s) : StationLaws (takeRequest p s) := by
  obtain ⟨hport, hsettings⟩ := h
  exact ⟨portLaw_take hport, by simpa⟩

theorem stationLaws_answer (p : Port) (a : Answer) (h : StationLaws s) : StationLaws (answer p a s) := by
  obtain ⟨hport, hsettings⟩ := h
  exact ⟨portLaw_answer hport, by simpa⟩

theorem stationLaws_answerCode (p : Port) (c : AnswerCode) (h : StationLaws s) : StationLaws (answerCode p c s) :=
  stationLaws_answer p _ h

/-- A change at one port keeps the laws when it keeps the port's own law and posts nothing. -/
theorem stationLaws_modifyPort {f : PortState → PortState} (h : StationLaws s)
    (hport : ∀ u, PortLawful (s.settings.masks.get p) u → PortLawful (s.settings.masks.get p) (f u))
    (hqueue : ∀ u, ∀ e ∈ (f u).queue, e ∈ u.queue) : StationLaws (s.modifyPort p f) := by
  obtain ⟨hports, hsettings⟩ := h
  obtain ⟨htable, hvalid⟩ := SettingsLaw_iff.1 hsettings
  refine ⟨portLaw_modify hports hport, SettingsLaw_iff.2 ⟨htable, fun q e he => ?_⟩⟩
  simp only [State.modifyPort, State.withPorts_ports, PerPort.get_set] at he
  split at he
  · exact hvalid p e (hqueue _ e he)
  · exact hvalid q e he

/-- A port whose line is set anew from its mask is lawful when its presence and its queue are (R169). -/
theorem PortLawful_reline {mask : AlertSet} {u v : PortState} (h : PortLawful mask u) (hpresent : v.present = u.present)
    (hdue : v.presenceDue = u.presenceDue) (hqueue : v.queue.length ≤ u.queue.length) :
    PortLawful mask (v.reline mask) := by
  obtain ⟨-, hpresence, hlength⟩ := h
  exact reline_ok (by rw [hpresent, hdue, hpresence]) (hqueue.trans hlength)

theorem stationLaws_takeAlerts (h : StationLaws s) (hx : exec (.takeAlerts p) s = .next t) : StationLaws t := by
  cases hx
  exact stationLaws_answer p _
    (stationLaws_modifyPort (stationLaws_takeRequest p h) (fun _ hu => PortLawful_reline hu rfl rfl (Nat.le_refl _))
      fun _ _ he => he)

theorem stationLaws_alertDone (h : StationLaws s) (hx : exec (.alertDone p) s = .next t) : StationLaws t := by
  cases hx
  exact stationLaws_answerCode p _
    (stationLaws_modifyPort (stationLaws_takeRequest p h) (fun _ hu => PortLawful_reline hu rfl rfl (Nat.le_refl _))
      fun _ _ he => he)

theorem stationLaws_page {value : Byte} (h : StationLaws s) (hx : exec (.page p value) s = .next t) : StationLaws t := by
  simp only [exec, execPage, Host.Outcome.next.injEq] at hx
  subst hx
  have htaken := stationLaws_takeRequest p h
  split
  · exact stationLaws_answerCode p _ (stationLaws_modifyPort htaken (fun _ hu => hu) fun _ _ he => he)
  · exact stationLaws_answerCode p _ htaken

/-- PORT-RESET empties the queue and sets the line anew from no pending kind (R172). -/
theorem stationLaws_portReset (h : StationLaws s) (hx : exec (.portReset p) s = .next t) : StationLaws t := by
  cases hx
  have hreset := stationLaws_modifyPort (p := p) (f := PortState.reset ((takeRequest p s).settings.masks.get p))
    (stationLaws_takeRequest p h) (fun _ hu => PortLawful_reline hu rfl rfl (Nat.zero_le _))
    (fun _ _ he => absurd he List.not_mem_nil)
  refine stationLaws_answerCode p _ ?_
  split <;> exact hreset

theorem stationLaws_badFrame {checkPassed : Bool} (h : StationLaws s)
    (hx : exec (.badFrame p checkPassed) s = .next t) : StationLaws t := by
  cases hx
  refine stationLaws_answerCode p _ ?_
  obtain ⟨hport, hsettings⟩ := h
  split
  · exact ⟨portLaw_heard hport, by simpa⟩
  · exact ⟨hport, hsettings⟩

theorem stationLaws_read {item : Byte} {pins : Pins} (h : StationLaws s) (hx : exec (.read p item pins) s = .next t) :
    StationLaws t := by
  simp only [exec, execRead, Host.Outcome.next.injEq] at hx
  subst hx
  have htaken : StationLaws ((takeRequest p s).withPins pins) := stationLaws_takeRequest p h
  split
  · exact stationLaws_answerCode p _ htaken
  · split
    · exact stationLaws_answerCode p _ htaken
    · exact stationLaws_answer p _ htaken

/-- A WRITE posts an entry only below four entries, and one that its item can hold (R150, R151, R152). -/
theorem stationLaws_postEntry {st : Setting} {v : Word} {a : Answer} {e : PostEntry} (h : StationLaws s)
    (hjudged : judgeWrite s p st v = (a, some e)) : StationLaws (postEntry p e s) := by
  obtain ⟨hport, hsettings⟩ := h
  obtain ⟨-, -, -, -, hroom, -⟩ := judgeWrite_some hjudged
  have hduty (sd : Side) : (s.settings.sides.get sd).minDuty ≤ 400 := by
    obtain ⟨-, -, -, -, hsides, -⟩ := hsettings
    obtain ⟨-, -, -, -, hmin, -⟩ := hsides sd
    exact hmin
  refine ⟨fun q => ?_, SettingsLaw_post hsettings (judged_valid hduty hjudged)⟩
  rw [postEntry_ports, PerPort.get_set]
  split
  · rename_i hq
    subst hq
    obtain ⟨hline, hpresence, -⟩ := hport q
    refine ⟨hline, hpresence, ?_⟩
    rw [List.length_append]
    exact hroom
  · exact hport q

theorem stationLaws_write {item : Byte} {value : Word} (h : StationLaws s) (hx : exec (.write p item value) s = .next t) :
    StationLaws t := by
  simp only [exec, execWrite, Host.Outcome.next.injEq] at hx
  subst hx
  have htaken := stationLaws_takeRequest p h
  split
  · exact stationLaws_answerCode p _ htaken
  · split
    · exact stationLaws_answer p _ htaken
    · exact stationLaws_answer p _ (stationLaws_postEntry htaken ‹_›)

/-- An entry that passes its check leaves the table in its ranges, with one side in SLOPE at most (R36, R37, R151, R154). -/
theorem SettingsLaw_storeSetting_entry {e : PostEntry} (hvalid : e.valid) (hpass : applicationPasses s.settings e = true)
    (h : SettingsLaw s) : SettingsLaw (storeSetting e.item e.value s) := by
  obtain ⟨htable, hqueues⟩ := SettingsLaw_iff.1 h
  exact SettingsLaw_settingApplied.2 (SettingsLaw_iff.2 ⟨TableLawful_write htable e hvalid hpass, hqueues⟩)

theorem SettingsLaw_applyEntry {e : PostEntry} (p : Port) (hvalid : e.valid)
    (hpass : applicationPasses s.settings e = true) (h : SettingsLaw s) : SettingsLaw (applyEntry p e s) := by
  refine (SettingsLaw_modq ?_).2 ((SettingsLaw_raiseOthers _ _).2 (SettingsLaw_storeSetting_entry hvalid hpass h))
  exact fun _ => rfl

theorem stationLaws_application (h : StationLaws s) (hx : exec (.application p) s = .next t) : StationLaws t := by
  cases hq : (s.ports.get p).queue with
  | nil =>
    simp only [exec, execApplication, hq, Host.Outcome.next.injEq] at hx
    exact hx ▸ h
  | cons e rest =>
    rw [application_eq hq] at hx
    cases hx
    obtain ⟨hport, hsettings⟩ := h
    have hvalid : e.valid := (SettingsLaw_iff.1 hsettings).2 p e (by simp [hq])
    have hport' : PortLaw (s.reach (max e.due (s.ports.get p).applyAfter)) := pl_reach hport
    have hsettings' : SettingsLaw (s.reach (max e.due (s.ports.get p).applyAfter)) := by simpa
    have hpopped := pl_popEntry hport' (p := p) (e := e) (rest := rest) (by simpa using hq)
    have hpopped' := SettingsLaw_pop hsettings' (p := p) (e := e) (rest := rest) (by simpa using hq)
    split
    · exact ⟨pl_applyEntry hpopped, SettingsLaw_applyEntry p hvalid (by simpa) hpopped'⟩
    · exact ⟨pl_rejectEntry hpopped, (SettingsLaw_rejectEntry p e).2 hpopped'⟩

theorem stationLaws_presenceTimeout (h : StationLaws s) (hx : exec (.presenceTimeout p) s = .next t) : StationLaws t := by
  simp only [exec, execPresenceTimeout, Host.Outcome.next.injEq] at hx
  subst hx
  obtain ⟨hport, hsettings⟩ := h
  split
  · exact ⟨pl_goAbsent (pl_reachOpt hport), by simpa⟩
  · exact ⟨hport, hsettings⟩

/-- A side request keeps the laws when the act it names does (R42). -/
theorem stationLaws_sideRequest {item : Byte} {act : Side → State → State} (h : StationLaws s)
    (hact : ∀ sd u, StationLaws u → StationLaws (act sd u)) : StationLaws (sideRequest p item act s) := by
  have htaken := stationLaws_takeRequest p h
  simp only [sideRequest]
  split
  · exact stationLaws_answerCode p _ htaken
  · split
    · exact hact _ _ htaken
    · exact stationLaws_answerCode p _ htaken

theorem stationLaws_engage {item : Byte} (h : StationLaws s) (hx : exec (.engage p item) s = .next t) : StationLaws t := by
  cases hx
  exact stationLaws_sideRequest h fun sd _ ⟨hport, hsettings⟩ => ⟨pl_engageSide hport, by simpa⟩

theorem stationLaws_disengage {item : Byte} (h : StationLaws s) (hx : exec (.disengage p item) s = .next t) :
    StationLaws t := by
  cases hx
  exact stationLaws_sideRequest h fun sd _ ⟨hport, hsettings⟩ => ⟨pl_disengageSide hport, by simpa⟩

theorem stationLaws_setZero {item : Byte} (h : StationLaws s) (hx : exec (.setZero p item) s = .next t) :
    StationLaws t := by
  cases hx
  exact stationLaws_sideRequest h fun sd _ ⟨hport, hsettings⟩ =>
    ⟨pl_setZeroSide hport, SettingsLaw_setZeroSide hsettings⟩

theorem stationLaws_jog {item direction : Byte} {duty : Word} (h : StationLaws s)
    (hx : exec (.jog p item direction duty) s = .next t) : StationLaws t := by
  simp only [exec, execJog, Host.Outcome.next.injEq] at hx
  subst hx
  split
  · exact stationLaws_answerCode p _ (stationLaws_takeRequest p h)
  · exact stationLaws_sideRequest h fun sd _ ⟨hport, hsettings⟩ => ⟨pl_jogSide hport, by simpa⟩

theorem stationLaws_restart (h : StationLaws s) (hx : exec (.restart p) s = .next t) : StationLaws t := by
  cases hx
  have htaken := stationLaws_takeRequest p h
  split
  · obtain ⟨hport, hsettings⟩ := htaken
    exact stationLaws_answerCode p _ ⟨pl_restartPart hport, SettingsLaw_restartPart.2 hsettings⟩
  · exact stationLaws_answerCode p _ htaken

/-- The commands that change a port or a setting by more than a raise and an answer, the side requests, and RESTART. -/
def reachesStation : Instr → Bool
  | .powerOn | .read _ _ _ | .write _ _ _ | .page _ _ | .takeAlerts _ | .alertDone _ | .engage _ _ | .disengage _ _
  | .setZero _ _ | .jog _ _ _ _ | .restart _ | .portReset _ | .badFrame _ _ | .application _
  | .presenceTimeout _ => true
  | .forwardPulse | .reversePulse | .radarPulse | .secondsCountTick | .speedWindowExpiry | .plausibilityWindowExpiry
  | .classPeriodExpiry _ | .converterTake | .settleEnd | .conversionCompletion _ _ | .overloadRecoveryEnd
  | .sampleTimerExpiry | .jogTimerExpiry _ | .prefillTimerExpiry _ | .scannerLine _ _ | .scannerSilenceExpiry | .sliceStart
  | .heatingWaitEnd | .readback _ | .trip _ | .prefill _ _ | .clearFault _ _ _ | .fetch _ | .release _ _ | .rewind _
  | .copyCompletion | .heldAnswerExpiry | .scannerRunStart => false

/-- The commands of the blocks: each operation they are made of keeps the laws, by its own lemma. -/
theorem stationLaws_elsewhere {c : Instr} (hc : reachesStation c = false) (h : StationLaws s)
    (hx : exec c s = .next t) : StationLaws t := by
  obtain ⟨hport, hsettings⟩ := h
  cases c with
  | forwardPulse | reversePulse | radarPulse | secondsCountTick | speedWindowExpiry | plausibilityWindowExpiry
  | classPeriodExpiry | converterTake | settleEnd | conversionCompletion | overloadRecoveryEnd | sampleTimerExpiry
  | jogTimerExpiry | prefillTimerExpiry | prefill | clearFault | scannerLine | scannerSilenceExpiry
  | sliceStart | heatingWaitEnd | readback | trip | fetch | release | rewind | copyCompletion | heldAnswerExpiry
  | scannerRunStart =>
    simp only [exec, execForwardPulse, execReversePulse, execRadarPulse, execSecondsCountTick, execSpeedWindowExpiry,
      execPlausibilityWindowExpiry, execClassPeriodExpiry, execConverterTake, execSettleEnd, execConversionCompletion,
      execOverloadRecoveryEnd, execSampleTimerExpiry, execJogTimerExpiry, execPrefillTimerExpiry, execPrefill,
      execClearFault, execScannerLine, execScannerSilenceExpiry, execSliceStart, execHeatingWaitEnd,
      execReadback, execTrip, execFetch, execRelease, execRewind, execCopyCompletion, execHeldAnswerExpiry,
      execScannerRunStart, Host.Outcome.next.injEq] at hx
    subst hx
    unfold StationLaws
    (repeat' split) <;> simp [hport, hsettings]
  | _ => cases hc

theorem stationLaws_powerOn (hx : exec .powerOn s = .next t) : StationLaws t := by
  rw [exec_powerOn] at hx
  cases hx
  exact ⟨portLaw_reset, settingsLaw_reset⟩

/-- Every command keeps the laws of the ports and the settings. -/
theorem stationLaws_exec (c : Instr) (h : StationLaws s) (hx : exec c s = .next t) : StationLaws t := by
  cases c with
  | powerOn => exact stationLaws_powerOn hx
  | read => exact stationLaws_read h hx
  | write => exact stationLaws_write h hx
  | page => exact stationLaws_page h hx
  | takeAlerts => exact stationLaws_takeAlerts h hx
  | alertDone => exact stationLaws_alertDone h hx
  | engage => exact stationLaws_engage h hx
  | disengage => exact stationLaws_disengage h hx
  | setZero => exact stationLaws_setZero h hx
  | jog => exact stationLaws_jog h hx
  | restart => exact stationLaws_restart h hx
  | portReset => exact stationLaws_portReset h hx
  | badFrame => exact stationLaws_badFrame h hx
  | application => exact stationLaws_application h hx
  | presenceTimeout => exact stationLaws_presenceTimeout h hx
  | _ => exact stationLaws_elsewhere rfl h hx

/-- Settles O56, command by command: the queues and the table by the request that writes them, the lines by R169. -/
theorem portAndSettingLawsKept : Obligations.PortAndSettingLawsKept := fun _ _ hs =>
  step_keeps (law := StationLaws) (fun _ _ h => h) (fun _ _ h => h) (fun _ _ h => h) (fun c _ _ => stationLaws_exec c)
    hs.stationLaws

end StationLaws
end Sys2Proof.Machine

/-! # Family 03: the reference of a side, its reading and its deviation

The heads and the reading of each reference mode, what a sample keeps of a reading, and the deviation with its bounds. -/

namespace Sys2Proof.Machine

section Heads

variable {s : State} {sd : Side}

theorem validHead_iff {e : ResultEntry} :
    validHead e = true ↔ e.quality = .good ∧ 1 ≤ e.value ∧ e.value ≤ 9999 := by
  simp [validHead, and_assoc]

theorem mem_validSelected {h : Fin 4} {x : Nat} :
    (h, x) ∈ validSelected s sd ↔
      (s.settings.sides.get sd).heads.getLsbD h.val = true ∧ (headEntry s sd h).quality = .good
        ∧ 1 ≤ (headEntry s sd h).value ∧ (headEntry s sd h).value ≤ 9999 ∧ (x : Int) = (headEntry s sd h).value := by
  simp only [validSelected, List.mem_map, List.mem_filter, List.mem_finRange, true_and, Bool.and_eq_true, validHead_iff,
    Prod.mk.injEq]
  constructor
  · rintro ⟨k, ⟨hbit, hgood, hlow, hhigh⟩, rfl, rfl⟩
    exact ⟨hbit, hgood, hlow, hhigh, by omega⟩
  · rintro ⟨hbit, hgood, hlow, hhigh, hx⟩
    exact ⟨h, ⟨hbit, hgood, hlow, hhigh⟩, rfl, by omega⟩

theorem validSelected_pairwise (s : State) (sd : Side) : (validSelected s sd).Pairwise fun a b => a.1 < b.1 :=
  List.pairwise_map.2 ((List.pairwise_lt_finRange 4).filter _)

/-- The lowest selected head is the selected one below which none is selected. -/
theorem lowestHead_eq_some {heads : BitVec 4} {h : Fin 4} (hselected : heads.getLsbD h.val = true)
    (hlowest : ∀ k : Fin 4, k < h → heads.getLsbD k.val = false) : lowestHead heads = some h := by
  cases hfound : lowestHead heads with
  | none => exact absurd hselected (List.find?_eq_none.1 hfound h (List.mem_finRange h))
  | some w =>
    unfold lowestHead at hfound
    have hw := List.find?_some hfound
    obtain ⟨-, before, after, hsplit, hbefore⟩ := List.find?_eq_some_iff_append.1 hfound
    have hmem : h ∈ before ++ w :: after := hsplit ▸ List.mem_finRange h
    have hsorted : (before ++ w :: after).Pairwise (· < ·) := hsplit ▸ List.pairwise_lt_finRange 4
    rcases List.mem_append.1 hmem with hin | hin
    · have hskipped := hbefore h hin
      rw [hselected] at hskipped
      cases hskipped
    · rcases List.mem_cons.1 hin with rfl | hin
      · rfl
      · obtain ⟨-, htail, -⟩ := List.pairwise_append.1 hsorted
        have hlt : w < h := (List.pairwise_cons.1 htail).1 h hin
        rw [hlowest w hlt] at hw
        cases hw

end Heads

section Beam

variable {hs : List (Fin 4 × Nat)} {a : Fin 4 × Nat} {v sum : Nat}

theorem rejectedHead_ne_none (hne : hs ≠ []) : rejectedHead v sum hs ≠ none := by
  cases hs with
  | nil => exact absurd rfl hne
  | cons x rest =>
    simp only [rejectedHead]
    split
    · simp
    · split <;> simp

/-- The rejected head has the largest scaled deviation, and of those that have it the highest number (R51). -/
theorem rejectedHead_largest (hsorted : hs.Pairwise fun a b => a.1 < b.1) (hrejected : rejectedHead v sum hs = some a) :
    ∀ b ∈ hs, scaledDeviation v sum b.2 ≤ scaledDeviation v sum a.2
      ∧ (scaledDeviation v sum b.2 = scaledDeviation v sum a.2 → b.1 ≤ a.1) := by
  induction hs generalizing a with
  | nil => exact nofun
  | cons x rest ih =>
    obtain ⟨hx, hrest⟩ := List.pairwise_cons.1 hsorted
    simp only [rejectedHead] at hrejected
    split at hrejected
    case h_1 hnone =>
      cases hrejected
      have hempty : rest = [] := by_contra fun hne => rejectedHead_ne_none hne hnone
      simp [hempty]
    case h_2 y hy =>
      have hlargest := ih hrest hy
      have hxy : x.1 < y.1 := hx y (rejected_mem v sum hy)
      split at hrejected <;> cases hrejected <;> intro b hb <;> rcases List.mem_cons.1 hb with rfl | hb
      · exact ⟨Nat.le_refl _, fun _ => le_refl _⟩
      · have := (hlargest b hb).1
        exact ⟨by omega, by omega⟩
      · exact ⟨by omega, fun _ => hxy.le⟩
      · exact hlargest b hb

/-- Heads of distinct numbers: leaving one out by its number takes it, and no other, out of the list. -/
theorem filter_ne_head_eq_erase (hsorted : hs.Pairwise fun a b => a.1 < b.1) (ha : a ∈ hs) :
    hs.filter (fun b => b.1 != a.1) = hs.erase a := by
  have hnodup : (hs.map Prod.fst).Nodup := List.pairwise_map.2 (hsorted.imp fun h => h.ne)
  rw [hnodup.of_map.erase_eq_filter]
  refine List.filter_congr fun b hb => ?_
  have hiff : b.1 = a.1 ↔ b = a := ⟨fun h => List.inj_on_of_nodup_map hnodup hb ha h, fun h => h ▸ rfl⟩
  rw [Bool.eq_iff_iff, bne_iff_ne, bne_iff_ne, ne_eq, hiff]

theorem beamReading_of_two (h : hs.length = 2) : beamReading hs = ((hs.map Prod.snd).sum + 1) / 2 := by
  simp [beamReading, beamHeads, h, divHalfUp]

/-- The reading of three or four heads is the average of the others than the rejected one, rounded half up (R51). -/
theorem beamReading_of_three (h : 3 ≤ hs.length) (hsorted : hs.Pairwise fun a b => a.1 < b.1)
    (hrejected : rejectedHead hs.length (hs.map Prod.snd).sum hs = some a) :
    beamReading hs = ((hs.map Prod.snd).sum - a.2 + (hs.length - 1) / 2) / (hs.length - 1) := by
  have ha : a ∈ hs := rejected_mem _ _ hrejected
  have hheads : beamHeads hs = hs.erase a := by
    simp only [beamHeads, if_pos h, hrejected]
    exact filter_ne_head_eq_erase hsorted ha
  have hsum : ((hs.erase a).map Prod.snd).sum = (hs.map Prod.snd).sum - a.2 := by
    rw [((List.perm_cons_erase ha).map Prod.snd).sum_eq, List.map_cons, List.sum_cons, Nat.add_sub_cancel_left]
  rw [beamReading, hheads, hsum, List.length_erase_of_mem ha, divHalfUp]

theorem scaledDeviation_eq (v sum h : Nat) : scaledDeviation v sum h = (((v * h : Nat) : Int) - sum).natAbs := by
  rw [scaledDeviation, Nat.cast_mul]

end Beam

section Reference

variable {s : State} {sd : Side}

theorem judgeReference_beam (hmode : (s.settings.sides.get sd).refMode = .beam) :
    judgeReference s sd =
      (if 2 ≤ (validSelected s sd).length then some ((beamReading (validSelected s sd) : Nat) : Int) else none,
        (validSelected s sd).length) := by
  simp only [judgeReference, hmode]

theorem judgeReference_single {h : Fin 4} (hmode : (s.settings.sides.get sd).refMode = .single)
    (hlowest : lowestHead (s.settings.sides.get sd).heads = some h) :
    judgeReference s sd = if validHead (headEntry s sd h) then (some (headEntry s sd h).value, 1) else (none, 0) := by
  simp only [judgeReference, hmode, hlowest]

theorem judgeReference_slope (hmode : (s.settings.sides.get sd).refMode = .slope) :
    judgeReference s sd =
      (if s.seq.results[(8 : Fin 34)].quality = .good then
          some (clampInt (-1000) 1000 s.seq.results[(8 : Fin 34)].value)
        else none, 0) := by
  simp only [judgeReference, hmode]

/-- The reference is judged from the result table and the side's settings alone. -/
theorem judgeReference_congr {u : State} (hseq : u.seq = s.seq) (hsettings : u.settings = s.settings) :
    judgeReference u sd = judgeReference s sd := by
  unfold judgeReference validSelected headEntry
  rw [hseq, hsettings]

/-- The deviation counts from the side's target, its settings and the width. -/
theorem deviation_congr {u : State} (htarget : (u.lev.get sd).target = (s.lev.get sd).target)
    (hsettings : u.settings = s.settings) (htravel : u.travel = s.travel) (x : Int) :
    deviation u sd x = deviation s sd x := by
  simp only [deviation, htarget, hsettings, htravel]

theorem deviation_target {n : Nat} (x : Int) (hmode : (s.settings.sides.get sd).refMode ≠ .slope)
    (htarget : (s.lev.get sd).target = some n) :
    deviation s sd x = x - ((n : Int) + (s.settings.sides.get sd).offset) := by
  unfold deviation
  cases hm : (s.settings.sides.get sd).refMode with
  | slope => exact absurd hm hmode
  | beam | single => simp [hm, htarget]

theorem deviation_slope (x : Int) :
    (s.settings.sides.get sd).refMode = .slope →
      deviation s sd x =
        match sd with
        | .left => divHalfAway ((x - (s.settings.sides.get sd).slopeTarget) * s.travel.width) 1000
        | .right => -divHalfAway ((x - (s.settings.sides.get sd).slopeTarget) * s.travel.width) 1000 := by
  intro hmode
  cases sd <;> simp only [deviation, hmode]

end Reference

section Measured

variable {s : State} {sd : Side} {x e : Int} {n : Nat} {u : SideUnit} {t : SideSettings} {levels : Bool}

/-- A sample with a usable reference works on its own side alone (R49). -/
theorem sampleSide_usable (hjudged : judgeReference s sd = (some x, n)) :
    sampleSide sd s =
      s.modifySide sd fun v =>
        v.usableSample (s.settings.sides.get sd) (levelsNow s) x n (deviation s sd x) := by
  simp only [sampleSide, hjudged]
  rfl

theorem sampleSide_usable_side (hjudged : judgeReference s sd = (some x, n)) :
    (sampleSide sd s).lev.get sd =
      (s.lev.get sd).usableSample (s.settings.sides.get sd) (levelsNow s) x n (deviation s sd x) := by
  simp [sampleSide_usable hjudged, State.modifySide]

/-- The drive of a side in AUTO sets its valves and nothing else (R54, R55). -/
theorem driveFor_eq (u : SideUnit) (t : SideSettings) (levels : Bool) (e : Int) :
    u.driveFor t levels e =
      { u with
        raise := if 0 < e then 0 else if levels then dutyOf t e else 0
        lower := if 0 < e then if levels then dutyOf t e else 0 else 0 } := by
  by_cases he : 0 < e <;> simp [SideUnit.driveFor, directionOf, SideUnit.drive, he]

theorem usableSample_auto (hstate : u.state = .auto) :
    u.usableSample t levels x n e = (u.measured x n e).driveFor t levels e := by
  simp only [SideUnit.usableSample, hstate]

theorem usableSample_lost (hstate : u.state = .lost) (hrun : u.goodRun < 9) :
    u.usableSample t levels x n e = { u.measured x n e with goodRun := u.goodRun + 1 } := by
  simp only [SideUnit.usableSample, hstate]
  exact if_neg (by omega)

/-- The tenth usable sample in a row is one that a side in AUTO takes (R40). -/
theorem usableSample_returning (hstate : u.state = .lost) (hrun : 9 ≤ u.goodRun) :
    u.usableSample t levels x n e =
      { u with state := .auto, goodRun := 0 }.usableSample t levels x n e := by
  simp only [SideUnit.usableSample, hstate]
  exact if_pos (by omega)

theorem usableSample_manual (hstate : u.state = .manual) : u.usableSample t levels x n e = u := by
  simp only [SideUnit.usableSample, hstate]

/-- What every usable sample of a side in AUTO or LOST leaves, whatever the side does with it (R51 to R53, R57). -/
theorem usableSample_measures (hstate : u.state ≠ .manual) :
    (u.usableSample t levels x n e).lastReading = x ∧ (u.usableSample t levels x n e).validHeads = n
      ∧ (u.usableSample t levels x n e).lastDeviation = e
      ∧ (u.usableSample t levels x n e).stepMax = min 16383 (max u.stepMax e.natAbs) := by
  cases hs : u.state with
  | manual => exact absurd hs hstate
  | auto =>
    rw [usableSample_auto hs, driveFor_eq]
    exact ⟨rfl, rfl, rfl, rfl⟩
  | lost =>
    by_cases hrun : u.goodRun < 9
    · rw [usableSample_lost hs hrun]
      exact ⟨rfl, rfl, rfl, rfl⟩
    · rw [usableSample_returning hs (Nat.not_lt.1 hrun), usableSample_auto rfl, driveFor_eq]
      exact ⟨rfl, rfl, rfl, rfl⟩

theorem sampleSide_measures (hjudged : judgeReference s sd = (some x, n)) (hstate : (s.lev.get sd).state ≠ .manual) :
    ((sampleSide sd s).lev.get sd).lastReading = x ∧ ((sampleSide sd s).lev.get sd).validHeads = n
      ∧ ((sampleSide sd s).lev.get sd).lastDeviation = deviation s sd x
      ∧ ((sampleSide sd s).lev.get sd).stepMax = min 16383 (max (s.lev.get sd).stepMax (deviation s sd x).natAbs) := by
  rw [sampleSide_usable_side hjudged]
  exact usableSample_measures hstate

end Measured

section ReferenceReading

variable {s : State} {sd : Side}

theorem beam_usable_iff (hmode : (s.settings.sides.get sd).refMode = .beam) {x : Int} :
    (judgeReference s sd).1 = some x ↔
      2 ≤ (validSelected s sd).length ∧ ((beamReading (validSelected s sd) : Nat) : Int) = x := by
  rw [judgeReference_beam hmode]
  by_cases h : 2 ≤ (validSelected s sd).length <;> simp [h]

/-- Settles O15: the heads by `mem_validSelected`, the rejected one by `rejectedHead_largest`, the rest by the equation of
each reference mode. -/
theorem referenceReading : Obligations.ReferenceReading := by
  refine ⟨fun s sd hmode => ?_, fun s sd => ⟨fun hmode h hselected hlowest => ?_, fun hmode => ?_,
    fun x n hjudged hstate => ?_⟩⟩
  · intro hs sum v
    have hsorted := validSelected_pairwise s sd
    refine ⟨fun h x => mem_validSelected, hsorted, by rw [judgeReference_beam hmode], fun hv => ?_, fun hv => ?_,
      fun hv => ?_, fun x hx => ?_⟩
    · rw [judgeReference_beam hmode]
      exact if_neg (Nat.not_le.2 hv)
    · exact (beam_usable_iff hmode).2 ⟨hv.ge, congrArg _ (beamReading_of_two hv)⟩
    · obtain ⟨a, ha⟩ : ∃ a, rejectedHead v sum hs = some a :=
        Option.ne_none_iff_exists'.1 (rejectedHead_ne_none (List.ne_nil_of_length_pos (by omega)))
      refine ⟨a, rejected_mem _ _ ha, fun b hb => ?_,
        (beam_usable_iff hmode).2 ⟨Nat.le_of_succ_le hv, congrArg _ (beamReading_of_three hv hsorted ha)⟩⟩
      rw [← scaledDeviation_eq, ← scaledDeviation_eq]
      exact rejectedHead_largest hsorted ha b hb
    · obtain ⟨hlength, hreading⟩ := (beam_usable_iff hmode).1 hx
      have hbounds := beam_bounds hlength
      refine ⟨by omega, by omega, fun hstate => ?_⟩
      have hjudged : judgeReference s sd = (some x, v) := Prod.ext hx (by rw [judgeReference_beam hmode])
      obtain ⟨hlast, hheads, -⟩ := sampleSide_measures hjudged hstate
      exact ⟨hlast, hheads⟩
  · rw [judgeReference_single hmode (lowestHead_eq_some hselected hlowest)]
    exact ⟨fun hvalid => if_pos hvalid, fun hinvalid => by simp [hinvalid]⟩
  · rw [judgeReference_slope hmode]
    exact ⟨fun hgood => by rw [if_pos hgood, clampInt_eq (by decide)], fun hbad => if_neg hbad⟩
  · obtain ⟨hlast, hheads, -⟩ := sampleSide_measures hjudged hstate
    exact ⟨hlast, hheads⟩

end ReferenceReading

section DeviationBounds

variable {s : State} {sd : Side} {x : Int}

/-- Half away from zero, a magnitude of at most 1000 k has a thousandth of at most k. -/
theorem divHalfAway_thousand_le {n : Int} {k : Nat} (h : n.natAbs ≤ 1000 * k) : (divHalfAway n 1000).natAbs ≤ k := by
  obtain ⟨hmagnitude, -⟩ := divHalfAway_spec (n := n) (d := 1000) (by decide)
  have hthousand : (1000 : Int).natAbs = 1000 := rfl
  rw [hthousand] at hmagnitude
  omega

theorem deviation_le_of_target {k : Nat} (hs : SettingsLaw s) (hr : ReadingLaw s)
    (hmode : (s.settings.sides.get sd).refMode ≠ .slope) (htarget : (s.lev.get sd).target = some k)
    (hx : 1 ≤ x ∧ x ≤ 9999) : (deviation s sd x).natAbs ≤ 10498 := by
  obtain ⟨-, -, -, -, hsides, -⟩ := hs
  obtain ⟨-, hoffset, -⟩ := hsides sd
  obtain ⟨hbounds, -⟩ := hr sd
  have hk := hbounds k htarget
  rw [deviation_target x hmode htarget]
  omega

/-- R53's bound in SLOPE: slopes differ by 2000 at most, over a width of at most 9000 mm. -/
theorem deviation_le_of_slope (hs : SettingsLaw s) (ht : TravelLaw s)
    (hmode : (s.settings.sides.get sd).refMode = .slope) (hx : -1000 ≤ x ∧ x ≤ 1000) :
    (deviation s sd x).natAbs ≤ 18000 := by
  obtain ⟨-, -, -, -, hsides, -⟩ := hs
  obtain ⟨-, -, -, -, -, -, hslope⟩ := hsides sd
  obtain ⟨-, -, -, -, -, -, -, -, -, -, hleft, hright, hwidth, -⟩ := ht
  have hproduct : ((x - (s.settings.sides.get sd).slopeTarget) * s.travel.width).natAbs ≤ 1000 * 18000 := by
    rw [Int.natAbs_mul, Int.natAbs_natCast]
    exact (Nat.mul_le_mul (by omega : _ ≤ 2000) (by omega : _ ≤ 9000)).trans (by decide)
  rw [deviation_slope x hmode]
  cases sd with
  | left => exact divHalfAway_thousand_le hproduct
  | right => exact (Int.natAbs_neg _).trans_le (divHalfAway_thousand_le hproduct)

end DeviationBounds
end Sys2Proof.Machine

/-! The model's own operation is named `deviation`; the theorem that settles the statement stands beside it. -/
namespace Sys2Proof.Proofs

open Sys2Proof.Machine

/-- Settles O16: the deviation by its equations, the bounds by the laws of the settings, the width and the targets. -/
theorem deviation : Obligations.Deviation := by
  intro s sd x t
  refine ⟨fun hmode n htarget => deviation_target x hmode htarget, fun hmode => deviation_slope x hmode,
    fun n hjudged hstate => ?_, fun hs ht hr hstate => ?_⟩
  · obtain ⟨-, -, hdeviation, -⟩ := sampleSide_measures hjudged hstate
    exact hdeviation
  · obtain ⟨-, hengaged, -⟩ := hr sd
    have htarget (hmode : t.refMode ≠ .slope) : ∃ n, (s.lev.get sd).target = some n :=
      Option.ne_none_iff_exists'.1 (hengaged hstate hmode)
    refine ⟨htarget, fun n hjudged => ⟨fun hmode => ?_, fun hmode => ?_⟩⟩
    · obtain ⟨k, hk⟩ := htarget hmode
      exact deviation_le_of_target hs hr hmode hk (((judge_bounds hjudged).2 x rfl).1 hmode)
    · exact deviation_le_of_slope hs ht hmode (((judge_bounds hjudged).2 x rfl).2 hmode)

end Sys2Proof.Proofs

/-! # Family 03: the sample of a side and the FAST round

A sample as one update of its side and of the ports, then the duty, the loss and return, and the round of both sides. -/

namespace Sys2Proof.Machine

section Sample

variable {s u : State} {sd : Side} {q : Port} {n : Nat}

theorem unusableSample_auto {v : SideUnit} (hstate : v.state = .auto) :
    v.unusableSample n = { v with state := .lost, raise := 0, lower := 0, goodRun := 0, validHeads := n } := by
  simp only [SideUnit.unusableSample, hstate]
  rfl

theorem unusableSample_lost {v : SideUnit} (hstate : v.state = .lost) :
    v.unusableSample n = { v with goodRun := 0, validHeads := n } := by
  simp only [SideUnit.unusableSample, hstate]

theorem unusableSample_manual {v : SideUnit} (hstate : v.state = .manual) : v.unusableSample n = v := by
  simp only [SideUnit.unusableSample, hstate]

/-- The side as its sample leaves it (R39, R40, R49). -/
def State.sampledSide (s : State) (sd : Side) : SideUnit :=
  match judgeReference s sd with
  | (none, heads) => (s.lev.get sd).unusableSample heads
  | (some x, heads) =>
    (s.lev.get sd).usableSample (s.settings.sides.get sd) (levelsNow s) x heads (deviation s sd x)

theorem sampledSide_unusable (hjudged : judgeReference s sd = (none, n)) :
    s.sampledSide sd = (s.lev.get sd).unusableSample n := by
  simp only [State.sampledSide, hjudged]

theorem sampledSide_usable {x : Int} (hjudged : judgeReference s sd = (some x, n)) :
    s.sampledSide sd =
      (s.lev.get sd).usableSample (s.settings.sides.get sd) (levelsNow s) x n (deviation s sd x) := by
  simp only [State.sampledSide, hjudged]

/-- Whether a sample sends its side from AUTO to LOST (R39). -/
def State.losesReference (s : State) (sd : Side) : Prop := (judgeReference s sd).1 = none ∧ (s.lev.get sd).state = .auto

/-- A sample reads its side, the result table, the settings and the travel unit, and nothing else. -/
theorem sampledSide_congr (hside : u.lev.get sd = s.lev.get sd) (hseq : u.seq = s.seq) (hsettings : u.settings = s.settings)
    (htravel : u.travel = s.travel) : u.sampledSide sd = s.sampledSide sd := by
  have hdeviation (x : Int) : deviation u sd x = deviation s sd x :=
    deviation_congr (by rw [hside]) hsettings htravel x
  simp only [State.sampledSide, judgeReference_congr hseq hsettings, hdeviation, levelsNow, hside, hsettings, htravel]

theorem losesReference_congr (hside : u.lev.get sd = s.lev.get sd) (hseq : u.seq = s.seq)
    (hsettings : u.settings = s.settings) : u.losesReference sd ↔ s.losesReference sd := by
  rw [State.losesReference, State.losesReference, judgeReference_congr hseq hsettings, hside]

theorem sampleSide_unusable (hjudged : judgeReference s sd = (none, n)) :
    sampleSide sd s =
      raiseAllIf ((s.lev.get sd).state = .auto) (droppedKind sd) (s.modifySide sd fun v => v.unusableSample n) := by
  simp only [sampleSide, hjudged]

theorem sampleSide_lev : (sampleSide sd s).lev = s.lev.set sd (s.sampledSide sd) := by
  rcases hjudged : judgeReference s sd with ⟨_ | x, n⟩
  · rw [sampleSide_unusable hjudged, sampledSide_unusable hjudged]
    simp [State.modifySide]
  · rw [sampleSide_usable hjudged, sampledSide_usable hjudged]
    rfl

theorem sampleSide_side : (sampleSide sd s).lev.get sd = s.sampledSide sd := by
  rw [sampleSide_lev, PerSide.get_set_self]

theorem sampleSide_other {other : Side} (h : other ≠ sd) : (sampleSide sd s).lev.get other = s.lev.get other := by
  rw [sampleSide_lev, PerSide.get_set_ne _ _ _ _ h]

/-- A sample raises the drop of its side on every port when the side goes LOST, and is silent otherwise (R39, R40). -/
theorem sampleSide_port_lost (h : s.losesReference sd) :
    (sampleSide sd s).ports.get q = portRaised (s.settings.masks.get q) (droppedKind sd) (s.ports.get q) := by
  obtain ⟨hnone, hauto⟩ := h
  rw [sampleSide_unusable (Prod.ext hnone rfl)]
  simp [hauto, raiseAllIf, raiseAll_get]

theorem sampleSide_ports_kept (h : ¬s.losesReference sd) : (sampleSide sd s).ports = s.ports := by
  rcases hjudged : judgeReference s sd with ⟨_ | x, n⟩
  · have hauto : (s.lev.get sd).state ≠ .auto := fun hauto => h ⟨by rw [hjudged], hauto⟩
    rw [sampleSide_unusable hjudged]
    simp [hauto, raiseAllIf]
  · rw [sampleSide_usable hjudged]
    rfl

theorem sampleSide_changesOnly : changesOnly [.lev, .ports] s (sampleSide sd s) :=
  changesOnly_of fun part => by cases part <;> simp [Part.kept]

end Sample

section Duty

variable {s : State} {t : SideSettings} {e : Int}

theorem dutyOf_inside (h : e.natAbs ≤ t.deadBand) : dutyOf t e = 0 := if_pos h

theorem dutyOf_outside (h : t.deadBand < e.natAbs) :
    dutyOf t e = min t.maxDuty (t.minDuty + (e.natAbs - t.deadBand) * (1000 - t.minDuty) / t.propBand) :=
  if_neg (Nat.not_le.2 h)

/-- R54: one unit outside the dead band at the widest proportional band and the greatest minDuty gives 600 / 200. -/
theorem minDuty_add_three_le (hrange : t.inRange) (h : t.deadBand < e.natAbs) :
    t.minDuty + 3 ≤ t.minDuty + (e.natAbs - t.deadBand) * (1000 - t.minDuty) / t.propBand := by
  obtain ⟨-, -, -, ⟨hband, hband'⟩, hmin, -⟩ := hrange
  have hproduct : 1 * 600 ≤ (e.natAbs - t.deadBand) * (1000 - t.minDuty) := Nat.mul_le_mul (by omega) (by omega)
  have hquotient : 3 ≤ (e.natAbs - t.deadBand) * (1000 - t.minDuty) / t.propBand :=
    (Nat.le_div_iff_mul_le (by omega)).2 (by omega)
  omega

theorem levelsNow_iff : levelsNow s = true ↔ s.settings.mode = .pave ∧ s.travel.moving = true := by
  simp [levelsNow]

theorem not_levelsNow (h : s.settings.mode ≠ .pave ∨ s.travel.moving = false) : levelsNow s = false := by
  rcases h with h | h <;> simp [levelsNow, h]

/-- Settles O17: the sample of a side in AUTO by the equation of its drive, the duty by the dead band. -/
theorem duty : Obligations.Duty := by
  intro s sd x n hjudged t e formula u
  have hu : u = (s.lev.get sd).usableSample t (levelsNow s) x n e := sampleSide_usable_side hjudged
  refine ⟨fun hauto => ?_, fun hlost hrun => ?_, fun hrange hband => minDuty_add_three_le hrange hband⟩
  · rw [usableSample_auto hauto, driveFor_eq] at hu
    rw [hu]
    refine ⟨hauto, fun hstill => ?_, fun hpave hmoving => ?_⟩
    · simp [not_levelsNow hstill]
    · rw [levelsNow_iff.2 ⟨hpave, hmoving⟩]
      refine ⟨fun hinside => ?_, fun houtside hpos => ?_, fun houtside hneg => ?_⟩
      · simp [dutyOf_inside hinside]
      · simp only [if_pos hpos, if_true]
        exact ⟨trivial, dutyOf_outside houtside⟩
      · simp only [if_neg (Int.not_lt.2 hneg.le), if_true]
        exact ⟨dutyOf_outside houtside, trivial⟩
  · rw [usableSample_lost hlost hrun] at hu
    rw [hu]
    exact ⟨rfl, rfl⟩

end Duty

section LostAndReturn

variable {s : State} {sd : Side}

theorem PerSide.set_get_self {α : Type} (v : PerSide α) (sd : Side) : v.set sd (v.get sd) = v := by cases sd <;> rfl

/-- A side in MANUAL takes no sample (R49). -/
theorem sampleSide_manual (hstate : (s.lev.get sd).state = .manual) : sampleSide sd s = s := by
  have hself (f : SideUnit → SideUnit) (hf : f (s.lev.get sd) = s.lev.get sd) : s.modifySide sd f = s := by
    rw [State.modifySide, hf, PerSide.set_get_self]
    rfl
  rcases hjudged : judgeReference s sd with ⟨_ | x, n⟩
  · rw [sampleSide_unusable hjudged, hself _ (unusableSample_manual hstate)]
    simp [raiseAllIf, hstate]
  · rw [sampleSide_usable hjudged, hself _ (usableSample_manual hstate)]

/-- A side returned to AUTO, before the sample it returns with (R40). -/
def SideUnit.returned (u : SideUnit) : SideUnit := { u with state := .auto, goodRun := 0 }

/-- The tenth usable sample in a row is the sample of the side already back in AUTO (R40). -/
theorem sampledSide_returning {x : Int} {n : Nat} (hjudged : judgeReference s sd = (some x, n))
    (hstate : (s.lev.get sd).state = .lost) (hrun : 9 ≤ (s.lev.get sd).goodRun) :
    s.sampledSide sd = (s.modifySide sd SideUnit.returned).sampledSide sd := by
  have hside : (s.modifySide sd SideUnit.returned).lev.get sd = (s.lev.get sd).returned := PerSide.get_set_self _ _ _
  have hdeviation : deviation (s.modifySide sd SideUnit.returned) sd x = deviation s sd x :=
    deviation_congr (s := s) (u := s.modifySide sd SideUnit.returned) (by rw [hside]; rfl) rfl rfl x
  have hjudged' : judgeReference (s.modifySide sd SideUnit.returned) sd = (some x, n) := hjudged
  rw [sampledSide_usable hjudged, usableSample_returning hstate hrun, sampledSide_usable hjudged', hdeviation, hside]
  rfl

/-- Settles O18: an unusable sample by the side's state, a usable one of a LOST side by its run. -/
theorem lostAndReturn : Obligations.LostAndReturn := by
  intro s sd u t
  have hlev : t.lev = s.lev.set sd (s.sampledSide sd) := sampleSide_lev
  have hside : t.lev.get sd = s.sampledSide sd := sampleSide_side
  refine ⟨fun n hjudged => ⟨fun hauto => ⟨?_, fun q => ⟨fun _ => ?_, fun h => absurd trivial h⟩⟩, fun hlost => ⟨?_, ?_⟩⟩,
    fun x n hjudged hlost => ⟨?_, fun hrun => ?_, fun hrun => ?_⟩, sampleSide_manual, sampleSide_changesOnly⟩
  · rw [hlev, sampledSide_unusable hjudged, unusableSample_auto hauto]
  · exact sampleSide_port_lost ⟨by rw [hjudged], hauto⟩
  · rw [hlev, sampledSide_unusable hjudged, unusableSample_lost hlost]
  · exact sampleSide_ports_kept fun ⟨_, hauto⟩ => by simp [u, hauto] at hlost
  · exact sampleSide_ports_kept fun ⟨hnone, _⟩ => by simp [hjudged] at hnone
  · rw [hside, sampledSide_usable hjudged, usableSample_lost hlost hrun]
    exact ⟨hlost, rfl, rfl, rfl, rfl⟩
  · have hauto : (t.lev.get sd).state = .auto ∧ (t.lev.get sd).goodRun = 0 := by
      rw [hside, sampledSide_usable hjudged, usableSample_returning hlost hrun, usableSample_auto rfl, driveFor_eq]
      exact ⟨rfl, rfl⟩
    obtain ⟨hstate, hgood⟩ := hauto
    refine ⟨hstate, hgood, ?_⟩
    rw [hside, sampleSide_side]
    exact sampledSide_returning hjudged hlost hrun

end LostAndReturn

section SampleRound

variable {s : State} {sd : Side}

theorem usableSample_stale (u : SideUnit) (t : SideSettings) (levels : Bool) (x : Int) (n : Nat) (e : Int) :
    (u.usableSample t levels x n e).stale = u.stale := by
  cases hs : u.state with
  | manual => rw [usableSample_manual hs]
  | auto => rw [usableSample_auto hs, driveFor_eq]; rfl
  | lost =>
    by_cases hrun : u.goodRun < 9
    · rw [usableSample_lost hs hrun]; rfl
    · rw [usableSample_returning hs (Nat.not_lt.1 hrun), usableSample_auto rfl, driveFor_eq]; rfl

theorem unusableSample_stale (u : SideUnit) (n : Nat) : (u.unusableSample n).stale = u.stale := by
  cases hs : u.state with
  | manual => rw [unusableSample_manual hs]
  | auto => rw [unusableSample_auto hs]
  | lost => rw [unusableSample_lost hs]

theorem sampledSide_stale : (s.sampledSide sd).stale = (s.lev.get sd).stale := by
  unfold State.sampledSide
  split
  · exact unusableSample_stale _ _
  · exact usableSample_stale _ _ _ _ _ _

theorem portRaised_comm (mask : AlertSet) (k k' : AlertKind) (p : PortState) :
    portRaised mask k (portRaised mask k' p) = portRaised mask k' (portRaised mask k p) := by
  simp only [portRaised, BitVec.or_assoc, BitVec.or_comm (alertBit k)]

/-- A sample leaves the other side as its own sample finds it (R49). -/
theorem sampledSide_sampleSide {other : Side} (h : other ≠ sd) :
    (sampleSide sd s).sampledSide other = s.sampledSide other :=
  sampledSide_congr (sampleSide_other h) (by simp) (by simp) (by simp)

theorem losesReference_sampleSide {other : Side} (h : other ≠ sd) :
    (sampleSide sd s).losesReference other ↔ s.losesReference other :=
  losesReference_congr (sampleSide_other h) (by simp) (by simp)

theorem sampleSide_eq : sampleSide sd s = (s.withLev (sampleSide sd s).lev).withPorts (sampleSide sd s).ports := by
  rcases hjudged : judgeReference s sd with ⟨_ | x, n⟩
  · rw [sampleSide_unusable hjudged, raiseAllIf]
    split <;> rfl
  · rw [sampleSide_usable hjudged]
    rfl

theorem sampleSide_twice_eq (a b : Side) :
    sampleSide b (sampleSide a s) =
      (s.withLev (sampleSide b (sampleSide a s)).lev).withPorts (sampleSide b (sampleSide a s)).ports := by
  have hfirst (l : PerSide SideUnit) (ps : PerPort PortState) :
      ((sampleSide a s).withLev l).withPorts ps = (s.withLev l).withPorts ps := by
    rw [sampleSide_eq (s := s)]
    rfl
  exact sampleSide_eq.trans (hfirst _ _)

theorem sampleSide_port (q : Port) [Decidable (s.losesReference sd)] :
    (sampleSide sd s).ports.get q =
      if s.losesReference sd then portRaised (s.settings.masks.get q) (droppedKind sd) (s.ports.get q)
      else s.ports.get q := by
  split
  · exact sampleSide_port_lost ‹_›
  · rw [sampleSide_ports_kept ‹_›]

/-- The order of the two sides within a sample does not matter (R49). -/
theorem sampleSide_comm (s : State) :
    sampleSide .right (sampleSide .left s) = sampleSide .left (sampleSide .right s) := by
  classical
  have hlev : (sampleSide .right (sampleSide .left s)).lev = (sampleSide .left (sampleSide .right s)).lev := by
    simp only [sampleSide_lev, sampledSide_sampleSide (by decide : Side.right ≠ .left),
      sampledSide_sampleSide (by decide : Side.left ≠ .right)]
    rfl
  have hports : (sampleSide .right (sampleSide .left s)).ports = (sampleSide .left (sampleSide .right s)).ports := by
    refine PerPort.ext_get _ _ fun q => ?_
    simp only [sampleSide_port, losesReference_sampleSide (by decide : Side.right ≠ .left),
      losesReference_sampleSide (by decide : Side.left ≠ .right), sampleSide_frame]
    by_cases hleft : s.losesReference .left <;> by_cases hright : s.losesReference .right
    · simp only [if_pos hleft, if_pos hright]
      exact portRaised_comm _ _ _ _
    all_goals simp only [hleft, hright, if_true, if_false]
  rw [sampleSide_twice_eq, hlev, hports, ← sampleSide_twice_eq]

/-- The state a FAST round hands to the samples: the stale marks clear, the sample timer started anew (R56). -/
def State.roundStarted (s : State) : State :=
  (s.withLev (s.lev.map fun _ u => { u with stale := false })).withTimers { s.timers with sample := some (s.now + 10000) }

theorem levellingRound_eq : levellingRound s = sampleSide .right (sampleSide .left s.roundStarted) := rfl

theorem levellingRound_side : (levellingRound s).lev.get sd = s.roundStarted.sampledSide sd := by
  cases sd with
  | left =>
    rw [levellingRound_eq, sampleSide_other (by decide), sampleSide_side]
  | right =>
    rw [levellingRound_eq, sampleSide_side, sampledSide_sampleSide (by decide)]

theorem levellingRound_timers : (levellingRound s).timers = { s.timers with sample := some (s.now + 10000) } := by
  rw [levellingRound_eq]
  simp [State.roundStarted]

theorem levellingRound_stale : ((levellingRound s).lev.get sd).stale = false := by
  rw [levellingRound_side, sampledSide_stale]
  simp [State.roundStarted]

theorem levellingRound_changesOnly : changesOnly [.lev, .ports, .timers] s (levellingRound s) :=
  changesOnly_of fun part => by cases part <;> simp [Part.kept, levellingRound]

/-- The round clears the stale mark before the sample, which reads none (R49, R56). -/
theorem levellingRound_measures {x : Int} {n : Nat} (hjudged : judgeReference s sd = (some x, n))
    (hstate : (s.lev.get sd).state ≠ .manual) :
    ((levellingRound s).lev.get sd).stepMax = min 16383 (max (s.lev.get sd).stepMax (deviation s sd x).natAbs) := by
  have hside : s.roundStarted.lev.get sd = { s.lev.get sd with stale := false } := PerSide.get_map _ _ _
  have hjudged' : judgeReference s.roundStarted sd = (some x, n) := hjudged
  have hdeviation : deviation s.roundStarted sd x = deviation s sd x :=
    deviation_congr (s := s) (u := s.roundStarted) (by rw [hside]) rfl rfl x
  obtain ⟨-, -, -, hmax⟩ := sampleSide_measures hjudged' (by rw [hside]; exact hstate)
  rw [levellingRound_side, ← sampleSide_side, hmax, hside, hdeviation]

/-- The sample timer's expiry: the AUTO valves at 0, both marks set (R56). -/
theorem sampleTimerExpiry_outcome {due : Nat} (hdue : s.timers.sample = some due) :
    ∃ t, exec .sampleTimerExpiry s = .next t
      ∧ (∀ sd, t.lev.get sd =
          if (s.lev.get sd).state = .auto then { s.lev.get sd with raise := 0, lower := 0, stale := true }
          else { s.lev.get sd with stale := true })
      ∧ t.timers = { s.timers with sample := none }
      ∧ changesOnly [.lev, .timers, .now] s t := by
  refine ⟨((autoValvesZero (s.reach due)).withLev
      ((autoValvesZero (s.reach due)).lev.map fun _ u => { u with stale := true })).withTimers
        { s.timers with sample := none }, ?_, fun sd => ?_, rfl, changesOnly_of fun part => ?_⟩
  · simp only [exec, execSampleTimerExpiry, hdue]
    rfl
  · simp only [State.withTimers_lev, State.withLev_lev, PerSide.get_map, autoValvesZero, State.reach_frame,
      SideUnit.autoValvesZero, SideUnit.valvesZero]
    split <;> rfl
  · cases part <;> simp [Part.kept]

/-- Settles O19: the round as two samples that do not see each other, the expiry by its outcome. -/
theorem sampleRound : Obligations.SampleRound := by
  refine ⟨fun s => ?_, fun s due hdue => ?_⟩
  · intro cleared
    have hsample (sd : Side) : (levellingRound s).lev.get sd = (sampleSide sd cleared).lev.get sd := by
      rw [levellingRound_side, sampleSide_side]
      exact sampledSide_congr rfl rfl rfl rfl
    exact ⟨levellingRound_timers, hsample .left, hsample .right, fun sd => levellingRound_stale, sampleSide_comm s,
      fun sd x n => levellingRound_measures, levellingRound_changesOnly⟩
  · obtain ⟨t, ht, hlev, htimers, hframe⟩ := sampleTimerExpiry_outcome hdue
    exact ⟨t, ht, hlev, htimers, hframe, fun sd => levellingRound_stale, by rw [levellingRound_timers]⟩

end SampleRound
end Sys2Proof.Machine

/-! # Family 03: the side requests

What a taken request leaves of the ports, the checks all four side requests share, then each request's own act. -/

namespace Sys2Proof.Machine

section TakenRequest

variable {s u : State} {p q : Port} {a : Answer}

theorem answer_port_self : ((answer p a u).ports.get p) = { u.ports.get p with answer := some a } := by
  rw [answer_ports, PerPort.get_set_self]

theorem answer_port_other (h : q ≠ p) : (answer p a u).ports.get q = u.ports.get q := by
  rw [answer_ports, PerPort.get_set_ne _ _ _ _ h]

theorem takeRequest_port_self :
    (takeRequest p s).ports.get p =
      { s.ports.get p with page := none, present := true, presenceDue := some (s.now + 100000) } := by
  simp only [takeRequest, heard, State.modifyPort, State.withPorts_ports, PerPort.get_set_self]
  rfl

theorem takeRequest_port_other (h : q ≠ p) : (takeRequest p s).ports.get q = s.ports.get q := by
  simp only [takeRequest, heard, State.modifyPort, State.withPorts_ports, PerPort.get_set_ne _ _ _ _ h]

/-- A request that is only answered touches nothing beyond its port (R163, R167). -/
theorem answeredOnly_taken (s : State) (p : Port) (a : Answer) :
    answeredOnly s (answer p a (takeRequest p s)) p a ∧ changesOnly [.ports] s (answer p a (takeRequest p s)) :=
  ⟨answer_take p a s, changesOnly_of fun part => by cases part <;> simp [Part.kept]⟩

/-- A request answered OK after a change of one side (R42). -/
theorem answeredOnly_actedSide (s : State) (p : Port) (a : Answer) (sd : Side) (f : SideUnit → SideUnit) :
    answeredOnly s (answer p a ((takeRequest p s).modifySide sd f)) p a
      ∧ (answer p a ((takeRequest p s).modifySide sd f)).lev = s.lev.set sd (f (s.lev.get sd))
      ∧ changesOnly [.lev, .ports] s (answer p a ((takeRequest p s).modifySide sd f)) :=
  ⟨answer_take p a s, rfl, changesOnly_of fun part => by cases part <;> simp [Part.kept]⟩

theorem judgeReference_taken (s : State) (p : Port) (sd : Side) :
    judgeReference (takeRequest p s) sd = judgeReference s sd := judgeReference_congr (by simp) (by simp)

end TakenRequest

section Checks

variable {s : State} {p : Port} {item dir : Byte} {sd : Side} {act : Side → State → State}

theorem sideOfByte_none (h : 2 ≤ item.toNat) : sideOfByte item = none := by
  have h0 : item ≠ 0#8 := fun h0 => by simp [h0] at h
  have h1 : item ≠ 1#8 := fun h1 => by simp [h1] at h
  simp [sideOfByte, h0, h1]

theorem directionOfByte_none (h : 2 ≤ dir.toNat) : directionOfByte dir = none := by
  have h0 : dir ≠ 0#8 := fun h0 => by simp [h0] at h
  have h1 : dir ≠ 1#8 := fun h1 => by simp [h1] at h
  simp [directionOfByte, h0, h1]

theorem directionOfByte_ne_none (h : dir.toNat < 2) : directionOfByte dir ≠ none := by
  have hdir : dir = 0#8 ∨ dir = 1#8 := by bv_omega
  rcases hdir with rfl | rfl <;> simp [directionOfByte]

theorem mayCommandSide_iff : mayCommandSide p sd = true ↔ p = .m ∨ p = stationOfSide sd := by
  simp [mayCommandSide]

theorem sideRequest_noSide (hitem : sideOfByte item = none) :
    sideRequest p item act s = answerCode p .refused (takeRequest p s) := by
  simp only [sideRequest, hitem]

theorem sideRequest_otherStation (hitem : sideOfByte item = some sd) (hm : p ≠ .m) (hstation : p ≠ stationOfSide sd) :
    sideRequest p item act s = answerCode p .notAllowed (takeRequest p s) := by
  have hno : ¬mayCommandSide p sd = true := fun h => (mayCommandSide_iff.1 h).elim hm hstation
  simp only [sideRequest, hitem, if_neg hno]

theorem sideRequest_may (hitem : sideOfByte item = some sd) (hmay : p = .m ∨ p = stationOfSide sd) :
    sideRequest p item act s = act sd (takeRequest p s) := by
  simp only [sideRequest, hitem, if_pos (mayCommandSide_iff.2 hmay)]

/-- What an act of a side request does to the state it is given: NOT_NOW alone, or something answered OK. -/
def ActsOrNotNow (p : Port) (s t : State) : Prop :=
  t = answerCode p .notNow s ∨ ∃ data u, t = answer p { code := .ok, data := data } u

theorem engageSide_acts (p : Port) (sd : Side) (s : State) : ActsOrNotNow p s (engageSide p sd s) := by
  unfold engageSide
  split
  · exact .inl rfl
  · split
    · exact .inr ⟨_, _, rfl⟩
    · exact .inl rfl

theorem disengageSide_acts (p : Port) (sd : Side) (s : State) : ActsOrNotNow p s (disengageSide p sd s) :=
  .inr ⟨_, _, rfl⟩

theorem setZeroSide_acts (p : Port) (sd : Side) (s : State) : ActsOrNotNow p s (setZeroSide p sd s) := by
  unfold setZeroSide
  split
  · exact .inl rfl
  · exact .inr ⟨_, _, rfl⟩

theorem jogSide_acts (p : Port) (d : Direction) (duty : Word) (sd : Side) (s : State) :
    ActsOrNotNow p s (jogSide p d duty sd s) := by
  unfold jogSide
  split
  · exact .inr ⟨_, _, rfl⟩
  · exact .inl rfl

/-- A taken request that is not answered OK is answered only (R42). -/
theorem ActsOrNotNow.changesOnly {t : State} {code : AnswerCode} {data : List Byte}
    (h : ActsOrNotNow p (takeRequest p s) t) (hcode : code ≠ .ok)
    (hanswer : (t.ports.get p).answer = some { code := code, data := data }) : changesOnly [.ports] s t := by
  rcases h with rfl | ⟨data', u, rfl⟩
  · exact (answeredOnly_taken s p _).2
  · rw [answer_port_self] at hanswer
    cases hanswer
    exact absurd rfl hcode

theorem sideRequest_changesOnly {code : AnswerCode} {data : List Byte}
    (hact : ∀ sd u, ActsOrNotNow p u (act sd u)) (hcode : code ≠ .ok)
    (hanswer : ((sideRequest p item act s).ports.get p).answer = some { code := code, data := data }) :
    changesOnly [.ports] s (sideRequest p item act s) := by
  unfold sideRequest at hanswer ⊢
  split
  · exact (answeredOnly_taken s p _).2
  · split
    · rename_i sd hitem hmay
      simp only [hitem, hmay, if_true] at hanswer
      exact (hact sd _).changesOnly hcode hanswer
    · exact (answeredOnly_taken s p _).2

/-- The four side requests are one request with their own act; a JOG's direction is checked with its side (R42). -/
theorem exec_sideRequest {c : Instr} {duty : Word} (s : State)
    (hc : c = .engage p item ∨ c = .disengage p item ∨ c = .setZero p item ∨ c = .jog p item dir duty) :
    (∃ act, (∀ sd u, ActsOrNotNow p u (act sd u)) ∧ exec c s = .next (sideRequest p item act s))
      ∨ (c = .jog p item dir duty ∧ directionOfByte dir = none
          ∧ exec c s = .next (answerCode p .refused (takeRequest p s))) := by
  rcases hc with rfl | rfl | rfl | rfl
  · exact .inl ⟨_, engageSide_acts p, rfl⟩
  · exact .inl ⟨_, disengageSide_acts p, rfl⟩
  · exact .inl ⟨_, setZeroSide_acts p, rfl⟩
  · cases hdir : directionOfByte dir with
    | none => exact .inr ⟨rfl, rfl, by simp only [exec, execJog, hdir]⟩
    | some d => exact .inl ⟨_, jogSide_acts p d duty, by simp only [exec, execJog, hdir]⟩

/-- Settles O20: the checks by the cases of `sideRequest`, a refusal by what its act can do. -/
theorem sideRequestChecks : Obligations.SideRequestChecks := by
  intro s p item dir duty
  have hanswered (code : AnswerCode) := answeredOnly_taken s p { code := code, data := [] }
  refine ⟨fun c hc => ⟨fun hitem => ?_, fun sd hitem hm hstation hjog hdir => ?_, fun sd hitem hm hstation hjog => ?_,
    fun t ht ⟨d, hrefused⟩ => ?_⟩, fun hdir => ?_, rfl, rfl⟩
  · rcases exec_sideRequest s hc with ⟨act, -, hx⟩ | ⟨-, -, hx⟩
    · rw [sideRequest_noSide (sideOfByte_none hitem)] at hx
      exact ⟨_, hx, hanswered .refused⟩
    · exact ⟨_, hx, hanswered .refused⟩
  · rcases exec_sideRequest s hc with ⟨act, -, hx⟩ | ⟨-, hnone, -⟩
    · rw [sideRequest_otherStation hitem hm hstation] at hx
      exact ⟨_, hx, hanswered .notAllowed⟩
    · exact absurd hnone (directionOfByte_ne_none hdir)
  · rcases exec_sideRequest s hc with ⟨act, -, hx⟩ | ⟨hc', -, -⟩
    · rw [sideRequest_otherStation hitem hm hstation] at hx
      exact ⟨_, hx, hanswered .notAllowed⟩
    · exact absurd hc' hjog
  · rcases exec_sideRequest s hc with ⟨act, hact, hx⟩ | ⟨-, -, hx⟩ <;> rw [hx] at ht <;> cases ht
    · rcases hrefused with hanswer | hanswer | hanswer <;> exact sideRequest_changesOnly hact (by decide) hanswer
    · exact (hanswered .refused).2
  · refine ⟨answerCode p .refused (takeRequest p s), ?_, hanswered .refused⟩
    simp only [exec, execJog, directionOfByte_none hdir]

end Checks

section Engagement

variable {s : State} {p : Port} {item : Byte} {sd : Side} {x : Int} {n : Nat}

/-- Taking the request makes its own port PRESENT (R167), so that the own station is never missing to itself (R43, R47). -/
theorem sideMayRun_taken :
    sideMayRun (takeRequest p s) sd = true ↔
      s.settings.mode ≠ .travel ∧ (p = stationOfSide sd ∨ (s.ports.get (stationOfSide sd)).present = true) := by
  simp only [sideMayRun, takeRequest_frame, Bool.and_eq_true, bne_iff_ne]
  by_cases hp : p = stationOfSide sd
  · simp [← hp, takeRequest_port_self]
  · simp [takeRequest_port_other (Ne.symm hp), hp]

theorem engageSide_notNow (h : ¬sideMayRun s sd = true ∨ (judgeReference s sd).1 = none) :
    engageSide p sd s = answerCode p .notNow s := by
  unfold engageSide
  split
  · rfl
  · rename_i hreading
    exact if_neg (h.resolve_right (by simp [hreading]))

theorem engageSide_ok (hmay : sideMayRun s sd = true) (hjudged : judgeReference s sd = (some x, n)) :
    engageSide p sd s =
      answerCode p .ok (s.modifySide sd fun u => u.engage (s.settings.sides.get sd).refMode x) := by
  simp only [engageSide, hjudged]
  exact if_pos hmay

section Engage

variable {u : SideUnit} {mode : RefMode}

/-- ENGAGE from MANUAL keeps a target the side has, and in SLOPE asks for none (R43). -/
theorem engage_manual_kept (hstate : u.state = .manual) (htarget : mode = .slope ∨ u.target ≠ none) :
    u.engage mode x =
      { u with state := .auto, raise := 0, lower := 0, jog := none, stale := false, goodRun := 0 } := by
  have hkept : (if mode = .slope then u.target else some (u.target.getD x.toNat)) = u.target := by
    split
    · rfl
    · obtain ⟨k, hk⟩ := Option.ne_none_iff_exists'.1 (htarget.resolve_left ‹_›)
      simp [hk]
  simp only [SideUnit.engage, hstate, SideUnit.valvesZero, hkept]

/-- ENGAGE from MANUAL without a target takes the reading as one (R43). -/
theorem engage_manual_captures (hstate : u.state = .manual) (hmode : mode ≠ .slope) (htarget : u.target = none) :
    u.engage mode x =
      { u with
        state := .auto, raise := 0, lower := 0, jog := none, stale := false, goodRun := 0, target := some x.toNat } := by
  simp only [SideUnit.engage, hstate, SideUnit.valvesZero, if_neg hmode, htarget, Option.getD_none]

theorem engage_lost (hstate : u.state = .lost) :
    u.engage mode x = { u with state := .auto, raise := 0, lower := 0, goodRun := 0 } := by
  simp only [SideUnit.engage, hstate, SideUnit.valvesZero]

theorem engage_auto (hstate : u.state = .auto) : u.engage mode x = u := by
  simp only [SideUnit.engage, hstate]

end Engage

/-- The side after a DISENGAGE (R44). -/
def SideUnit.disengaged (u : SideUnit) : SideUnit := if u.engaged then u.toManual else u.endJog

theorem disengaged_of_not_manual {u : SideUnit} (h : u.state ≠ .manual) :
    u.disengaged = { u with state := .manual, raise := 0, lower := 0, goodRun := 0 } := toManual_of_not_manual h

theorem disengaged_of_manual {u : SideUnit} (h : u.state = .manual) :
    u.disengaged = if u.jog = none then u else { u with raise := 0, lower := 0, jog := none } := endJog_of_manual h

theorem exec_engage (hitem : sideOfByte item = some sd) (hmay : p = .m ∨ p = stationOfSide sd) :
    exec (.engage p item) s = .next (engageSide p sd (takeRequest p s)) :=
  congrArg Host.Outcome.next (sideRequest_may hitem hmay)

theorem exec_disengage (hitem : sideOfByte item = some sd) (hmay : p = .m ∨ p = stationOfSide sd) :
    exec (.disengage p item) s =
      .next (answerCode p .ok ((takeRequest p s).modifySide sd SideUnit.disengaged)) :=
  congrArg Host.Outcome.next (sideRequest_may hitem hmay)

/-- Settles O21: NOT_NOW by its three reasons, the engagement and the disengagement by the side's state. -/
theorem engagement : Obligations.Engagement := by
  refine ⟨fun s p item sd hitem hmay => ?_, fun s p item sd hitem hmay => ?_⟩
  · intro u slope present
    refine ⟨fun hreason => ?_, fun x n hmode hpresent hjudged => ?_⟩
    · have hnotNow : ¬sideMayRun (takeRequest p s) sd = true ∨ (judgeReference (takeRequest p s) sd).1 = none := by
        rw [sideMayRun_taken, judgeReference_taken]
        tauto
      rw [exec_engage hitem hmay, engageSide_notNow hnotNow]
      exact ⟨_, rfl, answeredOnly_taken s p _⟩
    · rw [exec_engage hitem hmay,
        engageSide_ok (sideMayRun_taken.2 ⟨hmode, hpresent⟩) ((judgeReference_taken s p sd).trans hjudged)]
      obtain ⟨hanswer, hlev, hframe⟩ := answeredOnly_actedSide s p { code := .ok, data := [] } sd
        fun v => v.engage (s.settings.sides.get sd).refMode x
      refine ⟨_, rfl, hanswer, fun hmanual htarget => ?_, fun hmanual hslope htarget => ?_, fun hlost => ?_,
        fun hauto => ?_, hframe⟩
      · exact hlev.trans (congrArg _ (engage_manual_kept hmanual htarget))
      · exact hlev.trans (congrArg _ (engage_manual_captures hmanual hslope htarget))
      · exact hlev.trans (congrArg _ (engage_lost hlost))
      · exact hlev.trans ((congrArg _ (engage_auto hauto)).trans (PerSide.set_get_self _ _))
  · intro u
    rw [exec_disengage hitem hmay]
    obtain ⟨hanswer, hlev, hframe⟩ :=
      answeredOnly_actedSide s p { code := .ok, data := [] } sd SideUnit.disengaged
    refine ⟨_, rfl, hanswer, ?_, fun hengaged => ?_, fun hmanual hjog => ?_, fun hmanual hjog => ?_, hframe⟩
    · rw [answerCode, hlev, PerSide.get_set_self]
      exact dropped_state_manual u
    · exact hlev.trans (congrArg _ (disengaged_of_not_manual hengaged))
    · exact hlev.trans (congrArg _ ((disengaged_of_manual hmanual).trans (if_neg hjog)))
    · exact hlev.trans ((congrArg _ ((disengaged_of_manual hmanual).trans (if_pos hjog))).trans (PerSide.set_get_self _ _))

end Engagement

section SetZero

variable {s : State} {p q : Port} {item : Byte} {sd : Side} {x : Int} {n : Nat}

/-- The state with a reading captured: the settings stored, and in BEAM and SINGLE the target (R45, R46). -/
def State.captured (s : State) (sd : Side) (x : Int) : State :=
  let t := s.settings.sides.get sd
  let stored := s.withSettings { s.settings with sides := s.settings.sides.set sd (t.zeroed x) }
  if t.refMode = .slope then stored else stored.modifySide sd fun u => { u with target := some x.toNat }

@[simp] theorem captured_frame (s : State) (sd : Side) (x : Int) :
    (s.captured sd x).travel = s.travel ∧ (s.captured sd x).seq = s.seq ∧ (s.captured sd x).feed = s.feed
      ∧ (s.captured sd x).heat = s.heat ∧ (s.captured sd x).zones = s.zones ∧ (s.captured sd x).scan = s.scan
      ∧ (s.captured sd x).record = s.record ∧ (s.captured sd x).store = s.store ∧ (s.captured sd x).ports = s.ports
      ∧ (s.captured sd x).timers = s.timers ∧ (s.captured sd x).pins = s.pins ∧ (s.captured sd x).now = s.now
      ∧ (s.captured sd x).free = s.free ∧ (s.captured sd x).pending = s.pending := by
  simp only [State.captured]; split <;> simp

theorem captured_settings :
    (s.captured sd x).settings =
      { s.settings with sides := s.settings.sides.set sd ((s.settings.sides.get sd).zeroed x) } := by
  simp only [State.captured]; split <;> simp

theorem captured_masks : (s.captured sd x).settings.masks = s.settings.masks := by rw [captured_settings]

theorem captured_slope (hmode : (s.settings.sides.get sd).refMode = .slope) :
    (s.captured sd x).lev = s.lev
      ∧ (s.settings.sides.get sd).zeroed x = { s.settings.sides.get sd with slopeTarget := x } := by
  simp [State.captured, SideSettings.zeroed, hmode]

theorem captured_target (hmode : (s.settings.sides.get sd).refMode ≠ .slope) :
    (s.captured sd x).lev = s.lev.set sd { s.lev.get sd with target := some x.toNat }
      ∧ (s.settings.sides.get sd).zeroed x = { s.settings.sides.get sd with offset := 0 } := by
  refine ⟨by simp [State.captured, State.modifySide, hmode], ?_⟩
  cases hm : (s.settings.sides.get sd).refMode with
  | slope => exact absurd hm hmode
  | beam | single => simp only [SideSettings.zeroed, hm]

/-- The table changes exactly when the side's stored item does (R46). -/
theorem captured_settings_eq_iff :
    (s.captured sd x).settings = s.settings ↔ (s.settings.sides.get sd).zeroed x = s.settings.sides.get sd := by
  rw [captured_settings]
  constructor
  · intro h
    have hside := congrArg (fun t => t.sides.get sd) h
    simpa using hside
  · intro h
    rw [h, PerSide.set_get_self]

theorem setZeroSide_notNow (h : (judgeReference s sd).1 = none) : setZeroSide p sd s = answerCode p .notNow s := by
  simp only [setZeroSide, h]

theorem setZeroSide_ok (hjudged : judgeReference s sd = (some x, n)) :
    setZeroSide p sd s =
      answer p { code := .ok, data := wordBytes (BitVec.ofInt 16 x) }
        (if (s.captured sd x).settings = s.settings then s.captured sd x
         else raiseOthers p .settingChanged (s.captured sd x)) := by
  simp only [setZeroSide, hjudged, captured_settings_eq_iff]
  rfl

theorem setZeroSide_stores (hjudged : judgeReference s sd = (some x, n)) :
    (setZeroSide p sd s).lev = (s.captured sd x).lev ∧ (setZeroSide p sd s).settings = (s.captured sd x).settings := by
  rw [setZeroSide_ok hjudged]
  split <;> simp

/-- The port of the request is answered with the reading, and no alert reaches it (R45, R46). -/
theorem setZeroSide_port_self (hjudged : judgeReference s sd = (some x, n)) :
    (setZeroSide p sd s).ports.get p =
      { s.ports.get p with answer := some { code := .ok, data := wordBytes (BitVec.ofInt 16 x) } } := by
  rw [setZeroSide_ok hjudged, answer_port_self]
  split
  · simp only [captured_frame]
  · simp only [raiseOthers_get, captured_frame, if_true]

theorem setZeroSide_port_other (hjudged : judgeReference s sd = (some x, n)) (hq : q ≠ p) :
    (setZeroSide p sd s).ports.get q =
      if (s.captured sd x).settings = s.settings then s.ports.get q
      else portRaised (s.settings.masks.get q) .settingChanged (s.ports.get q) := by
  rw [setZeroSide_ok hjudged, answer_port_other hq]
  split
  · simp only [captured_frame]
  · simp only [raiseOthers_get, captured_frame, captured_masks, if_neg hq]

theorem captured_taken :
    ((takeRequest p s).captured sd x).lev = (s.captured sd x).lev
      ∧ ((takeRequest p s).captured sd x).settings = (s.captured sd x).settings :=
  ⟨by simp [State.captured, State.modifySide, apply_ite State.lev], by simp [captured_settings]⟩

theorem exec_setZero (hitem : sideOfByte item = some sd) (hmay : p = .m ∨ p = stationOfSide sd) :
    exec (.setZero p item) s = .next (setZeroSide p sd (takeRequest p s)) :=
  congrArg Host.Outcome.next (sideRequest_may hitem hmay)

/-- The state a SET-ZERO answered OK ends in (R45, R46). -/
theorem setZero_outcome (hitem : sideOfByte item = some sd) (hmay : p = .m ∨ p = stationOfSide sd)
    (hjudged : judgeReference s sd = (some x, n)) :
    ∃ t, exec (.setZero p item) s = .next t
      ∧ t.lev = (s.captured sd x).lev ∧ t.settings = (s.captured sd x).settings
      ∧ t.ports.get p = portAnswered s p { code := .ok, data := wordBytes (BitVec.ofInt 16 x) }
      ∧ (∀ q, q ≠ p →
          t.ports.get q =
            if t.settings = s.settings then s.ports.get q
            else portRaised (s.settings.masks.get q) .settingChanged (s.ports.get q))
      ∧ changesOnly [.lev, .settings, .ports] s t := by
  have hjudged' : judgeReference (takeRequest p s) sd = (some x, n) := (judgeReference_taken s p sd).trans hjudged
  obtain ⟨hlev, hsettings⟩ := setZeroSide_stores (p := p) hjudged'
  obtain ⟨hlev', hsettings'⟩ := captured_taken (s := s) (p := p) (sd := sd) (x := x)
  rw [exec_setZero hitem hmay]
  refine ⟨_, rfl, hlev.trans hlev', hsettings.trans hsettings', ?_, fun q hq => ?_,
    changesOnly_of fun part => by cases part <;> simp [Part.kept]⟩
  · rw [setZeroSide_port_self hjudged', takeRequest_port_self]
    rfl
  · rw [setZeroSide_port_other hjudged' hq, hsettings, takeRequest_port_other hq]
    simp only [takeRequest_frame]

/-- Settles O22: the captured reading by its mode, the ports by whether the stored item changes. -/
theorem setZero : Obligations.SetZero := by
  intro s p item sd hitem hmay u c
  refine ⟨fun hnone => ?_, fun x n hjudged => ?_⟩
  · rw [exec_setZero hitem hmay, setZeroSide_notNow (by rw [judgeReference_taken]; exact hnone)]
    exact ⟨_, rfl, answeredOnly_taken s p _⟩
  · obtain ⟨t, ht, hlev, hsettings, hown, hothers, hframe⟩ := setZero_outcome hitem hmay hjudged
    refine ⟨t, ht, hown, fun hmode => ?_, fun hmode => ?_,
      fun q hq => ⟨fun hchanged => (hothers q hq).trans (if_neg hchanged), fun hkept => (hothers q hq).trans (if_pos hkept)⟩,
      hframe⟩
    · obtain ⟨hcaptured, hzeroed⟩ := captured_target (x := x) hmode
      rw [hlev, hsettings, captured_settings, hzeroed]
      exact ⟨hcaptured, rfl⟩
    · obtain ⟨hcaptured, hzeroed⟩ := captured_slope (x := x) hmode
      rw [hlev, hsettings, captured_settings, hzeroed]
      exact ⟨hcaptured, rfl⟩

end SetZero

section JogPulses

variable {s : State} {p : Port} {item dir : Byte} {duty : Word} {sd : Side} {d : Direction}

theorem jogDuty_eq (t : SideSettings) (duty : Word) :
    jogDuty t duty = (min (t.maxDuty : Int) (max 0 duty.toInt)).toNat := by
  rw [jogDuty, clampInt_eq (by omega)]
  omega

theorem startJog_zero (u : SideUnit) (d : Direction) (due : Nat) :
    u.startJog d 0 due = { u with raise := 0, lower := 0, jog := none } := rfl

theorem startJog_pulse {given : Nat} (u : SideUnit) (d : Direction) (due : Nat) (h : given ≠ 0) :
    u.startJog d given due =
      { u with
        raise := if d = .raise then given else 0
        lower := if d = .lower then given else 0
        jog := some { direction := d, duty := given, due := due } } := by
  simp only [SideUnit.startJog, if_neg h]
  cases d <;> rfl

theorem jogSide_notNow (h : (s.lev.get sd).state ≠ .manual ∨ ¬sideMayRun s sd = true) :
    jogSide p d duty sd s = answerCode p .notNow s := by
  have hno : ¬((s.lev.get sd).state = .manual && sideMayRun s sd) = true := by
    rw [Bool.and_eq_true, decide_eq_true_iff]
    tauto
  exact if_neg hno

theorem jogSide_ok (hstate : (s.lev.get sd).state = .manual) (hmay : sideMayRun s sd = true) :
    jogSide p d duty sd s =
      answerCode p .ok
        (s.modifySide sd fun u => u.startJog d (jogDuty (s.settings.sides.get sd) duty) (s.now + 25000)) :=
  if_pos (by simp [hstate, hmay])

theorem exec_jog (hitem : sideOfByte item = some sd) (hdir : directionOfByte dir = some d)
    (hmay : p = .m ∨ p = stationOfSide sd) :
    exec (.jog p item dir duty) s = .next (jogSide p d duty sd (takeRequest p s)) := by
  simp only [exec, execJog, hdir, sideRequest_may hitem hmay]

theorem jogTimerExpiry_outcome {j : JogPulse} (hjog : (s.lev.get sd).jog = some j) :
    ∃ t, exec (.jogTimerExpiry sd) s = .next t
      ∧ t.lev = s.lev.set sd { s.lev.get sd with raise := 0, lower := 0, jog := none }
      ∧ changesOnly [.lev, .now] s t := by
  refine ⟨(s.reach j.due).modifySide sd SideUnit.endJog, by simp only [exec, execJogTimerExpiry, hjog], ?_,
    changesOnly_of fun part => by cases part <;> simp [Part.kept]⟩
  simp [State.modifySide, SideUnit.endJog, SideUnit.valvesZero, hjog]

/-- Settles O23: NOT_NOW by its three reasons, the pulse by its duty, the expiry by its outcome. -/
theorem jogPulses : Obligations.JogPulses := by
  refine ⟨fun s p item dir duty sd d hitem hdir hmay => ?_, fun s sd j => jogTimerExpiry_outcome⟩
  intro u present given
  refine ⟨fun hreason => ?_, fun hstate hmode hpresent => ?_, rfl, rfl, directionOfByte_none⟩
  · have hnotNow : ((takeRequest p s).lev.get sd).state ≠ .manual ∨ ¬sideMayRun (takeRequest p s) sd = true := by
      rw [sideMayRun_taken]
      simp only [takeRequest_frame]
      tauto
    rw [exec_jog hitem hdir hmay, jogSide_notNow hnotNow]
    exact ⟨_, rfl, answeredOnly_taken s p _⟩
  · rw [exec_jog hitem hdir hmay,
      jogSide_ok (s := takeRequest p s) hstate (sideMayRun_taken.2 ⟨hmode, hpresent⟩)]
    obtain ⟨hanswer, hlev, hframe⟩ := answeredOnly_actedSide s p { code := .ok, data := [] } sd
      fun v => v.startJog d (jogDuty (s.settings.sides.get sd) duty) (s.now + 25000)
    have hduty : jogDuty (s.settings.sides.get sd) duty = given := jogDuty_eq _ _
    refine ⟨_, rfl, hanswer, fun hzero => hlev.trans (congrArg _ ?_), fun hpulse => hlev.trans (congrArg _ ?_), hframe⟩
    · rw [hduty, hzero]
      exact startJog_zero _ _ _
    · rw [hduty]
      exact startJog_pulse _ _ _ hpulse

end JogPulses
end Sys2Proof.Machine

/-! # Family 03: the applications of a side's duties and of its reference mode -/

namespace Sys2Proof.Machine

section DutySettings

variable {s v : State} {p q : Port} {e : PostEntry} {rest : List PostEntry} {sd : Side}

/-- The state an application stores its entry in: the entry out of its queue, the time at the entry's due time (R152). -/
def State.popped (s : State) (p : Port) (e : PostEntry) (rest : List PostEntry) : State :=
  popEntry p rest (s.reach (max e.due (s.ports.get p).applyAfter))

@[simp] theorem popped_frame (s : State) (p : Port) (e : PostEntry) (rest : List PostEntry) :
    (s.popped p e rest).travel = s.travel ∧ (s.popped p e rest).seq = s.seq ∧ (s.popped p e rest).lev = s.lev
      ∧ (s.popped p e rest).feed = s.feed ∧ (s.popped p e rest).heat = s.heat ∧ (s.popped p e rest).zones = s.zones
      ∧ (s.popped p e rest).scan = s.scan ∧ (s.popped p e rest).record = s.record
      ∧ (s.popped p e rest).store = s.store ∧ (s.popped p e rest).settings = s.settings
      ∧ (s.popped p e rest).timers = s.timers ∧ (s.popped p e rest).pins = s.pins
      ∧ (s.popped p e rest).free = s.free ∧ (s.popped p e rest).pending = s.pending := by
  simp [State.popped]

theorem popped_port_self_pending : ((s.popped p e rest).ports.get p).pendingSet = (s.ports.get p).pendingSet := by
  simp [State.popped, popEntry, State.modifyPort]

theorem popped_port_other (hq : q ≠ p) : (s.popped p e rest).ports.get q = s.ports.get q := by
  simp [State.popped, popEntry, State.modifyPort, hq]

theorem application_passes (hq : (s.ports.get p).queue = e :: rest) (hpass : applicationPasses s.settings e = true) :
    exec (.application p) s = .next ((storeSetting e.item e.value (s.popped p e rest)).appliedAt p e) := by
  rw [application_eq hq, if_pos hpass]
  rfl

theorem application_rejects (hq : (s.ports.get p).queue = e :: rest) (hfail : ¬applicationPasses s.settings e = true) :
    exec (.application p) s = .next (rejectEntry p e (s.popped p e rest)) := by
  rw [application_eq hq, if_neg hfail]
  rfl

theorem clampDuty_eq {t : SideSettings} (h : t.minDuty ≤ t.maxDuty) (d : Nat) :
    clampDuty t d = if d = 0 then 0 else min t.maxDuty (max t.minDuty d) := by
  unfold clampDuty clampNat
  split_ifs <;> omega

/-- What a stored duty item does at once: a duty held in AUTO goes into the new pair (R36). -/
theorem dutyApplied_lev (h : (v.settings.sides.get sd).minDuty ≤ (v.settings.sides.get sd).maxDuty) :
    (dutyApplied sd v).lev =
      if (v.lev.get sd).state = .auto then
        v.lev.set sd
          { v.lev.get sd with
            raise := if (v.lev.get sd).raise = 0 then 0
              else min (v.settings.sides.get sd).maxDuty (max (v.settings.sides.get sd).minDuty (v.lev.get sd).raise)
            lower := if (v.lev.get sd).lower = 0 then 0
              else min (v.settings.sides.get sd).maxDuty (max (v.settings.sides.get sd).minDuty (v.lev.get sd).lower) }
      else v.lev := by
  simp only [dutyApplied, State.modifySide, State.withLev_lev, clampDuty_eq h]
  split
  · rfl
  · rw [PerSide.set_get_self]

/-- A stored minDuty raises a smaller maxDuty, a stored maxDuty stays at or above minDuty (R36). -/
theorem write_duty_ordered (c : SideSettings) (w : Word) {i : SideItem} (hi : i = .minDuty ∨ i = .maxDuty) :
    (c.write i w).minDuty ≤ (c.write i w).maxDuty := by
  rcases hi with rfl | rfl <;> simp [SideSettings.write]

theorem storeSetting_duty (w : Word) {i : SideItem} (hi : i = .minDuty ∨ i = .maxDuty) :
    storeSetting (.side sd i) w v =
      dutyApplied sd
        (v.withSettings
          { v.settings with sides := v.settings.sides.set sd ((v.settings.sides.get sd).write i w) }) := by
  rcases hi with rfl | rfl <;> rfl

/-- The application of a duty item, whichever of the two it is (R36). -/
theorem duty_application {i : SideItem} (hi : i = .minDuty ∨ i = .maxDuty) (hq : (s.ports.get p).queue = e :: rest)
    (hitem : e.item = .side sd i) :
    ∃ t, exec (.application p) s = .next t
      ∧ t.settings.sides = s.settings.sides.set sd ((s.settings.sides.get sd).write i e.value)
      ∧ t.lev =
          (if (s.lev.get sd).state = .auto then
            s.lev.set sd
              { s.lev.get sd with
                raise := if (s.lev.get sd).raise = 0 then 0
                  else min (t.settings.sides.get sd).maxDuty (max (t.settings.sides.get sd).minDuty (s.lev.get sd).raise)
                lower := if (s.lev.get sd).lower = 0 then 0
                  else min (t.settings.sides.get sd).maxDuty (max (t.settings.sides.get sd).minDuty (s.lev.get sd).lower) }
          else s.lev)
      ∧ changesOnly [.lev, .settings, .ports, .now] s t := by
  have hpass : applicationPasses s.settings e = true := by
    rcases hi with rfl | rfl <;> simp [applicationPasses, hitem]
  have hordered := write_duty_ordered (s.settings.sides.get sd) e.value hi
  rw [application_passes hq hpass, hitem, storeSetting_duty _ hi]
  refine ⟨_, rfl, by simp, ?_, changesOnly_of fun part => by cases part <;> simp [Part.kept]⟩
  simp only [appliedAt_frame, dutyApplied_frame, State.withSettings_settings, popped_frame, PerSide.get_set_self]
  rw [dutyApplied_lev (by simpa using hordered)]
  simp

end DutySettings

section RefModeSettings

variable {s v : State} {p q : Port} {e : PostEntry} {rest : List PostEntry} {sd other : Side} {m : RefMode}

theorem refMode_ofCode (m d : RefMode) : (RefMode.ofCode? (BitVec.ofNat 16 m.code).toNat).getD d = m := by
  cases m <;> rfl

theorem refMode_code_eq_slope_iff : (BitVec.ofNat 16 m.code).toNat = RefMode.slope.code ↔ m = .slope := by
  cases m <;> decide

/-- R154's check: SLOPE fails while the other side's stored mode is SLOPE. -/
theorem applicationPasses_refMode {t : Settings} (hitem : e.item = .side sd .refMode)
    (hvalue : e.value = BitVec.ofNat 16 m.code) (hother : other ≠ sd) :
    applicationPasses t e = true ↔ ¬(m = .slope ∧ (t.sides.get other).refMode = .slope) := by
  have hcode : e.value.toNat = RefMode.slope.code ↔ m = .slope := by rw [hvalue]; exact refMode_code_eq_slope_iff
  cases sd with
  | left =>
    have hright : other = .right := by cases other <;> trivial
    simp [applicationPasses, hitem, hcode, hright, PerSide.get, imp_iff_not_or]
  | right =>
    have hleft : other = .left := by cases other <;> trivial
    simp [applicationPasses, hitem, hcode, hleft, PerSide.get, imp_iff_not_or]

theorem rejectEntry_port_self :
    ((rejectEntry p e v).ports.get p).lastRejected = some e.item
      ∧ ((rejectEntry p e v).ports.get p).pendingSet = (v.ports.get p).pendingSet ||| alertBit .settingRejected := by
  simp [rejectEntry, raiseOn_get, State.modifyPort, portRaised]

theorem rejectEntry_port_other (hq : q ≠ p) : (rejectEntry p e v).ports.get q = v.ports.get q := by
  simp [rejectEntry, raiseOn_get, State.modifyPort, hq]

/-- The table with a side's reference mode stored. -/
def State.withRefMode (v : State) (sd : Side) (m : RefMode) : State :=
  v.withSettings { v.settings with sides := v.settings.sides.set sd { v.settings.sides.get sd with refMode := m } }

@[simp] theorem withRefMode_frame (v : State) (sd : Side) (m : RefMode) :
    (v.withRefMode sd m).travel = v.travel ∧ (v.withRefMode sd m).seq = v.seq ∧ (v.withRefMode sd m).lev = v.lev
      ∧ (v.withRefMode sd m).feed = v.feed ∧ (v.withRefMode sd m).heat = v.heat ∧ (v.withRefMode sd m).zones = v.zones
      ∧ (v.withRefMode sd m).scan = v.scan ∧ (v.withRefMode sd m).record = v.record
      ∧ (v.withRefMode sd m).store = v.store ∧ (v.withRefMode sd m).ports = v.ports
      ∧ (v.withRefMode sd m).timers = v.timers ∧ (v.withRefMode sd m).pins = v.pins
      ∧ (v.withRefMode sd m).now = v.now ∧ (v.withRefMode sd m).free = v.free
      ∧ (v.withRefMode sd m).pending = v.pending := by
  simp [State.withRefMode]

theorem withRefMode_settings :
    (v.withRefMode sd m).settings =
      { v.settings with sides := v.settings.sides.set sd { v.settings.sides.get sd with refMode := m } } := rfl

theorem storeSetting_refMode (v : State) (sd : Side) (m : RefMode) :
    storeSetting (.side sd .refMode) (BitVec.ofNat 16 m.code) v =
      refModeApplied sd (v.settings.sides.get sd).refMode (v.withRefMode sd m) := by
  have hwrite : (v.settings.sides.get sd).write .refMode (BitVec.ofNat 16 m.code)
      = { v.settings.sides.get sd with refMode := m } := by
    simp only [SideSettings.write, refMode_ofCode]
  simp only [storeSetting, settingApplied, Settings.write, hwrite]
  rfl

theorem withRefMode_refMode : ((v.withRefMode sd m).settings.sides.get sd).refMode = m := by
  rw [withRefMode_settings, PerSide.get_set_self]

/-- A mode already stored, and any mode of a side in MANUAL, is stored and nothing more (R37). -/
theorem storeSetting_refMode_kept (h : (v.settings.sides.get sd).refMode = m ∨ (v.lev.get sd).state = .manual) :
    storeSetting (.side sd .refMode) (BitVec.ofNat 16 m.code) v = v.withRefMode sd m := by
  rw [storeSetting_refMode, refModeApplied, withRefMode_refMode]
  split
  · rfl
  · rename_i hmode
    have hmanual : (v.lev.get sd).state = .manual := h.resolve_left fun hm => hmode hm.symm
    rw [dropSide, if_neg (by simp [engaged_iff, hmanual])]

/-- A changed mode drops a side in AUTO or LOST (R37, R38). -/
theorem storeSetting_refMode_drops (hmode : (v.settings.sides.get sd).refMode ≠ m)
    (hstate : (v.lev.get sd).state ≠ .manual) :
    storeSetting (.side sd .refMode) (BitVec.ofNat 16 m.code) v =
      raiseAll (droppedKind sd) ((v.withRefMode sd m).modifySide sd SideUnit.toManual) := by
  rw [storeSetting_refMode, refModeApplied, withRefMode_refMode, if_neg hmode.symm, dropSide,
    if_pos (by simp [engaged_iff, hstate])]

/-- The application of a reference mode that R154's check rejects. -/
theorem refMode_rejected (hq : (s.ports.get p).queue = e :: rest) (hfail : ¬applicationPasses s.settings e = true) :
    ∃ t, exec (.application p) s = .next t
      ∧ t.settings = s.settings ∧ t.lev = s.lev ∧ (t.ports.get p).lastRejected = some e.item
      ∧ (∀ q, q ≠ p → t.ports.get q = s.ports.get q)
      ∧ (t.ports.get p).pendingSet = (s.ports.get p).pendingSet ||| alertBit .settingRejected
      ∧ changesOnly [.lev, .settings, .ports, .now] s t := by
  obtain ⟨hrejected, hpending⟩ := rejectEntry_port_self (p := p) (e := e) (v := s.popped p e rest)
  rw [application_rejects hq hfail]
  exact ⟨_, rfl, by simp, by simp, hrejected,
    fun q hqp => (rejectEntry_port_other hqp).trans (popped_port_other hqp),
    by rw [hpending, popped_port_self_pending], changesOnly_of fun part => by cases part <;> simp [Part.kept]⟩

/-- The application of a reference mode that passes: the mode stored, a side in AUTO or LOST dropped at a change (R37). -/
theorem refMode_applied (hq : (s.ports.get p).queue = e :: rest) (hitem : e.item = .side sd .refMode)
    (hvalue : e.value = BitVec.ofNat 16 m.code) (hpass : applicationPasses s.settings e = true) :
    ∃ t, exec (.application p) s = .next t
      ∧ t.settings =
          { s.settings with sides := s.settings.sides.set sd { s.settings.sides.get sd with refMode := m } }
      ∧ ((s.settings.sides.get sd).refMode ≠ m → (s.lev.get sd).state ≠ .manual →
          t.lev = s.lev.set sd { s.lev.get sd with state := .manual, raise := 0, lower := 0, goodRun := 0 }
            ∧ ∀ q, (t.ports.get q).pendingSet.getLsbD (droppedKind sd).bit = true)
      ∧ ((s.settings.sides.get sd).refMode = m ∨ (s.lev.get sd).state = .manual → t.lev = s.lev)
      ∧ changesOnly [.lev, .settings, .ports, .now] s t := by
  rw [application_passes hq hpass, hitem, hvalue]
  by_cases hkept : (s.settings.sides.get sd).refMode = m ∨ (s.lev.get sd).state = .manual
  · rw [storeSetting_refMode_kept (by simpa using hkept)]
    exact ⟨_, rfl, by simp [withRefMode_settings], fun hmode hstate => absurd hkept (not_or.2 ⟨hmode, hstate⟩),
      fun _ => by simp, changesOnly_of fun part => by cases part <;> simp [Part.kept]⟩
  · obtain ⟨hmode, hstate⟩ := not_or.1 hkept
    rw [storeSetting_refMode_drops (by simpa using hmode) (by simpa using hstate)]
    refine ⟨_, rfl, by simp [withRefMode_settings], fun _ _ => ⟨?_, fun q => pending_appliedAt p e ?_⟩,
      fun h => absurd h hkept, changesOnly_of fun part => by cases part <;> simp [Part.kept]⟩
    · simp [State.modifySide, SideUnit.toManual, SideUnit.valvesZero]
    · rw [raiseAll_get]
      exact pending_portRaised_self _ _ _

/-- Settles O24: the duty items by the pair they leave, the reference mode by its check and by what a change drops. -/
theorem sideSettingsApplied : Obligations.SideSettingsApplied := by
  refine ⟨fun s p e rest sd hq hitem => ?_, fun s p e rest sd other m hq hitem hvalue hother => ?_⟩
  · intro v c clamped
    rcases hitem with hitem | hitem
    · obtain ⟨t, ht, hsides, hlev, hframe⟩ := duty_application (.inl rfl) hq hitem
      exact ⟨t, ht, fun _ => hsides, fun hmax => by simp [hitem] at hmax, hlev, hframe⟩
    · obtain ⟨t, ht, hsides, hlev, hframe⟩ := duty_application (.inr rfl) hq hitem
      exact ⟨t, ht, fun hmin => by simp [hitem] at hmin, fun _ => hsides, hlev, hframe⟩
  · intro c
    have hpasses := applicationPasses_refMode (t := s.settings) hitem hvalue hother
    by_cases hslope : m = .slope ∧ (s.settings.sides.get other).refMode = .slope
    · obtain ⟨t, ht, hsettings, hlev, hrejected, hothers, hpending, hframe⟩ :=
        refMode_rejected hq (fun h => hpasses.1 h hslope)
      exact ⟨t, ht, fun _ _ => ⟨hsettings, hlev, hrejected, hothers, hpending⟩, fun h => absurd hslope h, hframe⟩
    · obtain ⟨t, ht, hsettings, hdrops, hkept, hframe⟩ := refMode_applied hq hitem hvalue (hpasses.2 hslope)
      exact ⟨t, ht, fun hm ho => absurd ⟨hm, ho⟩ hslope, fun _ => ⟨hsettings, hdrops, hkept⟩, hframe⟩

end RefModeSettings
end Sys2Proof.Machine

/-! # Family 04: the feed tick

A drive's tick in its three outcomes: a drive in FAULT, a drive that is judged and runs on, a drive that enters FAULT; then what
the tick of all four drives does to the ports. -/

namespace Sys2Proof.Machine

section RawCommand

variable {u : DriveUnit} {c : DriveSettings} {mode : Mode} {metering : Bool} {base : Nat} {height : ResultEntry}

theorem clampCommand_eq (x : Int) : clampCommand x = (min 1000 (max 0 x)).toNat := by
  rw [clampCommand, clampInt_eq (by decide)]
  omega

theorem rawCommand_zero (h : mode = .travel ∨ u.state = .off ∨ u.state = .fault) :
    rawCommand u c mode metering base height = (0, u.openLoop) := by
  unfold rawCommand
  rcases h with h | h | h <;> simp [h]

theorem rawCommand_manual (hmode : mode ≠ .travel) (hstate : u.state = .manual) :
    rawCommand u c mode metering base height = (c.manual, u.openLoop) := by
  simp [rawCommand, hmode, hstate]

theorem rawCommand_auto_idle (hstate : u.state = .auto) (hidle : metering = false) :
    rawCommand u c mode metering base height = (0, u.openLoop) := by
  simp [rawCommand, hstate, hidle]

theorem rawCommand_auto_good (hmode : mode ≠ .travel) (hstate : u.state = .auto) (hmetering : metering = true)
    (hgood : height.quality = .good) :
    rawCommand u c mode metering base height = (clampCommand (base + feedCorrection c height.value), false) := by
  simp [rawCommand, hmode, hstate, hmetering, hgood]

theorem rawCommand_auto_bad (hmode : mode ≠ .travel) (hstate : u.state = .auto) (hmetering : metering = true)
    (hbad : height.quality ≠ .good) :
    rawCommand u c mode metering base height = (clampCommand base, true) := by
  simp [rawCommand, hmode, hstate, hmetering, hbad]

theorem rawCommand_prefill_good (hmode : mode ≠ .travel) (hstate : u.state = .prefill)
    (hgood : height.quality = .good) :
    rawCommand u c mode metering base height = (clampCommand (feedCorrection c height.value), false) := by
  simp [rawCommand, hmode, hstate, hgood]

theorem rawCommand_prefill_bad (hmode : mode ≠ .travel) (hstate : u.state = .prefill)
    (hbad : height.quality ≠ .good) : rawCommand u c mode metering base height = (0, true) := by
  simp [rawCommand, hmode, hstate, hbad]

end RawCommand

section Ramp

variable {step held raw : Nat}

@[simp] theorem ramp_zero : ramp step held 0 = 0 := if_pos rfl

theorem ramp_within (hlow : held ≤ raw + step) (hhigh : raw ≤ held + step) : ramp step held raw = raw := by
  unfold ramp
  split_ifs <;> omega

theorem ramp_up (h : held + step < raw) : ramp step held raw = held + step := by
  rw [ramp, if_neg (by omega), if_pos h]

theorem ramp_down (hraw : 0 < raw) (h : raw + step < held) : ramp step held raw = held - step := by
  rw [ramp, if_neg (by omega), if_neg (by omega), if_pos h]

theorem ramp_pos (hraw : 0 < raw) (hstep : 0 < step) : 0 < ramp step held raw := by
  unfold ramp
  split_ifs <;> omega

/-- A ramped command other than 0 lies within the ramp step of the command held (R66). -/
theorem ramp_near (h : ramp step held raw ≠ 0) :
    ramp step held raw ≤ held + step ∧ held ≤ ramp step held raw + step := by
  unfold ramp at h ⊢
  split_ifs at h ⊢ <;> omega

end Ramp

section Tick

variable {u : DriveUnit} {c : DriveSettings} {mode : Mode} {metering running : Bool} {base : Nat}
  {height current : ResultEntry}

theorem faultDue_none_iff :
    u.faultDue = .none ↔ u.overcurrentCount < 3 ∧ u.notRunningCount < 3 ∧ u.runawayCount < 3 := by
  unfold DriveUnit.faultDue
  split_ifs <;> simp <;> omega

/-- The cause of a fault that is due: the first count that reached 3, and the last of the three when no other did (R69). -/
theorem faultDue_of_ne_none (h : u.faultDue ≠ .none) :
    u.faultDue =
      if 3 ≤ u.overcurrentCount then .overcurrent else if 3 ≤ u.notRunningCount then .notRunning else .runaway := by
  unfold DriveUnit.faultDue at h ⊢
  split_ifs at h ⊢ <;> trivial

/-- A drive in FAULT is not judged and gets command 0 (R63, R68). -/
theorem tick_of_fault (h : u.state = .fault) :
    u.tick c mode metering base height current running = { u with command := 0, previous := u.command } := by
  simp [DriveUnit.tick, h, rawCommand_zero (.inr (.inr h))]

/-- A drive that no count puts in FAULT gets its raw command through the ramp (R66, R68). -/
theorem tick_of_judged (h : u.state ≠ .fault) (hdue : (u.judgeFaults c current running).faultDue = .none) :
    u.tick c mode metering base height current running =
      { u.judgeFaults c current running with
        command := ramp c.rampStep u.command (rawCommand u c mode metering base height).1
        previous := u.command
        openLoop := (rawCommand u c mode metering base height).2 } := by
  simp only [DriveUnit.tick, if_neg h, hdue, ne_eq, not_true_eq_false, and_false, if_false]
  rfl

/-- A count of 3 puts the drive in FAULT (R69). -/
theorem tick_of_due (h : u.state ≠ .fault) (hdue : (u.judgeFaults c current running).faultDue ≠ .none) :
    u.tick c mode metering base height current running =
      u.enterFault (u.judgeFaults c current running).faultDue := by
  simp only [DriveUnit.tick, if_neg h]
  exact if_pos ⟨h, hdue⟩

theorem tick_state_of_due (h : u.state ≠ .fault) (hdue : (u.judgeFaults c current running).faultDue ≠ .none) :
    (u.tick c mode metering base height current running).state = .fault := by
  rw [tick_of_due h hdue]
  rfl

/-- The command, the previous command and the mark of a drive that enters no FAULT (R63, R66, R67). -/
theorem tick_commands
    (h : (u.tick c mode metering base height current running).state ≠ .fault ∨ u.state = .fault) :
    (u.tick c mode metering base height current running).previous = u.command
      ∧ (u.tick c mode metering base height current running).command =
          ramp c.rampStep u.command (rawCommand u c mode metering base height).1
      ∧ (u.tick c mode metering base height current running).openLoop =
          (rawCommand u c mode metering base height).2 := by
  by_cases hfault : u.state = .fault
  · rw [tick_of_fault hfault, rawCommand_zero (.inr (.inr hfault))]
    exact ⟨rfl, ramp_zero.symm, rfl⟩
  · have hdue : (u.judgeFaults c current running).faultDue = .none := by
      by_contra hdue
      exact (h.resolve_right hfault) (tick_state_of_due hfault hdue)
    rw [tick_of_judged hfault hdue]
    exact ⟨rfl, rfl, rfl⟩

end Tick

section FeedTick

variable {s : State} {d : Drive}

theorem feedTick_get (s : State) (d : Drive) : (feedTick s).feed.get d = tickDrive s d (s.feed.get d) := by
  simp [feedTick]

theorem exists_drive_iff {P : Drive → Prop} : (∃ d, P d) ↔ P .convL ∨ P .convR ∨ P .augL ∨ P .augR :=
  ⟨fun ⟨d, hd⟩ => by cases d <;> simp [hd], by rintro (h | h | h | h) <;> exact ⟨_, h⟩⟩

/-- A drive that enters FAULT at the feed tick (R69). -/
def EntersFault (s : State) (d : Drive) : Prop :=
  (s.feed.get d).state ≠ .fault ∧ ((feedTick s).feed.get d).state = .fault

/-- FEED_FAULT is raised once, and only at a tick at which a drive enters FAULT (R69). -/
theorem feedTick_ports_of_entry (h : EntersFault s d) (q : Port) :
    (feedTick s).ports.get q = portRaised (s.settings.masks.get q) .feedFault (s.ports.get q) := by
  have hany := exists_drive_iff.1 ⟨d, h⟩
  simp only [EntersFault, feedTick_get] at hany
  simp [feedTick, raiseAllIf, hany, or_assoc, raiseAll_get]

theorem feedTick_ports_of_no_entry (h : ∀ d, ¬EntersFault s d) : (feedTick s).ports = s.ports := by
  have hnone := mt exists_drive_iff.2 (not_exists.2 h)
  simp only [EntersFault, feedTick_get] at hnone
  simp [feedTick, raiseAllIf, hnone, or_assoc]

/-- Settles O25: the tick by `tick_commands`, the raw command by the drive's state. -/
theorem feedTickCommand : Obligations.FeedTickCommand := by
  intro s d
  rw [feedTick_get]
  intro u t c height v base correction clamped metering hruns
  have hclamped : clamped = clampCommand := funext fun x => (clampCommand_eq x).symm
  have hbase : base = feedBase d v c.ratio s.travel.extL s.travel.extR := by simp only [base]; cases d <;> rfl
  have hmetering : (s.settings.mode = .pave && s.travel.moving) = true ↔ metering := by simp [metering]
  have hpave : metering → s.settings.mode ≠ .travel := fun h => by simp [h.1]
  obtain ⟨hprevious, hcommand, hopen⟩ := tick_commands hruns
  have gives {raw : Nat} {mark : Bool}
      (hraw : rawCommand u c s.settings.mode (s.settings.mode = .pave && s.travel.moving)
        (feedBase d v c.ratio s.travel.extL s.travel.extR) height = (raw, mark)) :
      t.command = ramp c.rampStep u.command raw ∧ t.openLoop = mark :=
    ⟨hcommand.trans (congrArg (ramp _ _ ·.1) hraw), hopen.trans (congrArg Prod.snd hraw)⟩
  rw [hclamped, hbase]
  exact ⟨hprevious, fun hzero => gives (rawCommand_zero hzero),
    fun hmode hmanual => gives (rawCommand_manual hmode hmanual),
    fun _ hauto hidle => gives (rawCommand_auto_idle hauto (by simpa using mt hmetering.1 hidle)),
    fun hauto hmeter hgood => gives (rawCommand_auto_good (hpave hmeter) hauto (hmetering.2 hmeter) hgood),
    fun hauto hmeter hbad => gives (rawCommand_auto_bad (hpave hmeter) hauto (hmetering.2 hmeter) hbad),
    fun hmode hprefill hgood => gives (rawCommand_prefill_good hmode hprefill hgood),
    fun hmode hprefill hbad => gives (rawCommand_prefill_bad hmode hprefill hbad)⟩

/-- Settles O27: the judgement by whether a fault is due, the ports by whether a drive enters FAULT. -/
theorem feedFaults : Obligations.FeedFaults := by
  intro s d
  rw [feedTick_get]
  intro u t current running high stopped runaway
  have hjudged : u.judgeFaults (s.settings.drives.get d) current running =
      { u with overcurrentCount := high, notRunningCount := stopped, runawayCount := runaway } := by
    simp [DriveUnit.judgeFaults, high, stopped, runaway]
  have hdue : (u.judgeFaults (s.settings.drives.get d) current running).faultDue = .none ↔
      high < 3 ∧ stopped < 3 ∧ runaway < 3 := by rw [hjudged]; exact faultDue_none_iff
  have hcause (hne : ¬(high < 3 ∧ stopped < 3 ∧ runaway < 3)) :
      (u.judgeFaults (s.settings.drives.get d) current running).faultDue =
        if 3 ≤ high then .overcurrent else if 3 ≤ stopped then .notRunning else .runaway :=
    (faultDue_of_ne_none (mt hdue.1 hne)).trans (by rw [hjudged])
  refine ⟨tick_of_fault, fun hstate hcounts => ?_, fun hstate hcounts => ⟨?_, fun q => ?_⟩, fun h => ?_,
    changesOnly_of fun part => by cases part <;> simp [Part.kept]⟩
  · have ht : t = _ := tick_of_judged hstate (hdue.2 hcounts)
    rw [ht]
    exact ⟨rfl, congrArg (·.overcurrentCount) hjudged, congrArg (·.notRunningCount) hjudged,
      congrArg (·.runawayCount) hjudged, rfl, rfl, rfl⟩
  · exact (tick_of_due hstate (mt hdue.1 hcounts)).trans (congrArg u.enterFault (hcause hcounts))
  · refine feedTick_ports_of_entry (d := d) ⟨hstate, ?_⟩ q
    rw [feedTick_get]
    exact tick_state_of_due hstate (mt hdue.1 hcounts)
  · exact feedTick_ports_of_no_entry fun e hentry => (h e).elim hentry.1 (absurd hentry.2)

end FeedTick
end Sys2Proof.Machine

/-! # Family 04: the feed load

The statement and the model's own operation are both named `feedLoad`; the theorem that settles it stands beside it. -/

namespace Sys2Proof.Machine

section FeedLoad

variable {s : State}

theorem loadCurrent_eq (e : ResultEntry) (u : DriveUnit) :
    loadCurrent e u = if e.quality = .good then (min 1000 (max 0 e.value)).toNat else u.lastGoodCurrent := by
  rw [loadCurrent]
  exact if_congr Iff.rfl (clampCommand_eq e.value) rfl

theorem feedLoad_get (s : State) (d : Drive) :
    (feedLoad s).feed.get d =
      { s.feed.get d with lastGoodCurrent := loadCurrent s.seq.results[currentChannel d] (s.feed.get d) } := by
  simp [feedLoad]

end FeedLoad
end Sys2Proof.Machine

namespace Sys2Proof.Proofs

open Sys2Proof.Machine

/-- Settles O28: the current of each drive by `loadCurrent_eq`, the bound as `FeedLaw` keeps it. -/
theorem feedLoad : Obligations.FeedLoad := by
  intro s current term f
  have hcurrent (d : Drive) : loadCurrent s.seq.results[currentChannel d] (s.feed.get d) = current d :=
    loadCurrent_eq _ _
  have hheat : (Machine.feedLoad s).heat = { s.heat with feedLoad := f } := by
    simp only [f, term, ← hcurrent]
    rfl
  refine ⟨fun d => by rw [feedLoad_get, hcurrent], hheat, fun hlaw hbus => ?_,
    changesOnly_of fun part => by cases part <;> simp [Part.kept], rfl⟩
  obtain ⟨-, hbound⟩ := FeedLaw_feedLoad hbus hlaw
  rwa [hheat] at hbound

end Sys2Proof.Proofs

/-! # Family 04: the ramp over every command

What a command does to the command of a drive, every command and every case: it leaves it, puts it at 0, or ramps it. -/

namespace Sys2Proof.Machine

section CommandSteps

variable {s t u : State} {d : Drive}

/-- From one unit of a drive to the next, its command is held, stopped, or moved by the ramp (R63, R66). -/
inductive CommandStep (c : DriveSettings) (u v : DriveUnit) : Prop
  | held (h : v.command = u.command)
  | stopped (h : v.command = 0)
  | ramped (raw : Nat) (h : v.command = ramp c.rampStep u.command raw)

theorem CommandStep.near {c : DriveSettings} {u v : DriveUnit} (h : CommandStep c u v) (hv : v.command ≠ 0) :
    v.command ≤ u.command + c.rampStep ∧ u.command ≤ v.command + c.rampStep := by
  cases h with
  | held h => omega
  | stopped h => exact absurd h hv
  | ramped raw h => rw [h] at hv ⊢; exact ramp_near hv

/-- Every drive makes such a step from `s` to `t`, with the ramp step that `s` holds. -/
def CommandSteps (s t : State) : Prop :=
  ∀ d, CommandStep (s.settings.drives.get d) (s.feed.get d) (t.feed.get d)

theorem commandSteps_of_feed (h : t.feed = s.feed) : CommandSteps s t := fun _ => .held (by rw [h])

theorem commandSteps_set {x : DriveUnit} (h : t.feed = s.feed.set d x)
    (hx : CommandStep (s.settings.drives.get d) (s.feed.get d) x) : CommandSteps s t := by
  intro e
  rw [h, PerDrive.get_set]
  split
  · rename_i he
    exact he ▸ hx
  · exact .held rfl

theorem commandSteps_modifyDrive {f : DriveUnit → DriveUnit}
    (hf : CommandStep (s.settings.drives.get d) (s.feed.get d) (f (s.feed.get d))) : CommandSteps s (s.modifyDrive d f) :=
  commandSteps_set rfl hf

theorem commandSteps_map {f : Drive → DriveUnit → DriveUnit} (h : t.feed = s.feed.map f)
    (hf : ∀ d, CommandStep (s.settings.drives.get d) (s.feed.get d) (f d (s.feed.get d))) : CommandSteps s t := by
  intro d
  rw [h, PerDrive.get_map]
  exact hf d

section Units

/-! What the operations on one drive do to its command. -/

variable {c : DriveSettings} {u : DriveUnit}

theorem commandStep_endPrefill : CommandStep c u u.endPrefill := by
  unfold DriveUnit.endPrefill
  split
  · split
    · exact .held rfl
    · exact .stopped rfl
  · exact .held rfl

theorem commandStep_toTravel : CommandStep c u u.toTravel := by
  obtain ⟨-, hoff, hother, -⟩ := toTravel_facts u
  by_cases hstate : u.state = .off
  · exact .held (by rw [hoff hstate])
  · obtain ⟨hcommand, -⟩ := hother hstate
    exact .stopped hcommand

theorem commandStep_applyRequest {mode : Mode} {r : FeedRequest} : CommandStep c u (u.applyRequest mode r) := by
  unfold DriveUnit.applyRequest
  split
  · exact .held rfl
  · cases r with
    | off => exact .stopped rfl
    | manual => exact .held rfl
    | auto => exact .held rfl

theorem commandStep_tick {mode : Mode} {metering running : Bool} {base : Nat} {height current : ResultEntry} :
    CommandStep c u (u.tick c mode metering base height current running) := by
  by_cases hfault : u.state = .fault
  · rw [tick_of_fault hfault]
    exact .stopped rfl
  · by_cases hdue : (u.judgeFaults c current running).faultDue = .none
    · rw [tick_of_judged hfault hdue]
      exact .ramped _ rfl
    · rw [tick_of_due hfault hdue]
      exact .stopped rfl

end Units

section Operations

theorem CommandSteps.congr {s' t' : State} (h : CommandSteps s t) (hfeed : s'.feed = s.feed)
    (hsettings : s'.settings = s.settings) (ht : t'.feed = t.feed) : CommandSteps s' t' := by
  intro d
  rw [hfeed, hsettings, ht]
  exact h d

theorem commandSteps_feedRound : CommandSteps s (feedRound s) := by
  intro d
  have hcommand : ((feedRound s).feed.get d).command = (tickDrive s d (s.feed.get d)).command := by
    rw [feedRound, feedLoad_get, feedTick_get]
  cases (commandStep_tick : CommandStep (s.settings.drives.get d) _ (tickDrive s d (s.feed.get d))) with
  | held h => exact .held (hcommand.trans h)
  | stopped h => exact .stopped (hcommand.trans h)
  | ramped raw h => exact .ramped raw (hcommand.trans h)

theorem commandSteps_roundCompletion (cls : SampleClass) : CommandSteps s (roundCompletion cls s) := by
  cases cls with
  | fast | slow => exact commandSteps_of_feed (by simp [roundCompletion])
  | medium =>
    simp only [roundCompletion, mediumRound]
    split
    · exact commandSteps_feedRound.congr (by simp) (by simp) rfl
    · exact (commandSteps_feedRound (s := s.withFree (s.free + 1))).congr rfl rfl (by simp)

theorem changeToTravel_feed (old : Mode) : (changeToTravel old s).feed = s.feed.map fun _ u => u.toTravel := by
  simp only [changeToTravel]
  split <;> simp

theorem modeApplied_feed (old : Mode) :
    (modeApplied old s).feed = s.feed ∨ (modeApplied old s).feed = s.feed.map fun _ u => u.toTravel := by
  simp only [modeApplied, modeChanged]
  (repeat' split) <;> simp [changeToTravel_feed]

/-- A stored value reaches the commands as a change to TRAVEL or as a state request only (R155). -/
theorem commandSteps_storeSetting (st : Setting) (w : Word) : CommandSteps s (storeSetting st w s) := by
  cases st with
  | machineMode =>
    rcases modeApplied_feed (s := s.withSettings (s.settings.write .machineMode w)) s.settings.mode with h | h
    · exact commandSteps_of_feed h
    · exact commandSteps_map h fun _ => commandStep_toTravel
  | drive d i =>
    cases i with
    | request => exact commandSteps_set rfl commandStep_applyRequest
    | _ => exact commandSteps_of_feed rfl
  | side sd i => exact commandSteps_of_feed (by cases i <;> simp [storeSetting, settingApplied])
  | zone k i =>
    exact commandSteps_of_feed (by cases i <;> simp [storeSetting, settingApplied, apply_ite State.feed])
  | _ => exact commandSteps_of_feed (by simp [storeSetting, settingApplied])

theorem commandSteps_clearDrive (p : Port) (d : Drive) : CommandSteps s (clearDrive p d s) := by
  unfold clearDrive
  split
  · split
    · exact (commandSteps_modifyDrive (d := d) (f := DriveUnit.clearFault) (.stopped rfl)).congr rfl rfl (by simp)
    · exact commandSteps_of_feed (by simp)
  · exact commandSteps_of_feed (by simp)

end Operations

/-- The commands that reach a drive. -/
def reachesDrives : Instr → Bool
  | .powerOn | .restart _ | .speedWindowExpiry | .conversionCompletion _ _ | .prefillTimerExpiry _ | .prefill _ _
  | .clearFault _ _ _ | .application _ => true
  | .forwardPulse | .reversePulse | .radarPulse | .secondsCountTick | .plausibilityWindowExpiry | .classPeriodExpiry _
  | .converterTake | .settleEnd | .overloadRecoveryEnd | .sampleTimerExpiry | .jogTimerExpiry _ | .scannerLine _ _
  | .scannerSilenceExpiry | .sliceStart | .heatingWaitEnd | .readback _ | .trip _ | .read _ _ _ | .write _ _ _ | .page _ _
  | .takeAlerts _ | .alertDone _ | .engage _ _ | .disengage _ _ | .setZero _ _ | .jog _ _ _ _ | .fetch _ | .release _ _
  | .rewind _ | .portReset _ | .badFrame _ _ | .copyCompletion | .heldAnswerExpiry | .presenceTimeout _
  | .scannerRunStart => false

theorem sideRequest_feed {p : Port} {item : Byte} {act : Side → State → State} (hact : ∀ sd u, (act sd u).feed = u.feed) :
    (sideRequest p item act s).feed = s.feed := by
  simp only [sideRequest]
  (repeat' split) <;> simp [hact]

/-- Outside those commands nothing touches a drive: each is made of operations that leave the feed unit. -/
theorem feed_of_not_reachesDrives {i : Instr} (hi : reachesDrives i = false) (hx : exec i s = .next t) :
    t.feed = s.feed := by
  cases i with
  | engage | disengage | setZero => cases hx; exact sideRequest_feed fun _ _ => by simp
  | jog =>
    simp only [exec, execJog, Host.Outcome.next.injEq] at hx
    subst hx
    split
    · simp
    · exact sideRequest_feed fun _ _ => by simp
  | plausibilityWindowExpiry =>
    rw [exec_plausibilityWindowExpiry] at hx
    cases hx
    split <;> simp
  | forwardPulse | reversePulse | radarPulse | secondsCountTick | classPeriodExpiry | converterTake | settleEnd
  | overloadRecoveryEnd | sampleTimerExpiry | jogTimerExpiry | scannerLine | scannerSilenceExpiry | sliceStart
  | heatingWaitEnd | readback | trip | read | write | page | takeAlerts | alertDone | fetch | release | rewind | portReset
  | badFrame | copyCompletion | heldAnswerExpiry | presenceTimeout | scannerRunStart =>
    simp only [exec, execForwardPulse, execReversePulse, execRadarPulse, execSecondsCountTick, execClassPeriodExpiry,
      execConverterTake, execSettleEnd, execOverloadRecoveryEnd, execSampleTimerExpiry, execJogTimerExpiry, execScannerLine,
      execScannerSilenceExpiry, execSliceStart, execHeatingWaitEnd, execReadback, execTrip, execRead, execWrite, execPage,
      execTakeAlerts, execAlertDone, execFetch, execRelease, execRewind, execPortReset, execBadFrame, execCopyCompletion,
      execHeldAnswerExpiry, execPresenceTimeout, execScannerRunStart, Host.Outcome.next.injEq] at hx
    subst hx
    (repeat' split) <;> simp
  | _ => cases hi

theorem commandSteps_powerOn (hx : exec .powerOn s = .next t) : CommandSteps s t := by
  cases hx
  exact fun d => .stopped (by cases d <;> rfl)

theorem commandSteps_restart {p : Port} (hx : exec (.restart p) s = .next t) : CommandSteps s t := by
  simp only [exec, execRestart, Host.Outcome.next.injEq] at hx
  subst hx
  split
  · exact commandSteps_map (f := fun _ u => u.restarted) (by simp [restartPart]) fun _ => .stopped rfl
  · exact commandSteps_of_feed (by simp)

theorem commandSteps_speedWindowExpiry (hx : exec .speedWindowExpiry s = .next t) : CommandSteps s t := by
  rw [exec_speedWindowExpiry] at hx
  cases hx
  by_cases hmoving : s.travel.endWindow.moving
  · exact commandSteps_map (f := fun _ u => u.endPrefill) (by simp [prefillWindow, hmoving]) fun _ => commandStep_endPrefill
  · exact commandSteps_of_feed (by simp [prefillWindow, hmoving])

theorem commandSteps_conversionCompletion {count : BitVec 12} {pins : Pins}
    (hx : exec (.conversionCompletion count pins) s = .next t) : CommandSteps s t := by
  cases hconv : s.seq.converter with
  | converting c tag due =>
    rw [exec_conversionCompletion hconv] at hx
    cases hx
    split
    · exact (commandSteps_roundCompletion _).congr (by simp) (by simp) rfl
    · exact commandSteps_of_feed (by simp)
  | idle | settling | recovering =>
    simp only [exec, execConversionCompletion, hconv, Host.Outcome.next.injEq] at hx
    exact commandSteps_of_feed (by rw [hx])

theorem commandSteps_prefillTimerExpiry (hx : exec (.prefillTimerExpiry d) s = .next t) : CommandSteps s t := by
  simp only [exec, execPrefillTimerExpiry, Host.Outcome.next.injEq] at hx
  subst hx
  split
  · exact (commandSteps_modifyDrive commandStep_endPrefill).congr (by simp) (by simp) rfl
  · exact commandSteps_of_feed rfl

theorem commandSteps_prefill {p : Port} {item : Byte} (hx : exec (.prefill p item) s = .next t) : CommandSteps s t := by
  simp only [exec, execPrefill, Host.Outcome.next.injEq] at hx
  subst hx
  split
  · exact commandSteps_of_feed (by simp)
  · rename_i d _
    split
    · split
      · exact (commandSteps_modifyDrive (f := fun u => u.startPrefill _) (.held rfl)).congr (by simp) (by simp) rfl
      · exact commandSteps_of_feed (by simp)
    · exact commandSteps_of_feed (by simp)

theorem commandSteps_clearFault {p : Port} {item : Byte} {pins : Pins} (hx : exec (.clearFault p item pins) s = .next t) :
    CommandSteps s t := by
  simp only [exec, execClearFault, Host.Outcome.next.injEq] at hx
  subst hx
  split
  · exact (commandSteps_clearDrive p _).congr (by simp) (by simp) rfl
  · split <;> exact commandSteps_of_feed (by simp)

theorem commandSteps_application {p : Port} (hx : exec (.application p) s = .next t) : CommandSteps s t := by
  cases hq : (s.ports.get p).queue with
  | nil =>
    simp only [exec, execApplication, hq, Host.Outcome.next.injEq] at hx
    exact commandSteps_of_feed (by rw [hx])
  | cons e rest =>
    by_cases hpass : applicationPasses s.settings e = true
    · rw [application_passes hq hpass] at hx
      cases hx
      exact (commandSteps_storeSetting (s := s.popped p e rest) e.item e.value).congr (by simp) (by simp) (by simp)
    · rw [application_rejects hq hpass] at hx
      cases hx
      exact commandSteps_of_feed (by simp)

/-- Every command holds, stops or ramps the command of each drive. -/
theorem commandSteps_of_exec {i : Instr} (hx : exec i s = .next t) : CommandSteps s t := by
  cases hi : reachesDrives i with
  | false => exact commandSteps_of_feed (feed_of_not_reachesDrives hi hx)
  | true =>
    cases i with
    | powerOn => exact commandSteps_powerOn hx
    | restart => exact commandSteps_restart hx
    | speedWindowExpiry => exact commandSteps_speedWindowExpiry hx
    | conversionCompletion => exact commandSteps_conversionCompletion hx
    | prefillTimerExpiry => exact commandSteps_prefillTimerExpiry hx
    | prefill => exact commandSteps_prefill hx
    | clearFault => exact commandSteps_clearFault hx
    | application => exact commandSteps_application hx
    | _ => cases hi

theorem Lawful.feedLaw (h : Lawful s) : FeedLaw s := by
  obtain ⟨-, -, -, -, hfeed⟩ := h.machineLaws
  exact hfeed

/-- In a lawful state the command is at most 1000, and 0 in TRAVEL, in OFF and in FAULT (R66). -/
theorem FeedLaw.command (h : FeedLaw s) (d : Drive) :
    (s.feed.get d).command ≤ 1000
      ∧ (s.settings.mode = .travel ∨ (s.feed.get d).state = .off ∨ (s.feed.get d).state = .fault →
          (s.feed.get d).command = 0) := by
  obtain ⟨hle, -, -, hzero, htravel, -⟩ := h.1 d
  exact ⟨hle, fun hstill => hzero (hstill.elim htravel id)⟩

/-- Settles O26: the ramp by its equations, a command by the cases of `CommandStep`, the bounds by `FeedLaw`. -/
theorem feedRamp : Obligations.FeedRamp :=
  ⟨fun _ _ _ => ⟨ramp_zero, fun hraw hstep => ⟨ramp_pos hraw hstep, fun ⟨hlow, hhigh⟩ => ramp_within hlow hhigh, ramp_up,
      ramp_down hraw⟩⟩,
    fun _ _ _ d hx _ hne => (commandSteps_of_exec hx d).near hne,
    fun _ hs => hs.feedLaw.command⟩

end CommandSteps
end Sys2Proof.Machine

/-! # Family 04: state requests, PREFILL and CLEAR-FAULT -/

namespace Sys2Proof.Machine

section StateRequests

variable {s t v : State} {p : Port} {e : PostEntry} {rest : List PostEntry} {d : Drive} {r : FeedRequest} {u : DriveUnit}
  {mode : Mode}

theorem request_ofCode (r x : FeedRequest) : (FeedRequest.ofCode? (BitVec.ofNat 16 r.code).toNat).getD x = r := by
  cases r <;> rfl

/-- The table with a drive's state request stored. -/
def Settings.withRequest (c : Settings) (d : Drive) (r : FeedRequest) : Settings :=
  { c with drives := c.drives.set d { c.drives.get d with request := r } }

/-- A stored state request acts on its drive (R61, R155). -/
theorem storeSetting_request (v : State) (d : Drive) (r : FeedRequest) :
    storeSetting (.drive d .request) (BitVec.ofNat 16 r.code) v =
      (v.withSettings (v.settings.withRequest d r)).modifyDrive d fun u => u.applyRequest v.settings.mode r := by
  have hwrite : v.settings.write (.drive d .request) (BitVec.ofNat 16 r.code) = v.settings.withRequest d r := by
    simp only [Settings.write, DriveSettings.write, request_ofCode]
    rfl
  simp only [storeSetting, settingApplied, hwrite, State.withSettings_settings, Settings.withRequest,
    PerDrive.get_set_self]

theorem applyRequest_stored (h : mode = .travel ∨ u.state = .fault ∨ u.state = r.state) :
    u.applyRequest mode r = u := if_pos h

theorem applyRequest_enters (hmode : mode ≠ .travel) (hfault : u.state ≠ .fault) (hstate : u.state ≠ r.state) :
    u.applyRequest mode r = u.enterRequested r := if_neg (by simp [hmode, hfault, hstate])

theorem PerDrive.set_get_self {α : Type} (v : PerDrive α) (d : Drive) : v.set d (v.get d) = v := by cases d <;> rfl

/-- The application of a state request: the value stored, and the drive as `applyRequest` leaves it (R61). -/
theorem request_application (hq : (s.ports.get p).queue = e :: rest) (hitem : e.item = .drive d .request)
    (hvalue : e.value = BitVec.ofNat 16 r.code) :
    ∃ t, exec (.application p) s = .next t
      ∧ t.settings = s.settings.withRequest d r
      ∧ t.feed = s.feed.set d ((s.feed.get d).applyRequest s.settings.mode r)
      ∧ changesOnly [.feed, .settings, .ports, .now] s t := by
  have hpass : applicationPasses s.settings e = true := by simp [applicationPasses, hitem]
  rw [application_passes hq hpass, hitem, hvalue, storeSetting_request]
  exact ⟨_, rfl, by simp, by simp [State.modifyDrive], changesOnly_of fun part => by cases part <;> simp [Part.kept]⟩

theorem presenceTimeout_leaves (hx : exec (.presenceTimeout p) s = .next t) :
    t.feed = s.feed ∧ t.settings = s.settings := by
  simp only [exec, execPresenceTimeout, Host.Outcome.next.injEq] at hx
  subst hx
  split <;> simp

/-- Settles O29: the application by `request_application`, the drive by whether it acts on the request. -/
theorem stateRequestApplied : Obligations.StateRequestApplied := by
  refine ⟨fun s p e rest d r hq hitem hvalue => ?_, fun s t p => presenceTimeout_leaves⟩
  intro u wanted
  have hwanted : wanted = r.state := by simp only [wanted]; cases r <;> rfl
  obtain ⟨t, ht, hsettings, hfeed, hframe⟩ := request_application hq hitem hvalue
  refine ⟨t, ht, hsettings, fun hstored => ?_, fun hmode hfault hstate => ?_, hframe⟩
  · rw [hfeed, applyRequest_stored (hwanted ▸ hstored), PerDrive.set_get_self]
  · rw [hfeed, applyRequest_enters hmode hfault (hwanted ▸ hstate)]
    exact ⟨fun hr => by rw [hr]; rfl, fun hr => by rw [hr]; rfl, fun hr => by rw [hr]; rfl⟩

end StateRequests

section DriveRequests

variable {s : State} {p : Port} {item : Byte} {d : Drive} {pins : Pins} {k : Fin 12}

theorem driveOfByte_none (h : 4 ≤ item.toNat) : driveOfByte item = none := dif_neg (by omega)

theorem driveOfByte_index (d : Drive) : driveOfByte (BitVec.ofNat 8 (driveIndex d).val) = some d := by
  cases d <;> rfl

theorem mayCommandDrive_iff : mayCommandDrive p d = true ↔ p = .m ∨ p = stationOfSide (sideOfDrive d) := by
  simp [mayCommandDrive]

theorem prefillAllowed_iff :
    prefillAllowed s d = true ↔
      s.settings.mode ≠ .travel ∧ ((s.feed.get d).state = .off ∨ (s.feed.get d).state = .auto)
        ∧ s.travel.moving = false := by
  simp [prefillAllowed, and_assoc]

theorem prefillAllowed_taken : prefillAllowed (takeRequest p s) d = prefillAllowed s d := by simp [prefillAllowed]

/-- A request answered OK after a change of one drive (R70, R71). -/
theorem answeredOnly_actedDrive (s : State) (p : Port) (a : Answer) (d : Drive) (f : DriveUnit → DriveUnit) :
    answeredOnly s (answer p a ((takeRequest p s).modifyDrive d f)) p a
      ∧ (answer p a ((takeRequest p s).modifyDrive d f)).feed = s.feed.set d (f (s.feed.get d))
      ∧ changesOnly [.feed, .ports] s (answer p a ((takeRequest p s).modifyDrive d f)) :=
  ⟨answer_take p a s, rfl, changesOnly_of fun part => by cases part <;> simp [Part.kept]⟩

theorem exec_prefill_noDrive (h : driveOfByte item = none) :
    exec (.prefill p item) s = .next (answerCode p .refused (takeRequest p s)) := by
  simp only [exec, execPrefill, h]

/-- PREFILL of a drive: the two checks that are left, then the run (R71). -/
theorem exec_prefill (h : driveOfByte item = some d) :
    exec (.prefill p item) s = .next
      (if mayCommandDrive p d then
        if prefillAllowed s d then
          answerCode p .ok ((takeRequest p s).modifyDrive d fun u => u.startPrefill (s.now + 6000000))
        else answerCode p .notNow (takeRequest p s)
      else answerCode p .notAllowed (takeRequest p s)) := by
  simp only [exec, execPrefill, h, prefillAllowed_taken, takeRequest_frame]
  rfl

theorem prefillTimerExpiry_outcome (hstate : (s.feed.get d).state = .prefill) :
    ∃ t, exec (.prefillTimerExpiry d) s = .next t
      ∧ t.feed = s.feed.set d (s.feed.get d).endPrefill
      ∧ changesOnly [.feed, .now] s t := by
  exact ⟨(s.reachOpt (s.feed.get d).prefillDue).modifyDrive d DriveUnit.endPrefill,
    congrArg Host.Outcome.next (if_pos hstate), by simp [State.modifyDrive],
    changesOnly_of fun part => by cases part <;> simp [Part.kept]⟩

theorem endPrefill_auto {u : DriveUnit} (hstate : u.state = .prefill) (hreturn : u.returnAuto = true) :
    u.endPrefill = { u with state := .auto, prefillDue := none } := by
  simp only [DriveUnit.endPrefill, hstate, hreturn, if_true]

theorem endPrefill_off {u : DriveUnit} (hstate : u.state = .prefill) (hreturn : u.returnAuto = false) :
    u.endPrefill =
      { u with state := .off, command := 0, previous := u.command, openLoop := false, prefillDue := none } := by
  simp [DriveUnit.endPrefill, DriveUnit.enterOff, hstate, hreturn]

/-- Settles O30: the checks of PREFILL by its equation, the end of the run by `endPrefill`. -/
theorem prefillRuns : Obligations.PrefillRuns := by
  refine ⟨fun s p item => ⟨fun hitem => ?_, fun d hitem => ?_⟩, fun s d hstate => ?_⟩
  · rw [exec_prefill_noDrive (driveOfByte_none hitem)]
    exact ⟨_, rfl, answeredOnly_taken s p _⟩
  · intro u allowed able
    have hallowed : mayCommandDrive p d = true ↔ allowed := mayCommandDrive_iff
    have hable : prefillAllowed s d = true ↔ able := prefillAllowed_iff
    rw [exec_prefill (hitem ▸ driveOfByte_index d)]
    refine ⟨fun hno => ?_, fun hmay hno => ?_, fun hmay hcan => ?_⟩
    · rw [if_neg (mt hallowed.1 hno)]
      exact ⟨_, rfl, answeredOnly_taken s p _⟩
    · rw [if_pos (hallowed.2 hmay), if_neg (mt hable.1 hno)]
      exact ⟨_, rfl, answeredOnly_taken s p _⟩
    · rw [if_pos (hallowed.2 hmay), if_pos (hable.2 hcan)]
      exact ⟨_, rfl, answeredOnly_actedDrive s p _ d _⟩
  · intro u
    obtain ⟨t, ht, hfeed, hframe⟩ := prefillTimerExpiry_outcome hstate
    exact ⟨t, ht, fun hauto => by rw [hfeed, endPrefill_auto hstate hauto],
      fun hoff => by rw [hfeed, endPrefill_off hstate hoff], hframe⟩

end DriveRequests

section ClearFault

variable {s : State} {p : Port} {item : Byte} {d : Drive} {pins : Pins} {k : Fin 12}

/-- The state CLEAR-FAULT is judged in: the request taken, the input pins sampled (R70, R109). -/
def State.sampled (s : State) (p : Port) (pins : Pins) : State := (takeRequest p s).withPins pins

/-- A CLEAR-FAULT that is only answered. -/
theorem answeredOnly_sampled (s : State) (p : Port) (pins : Pins) (a : Answer) :
    answeredOnly s (answer p a (s.sampled p pins)) p a
      ∧ (answer p a (s.sampled p pins)).pins = pins
      ∧ changesOnly [.ports, .pins] s (answer p a (s.sampled p pins)) :=
  ⟨answer_take p a s, rfl, changesOnly_of fun part => by cases part <;> simp [Part.kept, State.sampled]⟩

theorem zoneOfByte_none (h : item.toNat < 16 ∨ 28 ≤ item.toNat) : zoneOfByte item = none := dif_neg (by omega)

theorem toNat_zoneByte (k : Fin 12) : (BitVec.ofNat 8 (16 + k.val)).toNat = 16 + k.val := by
  rw [BitVec.toNat_ofNat]
  omega

theorem zoneOfByte_index (k : Fin 12) : zoneOfByte (BitVec.ofNat 8 (16 + k.val)) = some k := by
  have htoNat := toNat_zoneByte k
  rw [zoneOfByte, dif_pos (by omega)]
  exact congrArg some (Fin.ext (by simp only [htoNat]; omega))

theorem mayWriteZone_iff :
    mayWriteZone p k = true ↔ p = .m ∨ p = .l ∧ k.val < 8 ∨ p = .r ∧ (k.val < 4 ∨ 8 ≤ k.val) := by
  cases p <;> simp [mayWriteZone]

theorem zoneClearable_iff {z : ZoneUnit} {sense : Bool} :
    zoneClearable z sense = true ↔ z.state = .faultOpen ∨ z.state = .faultWelded ∧ sense = false := by
  simp [zoneClearable]

/-- CLEAR-FAULT of a drive: the two checks that are left, then the clearing (R70). -/
theorem exec_clearFault_drive (h : driveOfByte item = some d) :
    exec (.clearFault p item pins) s = .next
      (if mayCommandDrive p d then
        if (s.feed.get d).state = .fault then answerCode p .ok ((s.sampled p pins).modifyDrive d DriveUnit.clearFault)
        else answerCode p .notNow (s.sampled p pins)
      else answerCode p .notAllowed (s.sampled p pins)) := by
  simp only [exec, execClearFault, h]
  rfl

/-- CLEAR-FAULT of a zone, judged by the sense inputs it samples (R109). -/
theorem exec_clearFault_zone (hdrive : driveOfByte item = none) (hzone : zoneOfByte item = some k) :
    exec (.clearFault p item pins) s = .next
      (if mayWriteZone p k then
        if zoneClearable s.zones[k] (pins.sense.getLsbD k.val) then
          answerCode p .ok ((s.sampled p pins).withZones (s.zones.set k s.zones[k].clearFault))
        else answerCode p .notNow (s.sampled p pins)
      else answerCode p .notAllowed (s.sampled p pins)) := by
  simp only [exec, execClearFault, hdrive, hzone]
  rfl

theorem exec_clearFault_none (hdrive : driveOfByte item = none) (hzone : zoneOfByte item = none) :
    exec (.clearFault p item pins) s = .next (answerCode p .refused (s.sampled p pins)) := by
  simp only [exec, execClearFault, hdrive, hzone]
  rfl

/-- Settles O31: the checks by what the item byte names, the clearing by the equation of its unit. -/
theorem clearFault : Obligations.ClearFault := by
  intro s p item pins answers
  have answered (code : AnswerCode)
      (hx : exec (.clearFault p item pins) s = .next (answerCode p code (s.sampled p pins))) : answers code :=
    ⟨_, hx, answeredOnly_sampled s p pins _⟩
  refine ⟨fun hitem => ?_, fun d hitem => ?_, fun k hitem => ?_⟩
  · exact answered _ (exec_clearFault_none (driveOfByte_none (by omega)) (zoneOfByte_none (by omega)))
  · intro u allowed
    have hallowed : mayCommandDrive p d = true ↔ allowed := mayCommandDrive_iff
    have hx := exec_clearFault_drive (s := s) (p := p) (pins := pins) (hitem ▸ driveOfByte_index d)
    refine ⟨fun hno => answered _ ?_, fun hmay hno => answered _ ?_, fun hmay hfault => ?_⟩
    · rwa [if_neg (mt hallowed.1 hno)] at hx
    · rwa [if_pos (hallowed.2 hmay), if_neg hno] at hx
    · rw [if_pos (hallowed.2 hmay), if_pos hfault] at hx
      exact ⟨_, hx, answer_take p _ s, rfl, rfl,
        changesOnly_of fun part => by cases part <;> simp [Part.kept, State.sampled]⟩
  · intro z allowed able
    have hallowed : mayWriteZone p k = true ↔ allowed := mayWriteZone_iff
    have hable : zoneClearable z (pins.sense.getLsbD k.val) = true ↔ able := zoneClearable_iff
    have hdrive : driveOfByte item = none := driveOfByte_none (by rw [hitem, toNat_zoneByte]; omega)
    have hx := exec_clearFault_zone (s := s) (p := p) (pins := pins) hdrive (hitem ▸ zoneOfByte_index k)
    refine ⟨fun hno => answered _ ?_, fun hmay hno => answered _ ?_, fun hmay hcan => ?_⟩
    · rwa [if_neg (mt hallowed.1 hno)] at hx
    · rwa [if_pos (hallowed.2 hmay), if_neg (mt hable.1 hno)] at hx
    · rw [if_pos (hallowed.2 hmay), if_pos (hable.2 hcan)] at hx
      exact ⟨_, hx, answer_take p _ s, rfl, rfl,
        changesOnly_of fun part => by cases part <;> simp [Part.kept, State.sampled]⟩

end ClearFault
end Sys2Proof.Machine

/-! # Family 05: every command keeps the laws of the heating

What is missing of the laws of chapters 5 and 6 (the slice timer's expiry, the readback, CLEAR-FAULT of a zone), then one lemma
for each command that reaches the heat grant unit or the zones. -/

namespace Sys2Proof.Machine

section ZoneLaws

variable {s : State} {z : ZoneUnit} {sense : Bool}

/-- What the laws ask of one zone's change: it enters and leaves OFF with nothing else, an output left on was on in a zone in
HEATING, and its counts are lawful still. -/
structure ZoneKept (z y : ZoneUnit) : Prop where
  off : y.state = .off ↔ z.state = .off
  output : (z.output = true → z.state = .heating) → y.output = true → y.state = .heating ∧ z.output = true
  demand : ZoneDemandLawful z → ZoneDemandLawful y

theorem ZoneKept.refl (z : ZoneUnit) : ZoneKept z z := ⟨.rfl, fun h hon => ⟨h hon, hon⟩, id⟩

theorem ZoneDemandLawful.openCount_le (h : ZoneDemandLawful z) : z.openCount ≤ 1 := by
  obtain ⟨-, -, -, -, -, hopen, -⟩ := h
  exact hopen

theorem ZoneDemandLawful.weldCount_le (h : ZoneDemandLawful z) : z.weldCount ≤ 1 := by
  obtain ⟨-, -, -, -, -, -, hweld⟩ := h
  exact hweld

/-- A zone whose state, output and mismatch counts alone change has lawful counts when the new mismatch counts are. -/
theorem ZoneDemandLawful.judged {y : ZoneUnit} (h : ZoneDemandLawful z) (hopen : y.openCount ≤ 1) (hweld : y.weldCount ≤ 1)
    (hsame : y = { z with
      state := y.state, openCount := y.openCount, weldCount := y.weldCount, output := y.output }) :
    ZoneDemandLawful y := by
  obtain ⟨hdemand, hle, hstarved, hboost, hmissed, -, -⟩ := h
  rw [hsame]
  exact ⟨hdemand, hle, hstarved, hboost, hmissed, hopen, hweld⟩

theorem zoneKept_onCheck : ZoneKept z (z.onCheck sense) := by
  unfold ZoneUnit.onCheck
  split
  · rename_i hheating
    split
    · exact ⟨.rfl, fun h hon => ⟨h hon, hon⟩, fun hd => hd.judged (Nat.zero_le _) hd.weldCount_le rfl⟩
    · split
      · exact ⟨.rfl, fun h hon => ⟨h hon, hon⟩, fun hd => hd.judged (Nat.le_refl _) hd.weldCount_le rfl⟩
      · exact ⟨by simp [hheating], fun _ hon => (nomatch hon), fun hd => hd.judged (Nat.zero_le _) hd.weldCount_le rfl⟩
  · exact .refl z

/-- A zone judged by R108 is commanded off, so the check gives no output. -/
theorem zoneKept_offCheck (hoff : z.output = false) : ZoneKept z (z.offCheck sense) := by
  have hno {y : ZoneUnit} (hy : y.output = z.output) : ¬y.output = true := by rw [hy, hoff]; exact Bool.false_ne_true
  unfold ZoneUnit.offCheck
  split
  case h_1 | h_2 => exact .refl z
  all_goals
    rename_i hstate
    split
    · split
      · exact ⟨.rfl, fun _ hon => absurd hon (hno rfl), fun hd => hd.judged hd.openCount_le (Nat.le_refl _) rfl⟩
      · exact ⟨by simp [hstate], fun _ hon => absurd hon (hno rfl),
          fun hd => hd.judged (Nat.zero_le _) (Nat.zero_le _) rfl⟩
    · exact ⟨.rfl, fun _ hon => absurd hon (hno rfl), fun hd => hd.judged hd.openCount_le (Nat.zero_le _) rfl⟩

theorem zoneKept_readback : ZoneKept z (z.readback sense) := by
  unfold ZoneUnit.readback
  split
  · exact .refl z
  · split
    · exact zoneKept_onCheck
    · exact zoneKept_offCheck (by simpa using ‹¬z.output = true›)

/-- CLEAR-FAULT acts on a zone in a fault state only, so it takes no zone out of OFF (R109). -/
theorem zoneKept_clearFault (h : zoneClearable z sense = true) : ZoneKept z z.clearFault := by
  have hstate : z.state ≠ .off := fun hoff => by simp [zoneClearable, hoff] at h
  exact ⟨by simp [ZoneUnit.clearFault, hstate], fun _ hon => (nomatch hon),
    fun hd => hd.judged (Nat.zero_le _) (Nat.zero_le _) rfl⟩

end ZoneLaws

section HeatingLaws

/-- The laws of the heating, of chapters 5 and 6. -/
def HeatingLaws (s : State) : Prop := CapacityLaw s ∧ GrantLaw s ∧ DemandLaw s

theorem Lawful.heatingLaws {s : State} (h : Lawful s) : HeatingLaws s := by
  obtain ⟨-, -, -, -, -, -, -, hcapacity, hgrant, hdemand, -⟩ := h
  exact ⟨hcapacity, hgrant, hdemand⟩

variable {s t : State} {p : Port}

/-- A change of the zones keeps the laws when it keeps those of every zone. -/
theorem heatingLaws_zones {u : State} (h : HeatingLaws s) (hheat : u.heat = s.heat) (hsettings : u.settings = s.settings)
    (hzones : ∀ k : Fin 12, ZoneKept s.zones[k] u.zones[k]) : HeatingLaws u := by
  obtain ⟨hcapacity, hgrant, hdemand⟩ := h
  have hheating (k : Fin 12) (hon : s.zones[k].output = true) : s.zones[k].state = .heating := by
    obtain ⟨-, -, -, houtput, -⟩ := hgrant
    exact (houtput k hon).2
  exact ⟨(CapacityLaw_congr hheat hsettings).2 hcapacity,
    GrantLaw_z hgrant hheat fun k => ⟨(hzones k).off, (hzones k).output (hheating k)⟩,
    fun k => (hzones k).demand (hdemand k)⟩

theorem heatingLaws_takeRequest (p : Port) (h : HeatingLaws s) : HeatingLaws (takeRequest p s) := by
  simpa [HeatingLaws] using h

theorem heatingLaws_answerCode (p : Port) (c : AnswerCode) (h : HeatingLaws s) : HeatingLaws (answerCode p c s) := by
  simpa [HeatingLaws] using h

theorem heatingLaws_powerOn (hx : exec .powerOn s = .next t) : HeatingLaws t := by
  rw [exec_powerOn] at hx
  cases hx
  exact ⟨capacityLaw_reset, grantLaw_reset, demandLaw_reset⟩

theorem heatingLaws_cycleBoundary {closes : Bool} (hrunning : s.heat.running = true) (h : HeatingLaws s) :
    HeatingLaws (cycleBoundary closes s) := by
  obtain ⟨hcapacity, -, hdemand⟩ := h
  exact ⟨CapacityLaw_cycleBoundary hcapacity, GrantLaw_cycleBoundary hrunning, DemandLaw_cycleBoundary hdemand⟩

/-- The next slice of a running cycle: no zone is in OFF, so the grants are those of zones that take part (R86, R98). -/
theorem heatingLaws_nextSlice (hrunning : s.heat.running = true) (hslice : s.heat.slice < 31) (h : HeatingLaws s) :
    HeatingLaws (startSlice (s.withHeat { s.heat with slice := s.heat.slice + 1 })) := by
  obtain ⟨hcapacity, ⟨hoffs, -⟩, hdemand⟩ := h
  have hnotOff (k : Fin 12) : s.zones[k].state ≠ .off := fun hoff => by
    have hstopped := (hoffs k).1 hoff
    rw [hrunning] at hstopped
    cases hstopped
  exact ⟨CapacityLaw_startSlice (CapacityLaw_slice hcapacity _ (by omega)), GrantLaw_startSlice hrunning hnotOff,
    DemandLaw_startSlice hdemand⟩

theorem heatingLaws_sliceStart (h : HeatingLaws s) (hx : exec .sliceStart s = .next t) : HeatingLaws t := by
  simp only [exec, execSliceStart, Host.Outcome.next.injEq] at hx
  subst hx
  have hreached : HeatingLaws (s.reachOpt s.timers.slice) := by simpa [HeatingLaws] using h
  split
  · have hrunning : (s.reachOpt s.timers.slice).heat.running = true := by simpa
    split
    · exact heatingLaws_nextSlice hrunning ‹_› hreached
    · exact heatingLaws_cycleBoundary hrunning hreached
  · exact h

theorem heatingLaws_readback {pins : Pins} (h : HeatingLaws s) (hx : exec (.readback pins) s = .next t) :
    HeatingLaws t := by
  simp only [exec, execReadback, Host.Outcome.next.injEq] at hx
  subst hx
  split
  · refine heatingLaws_zones h (by simp) (by simp) fun k => ?_
    simpa [State.mapZones] using zoneKept_readback
  · exact h

theorem heatingLaws_clearZone {k : Fin 12} (h : HeatingLaws s) : HeatingLaws (clearZone p k s) := by
  simp only [clearZone]
  split
  · split
    · refine heatingLaws_answerCode p _ (heatingLaws_zones h rfl rfl fun j => ?_)
      by_cases hj : k = j
      · subst hj
        simpa using zoneKept_clearFault ‹_›
      · simpa [Vector.getElem_set, Fin.val_inj, hj] using ZoneKept.refl _
    · exact heatingLaws_answerCode p _ h
  · exact heatingLaws_answerCode p _ h

theorem heatingLaws_clearFault {item : Byte} {pins : Pins} (h : HeatingLaws s)
    (hx : exec (.clearFault p item pins) s = .next t) : HeatingLaws t := by
  simp only [exec, execClearFault, Host.Outcome.next.injEq] at hx
  subst hx
  have htaken : HeatingLaws ((takeRequest p s).withPins pins) := heatingLaws_takeRequest p h
  split
  · simpa [HeatingLaws] using htaken
  · split
    · exact heatingLaws_clearZone htaken
    · exact heatingLaws_answerCode p _ htaken

theorem heatingLaws_restart (h : HeatingLaws s) (hx : exec (.restart p) s = .next t) : HeatingLaws t := by
  cases hx
  obtain ⟨hcapacity, hgrant, hdemand⟩ := heatingLaws_takeRequest p h
  split
  · exact heatingLaws_answerCode p _
      ⟨CapacityLaw_restartPart hcapacity, GrantLaw_restartPart hgrant, DemandLaw_restartPart hdemand⟩
  · exact heatingLaws_answerCode p _ ⟨hcapacity, hgrant, hdemand⟩

theorem heatingLaws_storeSetting {st : Setting} {v : Word} (h : HeatingLaws s) : HeatingLaws (storeSetting st v s) := by
  obtain ⟨hcapacity, hgrant, hdemand⟩ := h
  exact ⟨CapacityLaw_storeSetting hcapacity, GrantLaw_storeSetting hgrant, DemandLaw_storeSetting hdemand⟩

theorem heatingLaws_application (h : HeatingLaws s) (hx : exec (.application p) s = .next t) : HeatingLaws t := by
  cases hq : (s.ports.get p).queue with
  | nil =>
    simp only [exec, execApplication, hq, Host.Outcome.next.injEq] at hx
    exact hx ▸ h
  | cons e rest =>
    rw [application_eq hq] at hx
    cases hx
    have hpopped : HeatingLaws (popEntry p rest (s.reach (max e.due (s.ports.get p).applyAfter))) := by
      simpa [HeatingLaws] using h
    split
    · simpa [HeatingLaws, applyEntry] using heatingLaws_storeSetting hpopped
    · simpa [HeatingLaws] using hpopped

theorem heatingLaws_setZero {item : Byte} (h : HeatingLaws s) (hx : exec (.setZero p item) s = .next t) :
    HeatingLaws t := by
  cases hx
  have htaken := heatingLaws_takeRequest p h
  simp only [sideRequest]
  split
  · exact heatingLaws_answerCode p _ htaken
  · split
    · obtain ⟨hcapacity, hgrant, hdemand⟩ := htaken
      exact ⟨CapacityLaw_setZeroSide hcapacity, by simpa, by simpa⟩
    · exact heatingLaws_answerCode p _ htaken

/-- The commands that judge or switch a zone, write a setting, or set the heating anew. -/
def reachesHeating : Instr → Bool
  | .powerOn | .sliceStart | .readback _ | .clearFault _ _ _ | .restart _ | .application _ | .setZero _ _ => true
  | .forwardPulse | .reversePulse | .radarPulse | .secondsCountTick | .speedWindowExpiry | .plausibilityWindowExpiry
  | .classPeriodExpiry _ | .converterTake | .settleEnd | .conversionCompletion _ _ | .overloadRecoveryEnd
  | .sampleTimerExpiry | .jogTimerExpiry _ | .prefillTimerExpiry _ | .scannerLine _ _ | .scannerSilenceExpiry
  | .heatingWaitEnd | .trip _ | .read _ _ _ | .write _ _ _ | .page _ _ | .takeAlerts _ | .alertDone _ | .engage _ _
  | .disengage _ _ | .jog _ _ _ _ | .prefill _ _ | .fetch _ | .release _ _ | .rewind _ | .portReset _ | .badFrame _ _
  | .copyCompletion | .heldAnswerExpiry | .presenceTimeout _ | .scannerRunStart => false

/-- The other commands: each shared operation they are made of leaves the laws as they are or keeps them, by its own lemma (the
close of a record, the feed load, a trip, the end of the power-on wait). -/
theorem heatingLaws_elsewhere {c : Instr} (hc : reachesHeating c = false) (h : HeatingLaws s)
    (hx : exec c s = .next t) : HeatingLaws t := by
  obtain ⟨hcapacity, hgrant, hdemand⟩ := h
  cases c with
  | powerOn | sliceStart | readback | clearFault | restart | application | setZero => cases hc
  | _ =>
    simp only [exec, execForwardPulse, execReversePulse, execRadarPulse, execSecondsCountTick, execSpeedWindowExpiry,
      execPlausibilityWindowExpiry, execClassPeriodExpiry, execConverterTake, execSettleEnd, execConversionCompletion,
      execOverloadRecoveryEnd, execSampleTimerExpiry, execJogTimerExpiry, execPrefillTimerExpiry, execScannerLine,
      execScannerSilenceExpiry, execHeatingWaitEnd, execTrip, execRead, execWrite, execPage, execTakeAlerts, execAlertDone,
      execEngage, execDisengage, execJog, execPrefill, execFetch, execRelease, execRewind, execPortReset, execBadFrame,
      execCopyCompletion, execHeldAnswerExpiry, execPresenceTimeout, execScannerRunStart, sideRequest,
      Host.Outcome.next.injEq] at hx
    subst hx
    unfold HeatingLaws
    (repeat' split) <;> simp [hcapacity, hgrant, hdemand]

/-- Every command keeps the laws of the heating. -/
theorem heatingLaws_exec (c : Instr) (h : HeatingLaws s) (hx : exec c s = .next t) : HeatingLaws t := by
  cases c with
  | powerOn => exact heatingLaws_powerOn hx
  | sliceStart => exact heatingLaws_sliceStart h hx
  | readback => exact heatingLaws_readback h hx
  | clearFault => exact heatingLaws_clearFault h hx
  | restart => exact heatingLaws_restart h hx
  | application => exact heatingLaws_application h hx
  | setZero => exact heatingLaws_setZero h hx
  | _ => exact heatingLaws_elsewhere rfl h hx

/-- Settles O58, command by command: the budget and the outputs by the slice start and the cut of the grants, the counts zone by
zone. -/
theorem heatingLawsKept : Obligations.HeatingLawsKept := fun _ _ hs =>
  step_keeps (law := HeatingLaws) (fun _ _ h => h) (fun _ _ h => h) (fun _ _ h => h) (fun c _ _ => heatingLaws_exec c)
    hs.heatingLaws

end HeatingLaws
end Sys2Proof.Machine

/-! # Family 05: the slice start

The grants of a slice by the law of the grant pass (`startSlice_spec`), its budget, its outputs and its timers. -/

namespace Sys2Proof.Machine

section SliceStart

variable {s : State} {k : Fin 12}

theorem candidate_iff :
    candidate s k = true ↔
      s.heat.tripped = false ∧ s.zones[k].state = .heating ∧ s.travel.activity.getLsbD k.val = true
        ∧ 0 < s.zones[k].remaining := by
  simp [candidate, and_assoc]

/-- The heating budget H as an integer (R81). -/
theorem startSlice_budget (s : State) :
    ((startSlice s).heat.budget : Int) = max 0 ((s.heat.effective : Int) - s.heat.feedLoad - s.settings.reserve) := by
  have hbudget : (startSlice s).heat.budget = s.heat.effective - s.heat.feedLoad - s.settings.reserve := rfl
  omega

/-- Either no zone is granted or the granted power fits in the budget beside the welded power (R86). -/
theorem startSlice_power_le_budget (s : State) :
    (startSlice s).heat.grants = 0#12
      ∨ (startSlice s).heat.grantedPower + (startSlice s).heat.welded ≤ (startSlice s).heat.budget := by
  have hfits : sliceGrants s ≠ [] → ((startSlice s).heat.grantedPower : Int) ≤ (startSlice s).heat.available :=
    (gp_power _ _ (grantOrder s) ([], 0) (fun _ => rfl) (fun h => absurd rfl h)).2
  have havailable : (startSlice s).heat.available = (startSlice s).heat.budget - (startSlice s).heat.welded := rfl
  rcases eq_or_ne (sliceGrants s) [] with hnone | hsome
  · exact .inl ((grants_zero (sliceGrants s)).2 hnone)
  · have hle := hfits hsome
    exact .inr (by omega)

/-- A granted zone uses up one slice of its demand, its output on (R87). -/
theorem startSlice_zone_granted (h : (startSlice s).heat.grants.getLsbD k.val = true) :
    (startSlice s).zones[k] =
      { s.zones[k] with
        remaining := s.zones[k].remaining - 1, granted := s.zones[k].granted + 1, output := true, sliceCommand := true } := by
  rw [startSlice_zone, h]
  rfl

/-- Every other zone keeps its demand, its output off (R87). -/
theorem startSlice_zone_refused (h : (startSlice s).heat.grants.getLsbD k.val = false) :
    (startSlice s).zones[k] = { s.zones[k] with output := false, sliceCommand := false } := by
  rw [startSlice_zone, h]
  rfl

theorem changesOnly_startSlice (s : State) : changesOnly [.heat, .zones, .timers] s (startSlice s) :=
  changesOnly_of fun part => by cases part <;> simp [Part.kept]

/-- The expiry of slices 0 to 30 starts the next slice of the cycle (R76). -/
theorem exec_sliceStart_next (hrunning : s.heat.running = true) (hslice : s.heat.slice < 31) :
    exec .sliceStart s = .next
      (startSlice ((s.reachOpt s.timers.slice).withHeat { s.heat with slice := s.heat.slice + 1 })) := by
  simp [exec, execSliceStart, hrunning, hslice]

/-- Settles O32: the grants by `startSlice_spec`, the rest by what a slice start is made of. -/
theorem sliceStart : Obligations.SliceStart := by
  refine ⟨fun s => ?_, fun s hrunning hslice => ?_⟩
  · intro t
    obtain ⟨hgrants, hpower⟩ := startSlice_spec s
    exact ⟨⟨startSlice_budget s, rfl, rfl, fun k => (hgrants k).trans (and_congr_left' candidate_iff), hpower,
      startSlice_power_le_budget s, rfl, fun k => ⟨startSlice_zone_granted, startSlice_zone_refused⟩⟩, rfl,
      changesOnly_startSlice s⟩
  · exact ⟨_, rfl, changesOnly_of fun part => by cases part <;> simp [Part.kept], exec_sliceStart_next hrunning hslice⟩

end SliceStart
end Sys2Proof.Machine

/-! # Family 05: the cycle boundary

The first two phases of a boundary, which leave the state slice 0 starts from, unit by unit; then the three commands that make
one. -/

namespace Sys2Proof.Machine

section CycleBoundary

variable {s : State} {closes : Bool} {due : Nat}

/-- The state a cycle boundary starts slice 0 from: the next cycle, its zones started (R77, R99 to R102). -/
def State.cycleStarted (s : State) (closes : Bool) : State :=
  (cycleStart closes (s.withHeat s.heat.nextCycle)).withHeat { s.heat.nextCycle with slice := 0 }

theorem cycleBoundary_eq (closes : Bool) (s : State) : cycleBoundary closes s = startSlice (s.cycleStarted closes) := by
  simp [cycleBoundary, State.cycleStarted]

@[simp] theorem cycleStarted_frame (s : State) (closes : Bool) :
    (s.cycleStarted closes).travel = s.travel ∧ (s.cycleStarted closes).seq = s.seq
      ∧ (s.cycleStarted closes).lev = s.lev ∧ (s.cycleStarted closes).feed = s.feed
      ∧ (s.cycleStarted closes).scan = s.scan ∧ (s.cycleStarted closes).store = s.store
      ∧ (s.cycleStarted closes).settings = s.settings ∧ (s.cycleStarted closes).timers = s.timers
      ∧ (s.cycleStarted closes).pins = s.pins ∧ (s.cycleStarted closes).now = s.now
      ∧ (s.cycleStarted closes).free = s.free ∧ (s.cycleStarted closes).pending = s.pending := by
  simp [State.cycleStarted]

theorem cycleStarted_zone_eq (s : State) (closes : Bool) (k : Fin 12) :
    (s.cycleStarted closes).zones[k] = (cycleStart closes (s.withHeat s.heat.nextCycle)).zones[k] := rfl

/-- A zone as a boundary leaves it for slice 0: closed, its temperature taken, its state and demand evaluated (R99 to R102). -/
def State.startedZone (s : State) (closes : Bool) (k : Fin 12) : ZoneUnit :=
  let z : ZoneUnit := { s.zones[k] with starved := if closes then s.zones[k].remaining else s.zones[k].starved }
  let v := z.takeTemperature s.seq.results[zoneChannel k]
  v.startCycle (zoneDemand s.settings.zones[k] (s.travel.activity.getLsbD k.val) v.usable)

theorem cycleStarted_zone (s : State) (closes : Bool) (k : Fin 12) :
    (s.cycleStarted closes).zones[k] = s.startedZone closes k :=
  cycleStart_zone closes (s.withHeat s.heat.nextCycle) k

/-- What a boundary does to the ports: STARVING at a close, then ZONE_FAULT for a zone that loses its sensor (R99, R112). -/
theorem cycleStarted_ports (s : State) (closes : Bool) (q : Port) :
    (s.cycleStarted closes).ports.get q =
      (let mask := s.settings.masks.get q
       let p1 := if closes = true ∧ ∃ k : Fin 12, 0 < s.zones[k].remaining then
          portRaised mask .starving (s.ports.get q) else s.ports.get q
       if ∃ k : Fin 12, s.zones[k].state ≠ .sensorLost ∧ (s.cycleStarted closes).zones[k].state = .sensorLost then
          portRaised mask .zoneFault p1 else p1) :=
  cycleStart_ports closes (s.withHeat s.heat.nextCycle) q

theorem cycleStarted_record_none (h : s.record.current = none) : (s.cycleStarted closes).record = s.record := by
  obtain ⟨lost, -, hrecord⟩ := cycleStart_lost closes (s.withHeat s.heat.nextCycle)
  simp only [State.withHeat_record, h] at hrecord
  exact hrecord

/-- What a boundary reports to an open record: the zones starved at a close and the zones that lose their sensor (R121). -/
theorem cycleStarted_record_some {r : OpenRecord} (h : s.record.current = some r) :
    ∃ r', (s.cycleStarted closes).record = { s.record with current := some r' }
      ∧ r' = { r with starved := r'.starved, faulted := r'.faulted }
      ∧ ∀ k : Fin 12,
          (r'.starved.getLsbD k.val = true ↔
            r.starved.getLsbD k.val = true ∨ closes = true ∧ 0 < s.zones[k].remaining)
          ∧ (r'.faulted.getLsbD k.val = true ↔
            r.faulted.getLsbD k.val = true
              ∨ s.zones[k].state ≠ .sensorLost ∧ (s.cycleStarted closes).zones[k].state = .sensorLost) := by
  obtain ⟨lost, hlost, hrecord⟩ := cycleStart_lost closes (s.withHeat s.heat.nextCycle)
  simp only [State.withHeat_record, State.withHeat_zones, h] at hlost hrecord
  refine ⟨_, hrecord, rfl, fun k => ⟨?_, ?_⟩⟩
  · cases closes
    · simp
    · rw [if_pos rfl, BitVec.getLsbD_or, setOf_bit']
      simp
  · rw [BitVec.getLsbD_or, Bool.or_eq_true, hlost, cycleStarted_zone_eq]

/-- The expiry of slice 31 closes the cycle (R76, R77). -/
theorem exec_sliceStart_last (hrunning : s.heat.running = true) (hslice : 31 ≤ s.heat.slice) :
    exec .sliceStart s = .next (startSlice ((s.reachOpt s.timers.slice).cycleStarted true)) := by
  simp [exec, execSliceStart, hrunning, Nat.not_lt.2 hslice, cycleBoundary_eq]

/-- The state in which the power-on wait has ended (R78). -/
def State.waitEnded (s : State) (due : Nat) : State :=
  (s.reach due).withTimers { s.timers with heatingWait := none }

/-- The end of the power-on wait (R78). -/
theorem exec_heatingWaitEnd (h : s.timers.heatingWait = some due) :
    exec .heatingWaitEnd s = .next
      (if s.settings.mode = .travel then s.waitEnded due else startHeating (s.waitEnded due)) := by
  simp [exec, execHeatingWaitEnd, h, State.waitEnded]

theorem startHeating_eq (s : State) :
    startHeating s = startSlice ((s.withHeat { s.heat with running := true }).cycleStarted false) :=
  cycleBoundary_eq false _

end CycleBoundary
end Sys2Proof.Machine

/-! The model's own operation is named `cycleBoundary`; the theorem that settles the statement stands beside it. -/
namespace Sys2Proof.Proofs

open Sys2Proof.Machine

/-- Settles O33: the state that slice 0 starts from, unit by unit, for each of the commands that make a boundary. -/
theorem cycleBoundary : Obligations.CycleBoundary := by
  intro s entry usable missed asked after starts
  have hstarts (closes : Bool) (v : State) (hheat : v.heat = { s.heat with running := true })
      (hframe : changesOnly [.heat, .timers, .now] s v) : starts closes (v.cycleStarted closes) := by
    have hzones : v.zones = s.zones := hframe .zones (by simp)
    have hports : v.ports = s.ports := hframe .ports (by simp)
    have hrecord : v.record = s.record := hframe .record (by simp)
    have hsettings : v.settings = s.settings := hframe .settings (by simp)
    have hseq : v.seq = s.seq := hframe .seq (by simp)
    have htravel : v.travel = s.travel := hframe .travel (by simp)
    have hzone (k : Fin 12) : (v.cycleStarted closes).zones[k] = s.startedZone closes k := by
      simp only [cycleStarted_zone, State.startedZone, hzones, hsettings, hseq, htravel]
    have hstate (k : Fin 12) : ((v.cycleStarted closes).zones[k]).state = (after k).1 :=
      (congrArg ZoneUnit.state (hzone k)).trans (congrArg ZoneUnit.state (zstep _ _ _ _))
    refine ⟨?_, fun k => (hzone k).trans (zstep _ _ _ _), fun q => ?_, fun hnone => ?_, fun r hsome => ?_,
      changesOnly_trans hframe fun part => by cases part <;> simp [Part.kept]⟩
    · simp [State.cycleStarted, HeatUnit.nextCycle, hheat]
    · simp only [cycleStarted_ports, hstate, hzones, hports, hsettings]
    · rw [cycleStarted_record_none (hrecord ▸ hnone), hrecord]
    · have hreport := cycleStarted_record_some (closes := closes) (hrecord ▸ hsome)
      simpa only [hstate, hzones, hrecord] using hreport
  refine ⟨fun hrunning hslice => ?_, fun due hdue hmode => ?_, ?_, fun due hdue hmode => ?_⟩
  · exact ⟨_, hstarts true _ (by simp [← hrunning]) (changesOnly_of fun part => by cases part <;> simp [Part.kept]), by simp,
      exec_sliceStart_last hrunning hslice⟩
  · have hwait := exec_heatingWaitEnd hdue
    rw [if_neg hmode, startHeating_eq] at hwait
    exact ⟨_, hstarts false _ rfl (changesOnly_of fun part => by cases part <;> simp [Part.kept, State.waitEnded]),
      by simp [State.waitEnded], hwait⟩
  · exact ⟨_, hstarts false _ rfl (changesOnly_of fun part => by cases part <;> simp [Part.kept]), by simp, by simp,
      startHeating_eq s⟩
  · have hwait := exec_heatingWaitEnd hdue
    rw [if_pos hmode] at hwait
    exact ⟨_, hwait, rfl, changesOnly_of fun part => by cases part <;> simp [Part.kept, State.waitEnded]⟩

end Sys2Proof.Proofs

/-! # Family 05: trips, derating and the written capacity -/

namespace Sys2Proof.Machine

section Trips

variable {s : State} {phase : Fin 3} {q : Port} {p : Port} {e : PostEntry} {rest : List PostEntry}

theorem cutGrants_heat (s : State) : (cutGrants s).heat = { s.heat with grants := 0#12, grantedPower := 0 } := by
  simp [cutGrants]

@[simp] theorem cutGrants_heat_frame (s : State) :
    (cutGrants s).heat.tripped = s.heat.tripped ∧ (cutGrants s).heat.cycle = s.heat.cycle
      ∧ (cutGrants s).heat.history = s.heat.history ∧ (cutGrants s).heat.derate = s.heat.derate := by
  simp [cutGrants_heat]

theorem cutGrants_zone (s : State) (k : Fin 12) : (cutGrants s).zones[k] = { s.zones[k] with output := false } := by
  simp [cutGrants, outputsOff, State.mapZones]

/-- The derate step after a derating trip, which stays at 50 once there (R92). -/
def HeatUnit.nextStep (h : HeatUnit) : Nat := if 50 < h.derate then h.derate - 10 else h.derate

theorem enterTrip_again {h : HeatUnit} (c : Nat) (hagain : h.cycle ∈ h.history) :
    h.enterTrip c = { h with tripped := true } := by
  simp [HeatUnit.enterTrip, hagain]

theorem enterTrip_first {h : HeatUnit} (c : Nat) (hnew : h.cycle ∉ h.history) (hroom : h.history.length < 2) :
    h.enterTrip c = { h with tripped := true, history := h.history ++ [h.cycle] } := by
  simp [HeatUnit.enterTrip, hnew, hroom]

theorem enterTrip_derates {h : HeatUnit} (c : Nat) (hnew : h.cycle ∉ h.history) (hfull : 2 ≤ h.history.length) :
    h.enterTrip c =
      { h with tripped := true, history := [], derate := h.nextStep, effective := c * h.nextStep / 100 } := by
  simp only [HeatUnit.enterTrip, List.contains_iff_mem, if_neg hnew, if_neg (Nat.not_lt.2 hfull)]
  rfl

/-- The derate step falls at a derating trip above 50 and at no other (R92). -/
theorem enterTrip_derate_lt_iff (h : HeatUnit) (c : Nat) :
    (h.enterTrip c).derate < h.derate ↔ (h.cycle ∉ h.history ∧ 2 ≤ h.history.length) ∧ 50 < h.derate := by
  by_cases hagain : h.cycle ∈ h.history
  · simp [enterTrip_again c hagain, hagain]
  · rcases Nat.lt_or_ge h.history.length 2 with hroom | hfull
    · simp [enterTrip_first c hagain hroom, Nat.not_le.2 hroom]
    · rw [enterTrip_derates c hagain hfull]
      simp only [HeatUnit.nextStep, hagain, hfull, not_false_eq_true, and_self, true_and]
      split <;> omega

theorem tripRunning_heat_tripped (h : s.heat.tripped = true) :
    (tripRunning s).heat = { s.heat with grants := 0#12, grantedPower := 0 } := by
  simp [tripRunning, cutGrants_heat, h]

theorem tripRunning_heat_clear (h : s.heat.tripped = false) :
    (tripRunning s).heat =
      HeatUnit.enterTrip s.settings.capacity { s.heat with grants := 0#12, grantedPower := 0 } := by
  simp [tripRunning, cutGrants_heat, h]

theorem tripRunning_zone (s : State) (k : Fin 12) :
    (tripRunning s).zones[k] = { s.zones[k] with output := false } := by
  rw [← cutGrants_zone]
  simp only [tripRunning]
  split <;> simp

/-- A trip raises DERATED when its derate step falls (R92). -/
theorem tripRunning_ports (s : State) (q : Port) :
    (tripRunning s).ports.get q =
      if s.heat.tripped = false ∧ (s.heat.cycle ∉ s.heat.history ∧ 2 ≤ s.heat.history.length) ∧ 50 < s.heat.derate then
        portRaised (s.settings.masks.get q) .derated (s.ports.get q)
      else s.ports.get q := by
  have hfalls := enterTrip_derate_lt_iff (cutGrants s).heat s.settings.capacity
  simp only [cutGrants_heat_frame] at hfalls
  cases htripped : s.heat.tripped with
  | true => simp [tripRunning, htripped]
  | false =>
    simp only [tripRunning, htripped, cutGrants_heat_frame, cutGrants_frame, State.withHeat_heat, raiseAllIf,
      decide_eq_true_eq, hfalls, Bool.false_eq_true, if_false, true_and]
    split
    · simp [raiseAll_get]
    · simp

/-- A trip raised and reported, before its effect on the heating (R89, R93). -/
def State.tripReported (s : State) (phase : Fin 3) : State :=
  reportTrip (raiseAll .heatTrip (s.withPins { s.pins with trip := s.pins.trip ||| (1#3 <<< phase.val) }))

theorem exec_trip (s : State) (phase : Fin 3) :
    exec (.trip phase) s = .next
      (if s.heat.running then tripRunning (s.tripReported phase) else s.tripReported phase) := by
  simp [exec, execTrip, State.tripReported]

@[simp] theorem tripReported_frame (s : State) (phase : Fin 3) :
    (s.tripReported phase).travel = s.travel ∧ (s.tripReported phase).seq = s.seq ∧ (s.tripReported phase).lev = s.lev
      ∧ (s.tripReported phase).feed = s.feed ∧ (s.tripReported phase).heat = s.heat
      ∧ (s.tripReported phase).zones = s.zones ∧ (s.tripReported phase).scan = s.scan
      ∧ (s.tripReported phase).store = s.store ∧ (s.tripReported phase).settings = s.settings
      ∧ (s.tripReported phase).timers = s.timers ∧ (s.tripReported phase).now = s.now
      ∧ (s.tripReported phase).free = s.free ∧ (s.tripReported phase).pending = s.pending := by
  simp [State.tripReported]

theorem tripReported_pins (s : State) (phase : Fin 3) :
    (s.tripReported phase).pins = { s.pins with trip := s.pins.trip ||| (1#3 <<< phase.val) } := by
  simp [State.tripReported]

theorem tripReported_record_none (h : s.record.current = none) : (s.tripReported phase).record = s.record := by
  simp [State.tripReported, reportTrip, report_record, h]

theorem tripReported_record_some {r : OpenRecord} (h : s.record.current = some r) :
    (s.tripReported phase).record = { s.record with current := some { r with trips := min 15 (r.trips + 1) } } := by
  simp [State.tripReported, reportTrip, report_record, h]

theorem tripReported_ports (s : State) (phase : Fin 3) (q : Port) :
    (s.tripReported phase).ports.get q = portRaised (s.settings.masks.get q) .heatTrip (s.ports.get q) := by
  simp [State.tripReported, raiseAll_get]

/-- The written capacity stored: the table with it, and the heat grant unit formed anew (R79, R80). -/
theorem storeSetting_writtenCapacity (s : State) (v : Word) :
    storeSetting .writtenCapacity v s = capacityApplied (s.withSettings { s.settings with capacity := v.toNat }) := rfl

/-- The application of the written capacity (R79, R80). -/
theorem capacity_application (hq : (s.ports.get p).queue = e :: rest) (hitem : e.item = .writtenCapacity) :
    ∃ t, exec (.application p) s = .next t
      ∧ t.settings = { s.settings with capacity := e.value.toNat }
      ∧ t.heat = { s.heat with derate := 100, history := [], effective := e.value.toNat * 100 / 100 }
      ∧ changesOnly [.heat, .settings, .ports, .now] s t := by
  have hpass : applicationPasses s.settings e = true := by simp [applicationPasses, hitem]
  rw [application_passes hq hpass, hitem, storeSetting_writtenCapacity]
  refine ⟨_, rfl, by simp, ?_, changesOnly_of fun part => by cases part <;> simp [Part.kept]⟩
  simp [capacityApplied, effectiveCapacity]

/-- Settles O34: a trip by whether the heating runs, the heat grant unit by what `enterTrip` makes of the trip. -/
theorem tripsAndDerating : Obligations.TripsAndDerating := by
  refine ⟨fun s phase => ?_, fun s p e rest hq hitem => capacity_application hq hitem⟩
  intro derates step
  refine ⟨_, exec_trip s phase, ?_⟩
  cases hrunning : s.heat.running with
  | false =>
    have hnot : ¬derates := fun hd => by simp [derates, hrunning] at hd
    refine ⟨tripReported_pins s phase, tripReported_record_none, fun r => tripReported_record_some, fun q => ?_,
      fun _ => by simp, nofun, changesOnly_of fun part => by cases part <;> simp [Part.kept]⟩
    exact ⟨fun ⟨hd, _⟩ => absurd hd hnot, fun _ => tripReported_ports s phase q⟩
  | true =>
    have hderates : derates ↔ s.heat.tripped = false ∧ s.heat.cycle ∉ s.heat.history ∧ 2 ≤ s.heat.history.length :=
      and_iff_right hrunning
    have hheat (hclear : s.heat.tripped = false) :
        (tripRunning (s.tripReported phase)).heat =
          HeatUnit.enterTrip s.settings.capacity { s.heat with grants := 0#12, grantedPower := 0 } := by
      simpa using tripRunning_heat_clear (s := s.tripReported phase) (by simpa using hclear)
    simp only [if_true]
    refine ⟨by simp [tripReported_pins], fun hnone => by simp [tripReported_record_none hnone],
      fun r hsome => by simp [tripReported_record_some hsome], fun q => ?_, nofun, fun _ => ⟨fun k => ?_, fun htripped => ?_,
      fun hclear hnew hroom => ?_, fun hd => ?_⟩, changesOnly_of fun part => by cases part <;> simp [Part.kept]⟩
    · rw [tripRunning_ports, tripReported_ports]
      simp only [tripReported_frame, hderates, and_assoc]
      exact ⟨fun hfalls => if_pos hfalls, fun hfalls => if_neg hfalls⟩
    · simpa using tripRunning_zone (s.tripReported phase) k
    · simpa using tripRunning_heat_tripped (s := s.tripReported phase) (by simpa using htripped)
    · rw [hheat hclear]
      exact enterTrip_first _ hnew hroom
    · obtain ⟨hclear, hnew, hfull⟩ := hderates.1 hd
      rw [hheat hclear]
      exact enterTrip_derates _ hnew hfull

end Trips
end Sys2Proof.Machine

/-! # Family 06: the readback

The check of one zone, case by case (R106 to R108); then the command: the zones judged, and from those that enter a fault state
the alert and the report. -/

namespace Sys2Proof.Machine

section ZoneReadback

variable {z : ZoneUnit} {sense : Bool}

theorem readback_of_changed (h : z.output ≠ z.sliceCommand) : z.readback sense = z := if_pos h

theorem readback_of_on (hon : z.output = true) (hslice : z.sliceCommand = true) :
    z.readback sense = z.onCheck sense := by
  simp [ZoneUnit.readback, hon, hslice]

theorem readback_of_off (hoff : z.output = false) (hslice : z.sliceCommand = false) :
    z.readback sense = z.offCheck sense := by
  simp [ZoneUnit.readback, hoff, hslice]

theorem onCheck_of_not_heating (h : z.state ≠ .heating) : z.onCheck sense = z := if_neg h

/-- A match clears the open count, the first open mismatch sets it, and the next one is FAULT_OPEN (R107). -/
theorem onCheck_of_heating (h : z.state = .heating) :
    (sense = true → z.onCheck sense = { z with openCount := 0 })
      ∧ (sense = false → z.openCount = 0 → z.onCheck sense = { z with openCount := 1 })
      ∧ (sense = false → z.openCount ≠ 0 →
          z.onCheck sense = { z with state := .faultOpen, openCount := 0, output := false }) := by
  cases sense <;> simp +contextual [ZoneUnit.onCheck, h]

theorem offCheck_of_outside (h : z.state = .off ∨ z.state = .faultWelded) : z.offCheck sense = z := by
  rcases h with h | h <;> simp [ZoneUnit.offCheck, h]

/-- A match clears the welded count, the first welded mismatch sets it, and the next one is FAULT_WELDED (R108). -/
theorem offCheck_of_inside (h : z.state = .idle ∨ z.state = .heating ∨ z.state = .sensorLost ∨ z.state = .faultOpen) :
    (sense = false → z.offCheck sense = { z with weldCount := 0 })
      ∧ (sense = true → z.weldCount = 0 → z.offCheck sense = { z with weldCount := 1 })
      ∧ (sense = true → z.weldCount ≠ 0 →
          z.offCheck sense = { z with state := .faultWelded, openCount := 0, weldCount := 0 }) := by
  rcases h with h | h | h | h <;> cases sense <;> simp +contextual [ZoneUnit.offCheck, h]

/-- A zone in OFF or FAULT_WELDED stays as it stands, commanded on or off (R106, R108). -/
theorem readback_of_outside (h : z.state = .off ∨ z.state = .faultWelded) : z.readback sense = z := by
  have hnot : z.state ≠ .heating := by rcases h with h | h <;> simp [h]
  simp [ZoneUnit.readback, onCheck_of_not_heating hnot, offCheck_of_outside h]

end ZoneReadback

section Readback

variable {s u : State} {pins : Pins} {k : Fin 12}

/-- The zones as a readback with these sense inputs leaves them, its timer stopped, before the alert and the report (R106). -/
def State.readBack (s : State) (pins : Pins) : State :=
  (((s.reachOpt s.timers.readback).withPins pins).mapZones fun k z => z.readback (pins.sense.getLsbD k.val)).withTimers
    { s.timers with readback := none }

@[simp] theorem readBack_frame (s : State) (pins : Pins) :
    (s.readBack pins).travel = s.travel ∧ (s.readBack pins).seq = s.seq ∧ (s.readBack pins).lev = s.lev
      ∧ (s.readBack pins).feed = s.feed ∧ (s.readBack pins).heat = s.heat ∧ (s.readBack pins).scan = s.scan
      ∧ (s.readBack pins).record = s.record ∧ (s.readBack pins).store = s.store
      ∧ (s.readBack pins).settings = s.settings ∧ (s.readBack pins).ports = s.ports
      ∧ (s.readBack pins).timers = { s.timers with readback := none } ∧ (s.readBack pins).pins = pins
      ∧ (s.readBack pins).free = s.free ∧ (s.readBack pins).pending = s.pending := by
  simp [State.readBack]

theorem readBack_zone (s : State) (pins : Pins) (k : Fin 12) :
    (s.readBack pins).zones[k] = s.zones[k].readback (pins.sense.getLsbD k.val) := by
  simp [State.readBack, State.mapZones]

/-- From `s` to `u` a zone enters FAULT_OPEN or FAULT_WELDED. -/
abbrev EntersZoneFault (s u : State) (k : Fin 12) : Prop :=
  s.zones[k].state ≠ u.zones[k].state ∧ (u.zones[k].state = .faultOpen ∨ u.zones[k].state = .faultWelded)

/-- The zones that enter FAULT_OPEN or FAULT_WELDED from `s` to `u` (R107, R108). -/
def newlyFaulted (s u : State) : ZoneSet := setOf fun k => decide (EntersZoneFault s u k)

theorem newlyFaulted_bit : (newlyFaulted s u).getLsbD k.val = true ↔ EntersZoneFault s u k := by
  rw [newlyFaulted, setOf_bit', decide_eq_true_eq]

theorem newlyFaulted_ne_zero : (newlyFaulted s u != 0#12) = true ↔ ∃ k, EntersZoneFault s u k := by
  simp only [newlyFaulted, setOf_ne, decide_eq_true_eq]

/-- A readback while the heating runs: the zones judged, then ZONE_FAULT and the report of those that enter a fault state
(R106 to R108). -/
theorem exec_readback (hrunning : s.heat.running = true) :
    exec (.readback pins) s = .next
      (reportFaulted (newlyFaulted s (s.readBack pins))
        (raiseAllIf (newlyFaulted s (s.readBack pins) != 0#12) .zoneFault (s.readBack pins))) := by
  simp [exec, execReadback, hrunning, newlyFaulted, State.readBack, bne, Bool.beq_eq_decide_eq]

/-- A kind raised under a condition is raised on every port or on none. -/
theorem raisedOnly_raiseAllIf {c : Bool} {P : Prop} {kind : AlertKind} (hc : c = true ↔ P) (hports : u.ports = s.ports)
    (hsettings : u.settings = s.settings) : raisedOnly s (raiseAllIf c kind u) (fun _ => P) kind := by
  intro q
  rw [← hc, raiseAllIf, ← hports, ← hsettings]
  cases c <;> simp [raiseAll_get]

theorem reportFaulted_record_none {zones : ZoneSet} (h : s.record.current = none) :
    (reportFaulted zones s).record = s.record := by
  simp [reportFaulted, report_record, h]

theorem reportFaulted_record_some {zones : ZoneSet} {r : OpenRecord} (h : s.record.current = some r) :
    (reportFaulted zones s).record = { s.record with current := some { r with faulted := r.faulted ||| zones } } := by
  simp [reportFaulted, report_record, h]

/-- Settles O35: the zones by the equations of `ZoneUnit.readback`, the alert and the report by the zones that enter a fault
state. -/
theorem readback : Obligations.Readback := by
  intro s pins hrunning
  refine ⟨_, exec_readback hrunning, fun k => ?_, ⟨fun q => ?_, fun hnone => ?_, fun r hsome => ?_⟩, by simp, by simp,
    changesOnly_of fun part => by cases part <;> simp [Part.kept]⟩
  · simp only [reportFaulted_frame, raiseAllIf_frame, readBack_zone]
    refine ⟨fun hkept => hkept.elim readback_of_changed readback_of_outside, fun hon hslice hheating => ?_,
      fun hoff hslice hinside => ?_⟩
    · rw [readback_of_on hon hslice]
      exact onCheck_of_heating hheating
    · rw [readback_of_off hoff hslice]
      exact offCheck_of_inside hinside
  · simp only [reportFaulted_frame, raiseAllIf_frame]
    exact raisedOnly_raiseAllIf newlyFaulted_ne_zero (by simp) (by simp) q
  · rw [reportFaulted_record_none (by simpa using hnone)]
    simp
  · refine ⟨{ r with faulted := r.faulted ||| newlyFaulted s (s.readBack pins) }, ?_, rfl, fun k => ?_⟩
    · rw [reportFaulted_record_some (by simpa using hsome)]
      simp
    · simp only [reportFaulted_frame, raiseAllIf_frame]
      rw [BitVec.getLsbD_or, Bool.or_eq_true, newlyFaulted_bit]

end Readback
end Sys2Proof.Machine

/-! # Family 07: the check word -/

namespace Sys2Proof.Machine

section CheckWords

variable (reg w : Word)

/-- A bit that agrees with the register shifts it and inverts nothing (R116). -/
theorem crcBit_msb : crcBit reg reg.msb = reg <<< 1 := if_pos rfl

/-- The bits of a word in the order they are taken, by their numbers (R116). -/
theorem crcWord_bits :
    crcWord reg w =
      [15, 14, 13, 12, 11, 10, 9, 8, 7, 6, 5, 4, 3, 2, 1, 0].foldl (fun r i => crcBit r (w.getLsbD i)) reg := by
  have horder : [15, 14, 13, 12, 11, 10, 9, 8, 7, 6, 5, 4, 3, 2, 1, 0] = (List.range 16).map (15 - ·) := by decide
  rw [horder, List.foldl_map]
  refine List.foldl_ext _ _ _ fun r i hi => ?_
  have hlt : i < 16 := List.mem_range.1 hi
  simp [BitVec.getMsbD, hlt]

theorem msb_shiftLeft (i : Nat) : (w <<< i).msb = w.getMsbD i := by
  simp [BitVec.msb, BitVec.getMsbD_shiftLeft]

/-- A register compared with its own word meets its own bits: it is only shifted. -/
theorem crc_self_bits (n : Nat) : (List.range n).foldl (fun r i => crcBit r (w.getMsbD i)) w = w <<< n := by
  induction n with
  | zero => simp
  | succ n ih =>
    rw [List.range_succ, List.foldl_append, ih]
    calc crcBit (w <<< n) (w.getMsbD n)
      _ = crcBit (w <<< n) (w <<< n).msb := by rw [msb_shiftLeft]
      _ = w <<< n <<< 1 := crcBit_msb _
      _ = w <<< (n + 1) := (BitVec.shiftLeft_add _ _ _).symm

/-- A word run into a register that equals it leaves 0: sixteen shifts. -/
theorem crcWord_self : crcWord w w = 0#16 :=
  (crc_self_bits w 16).trans (BitVec.shiftLeft_eq_zero (Nat.le_refl _))

theorem checkWord_append (ws : List Word) : checkWord (ws ++ [w]) = crcWord (checkWord ws) w :=
  List.foldl_append ..

end CheckWords
end Sys2Proof.Machine

/-! The model's own operation is named `checkWord`; the theorem that settles the statement stands beside it. -/
namespace Sys2Proof.Proofs

open Sys2Proof.Machine

/-- Settles O36: the zero residue by `crcWord_self`, for the register ends at the check word before it is run in. -/
theorem checkWord : Obligations.CheckWord :=
  ⟨fun _ _ => rfl, crcWord_bits, rfl, fun ws w => checkWord_append w ws,
    fun ws => (checkWord_append _ ws).trans (crcWord_self _)⟩

end Sys2Proof.Proofs

/-! # Family 07: the scanner link -/

namespace Sys2Proof.Machine

section ScannerLinks

variable {s : State}

theorem exec_scannerRunStart : exec .scannerRunStart s = .next (s.withScan { s.scan with receiving := true }) := rfl

/-- The state after the silence timer's end, before the alert and the report (R118). -/
def State.scannerSilent (s : State) : State :=
  ((s.reachOpt s.timers.silence).withScan { s.scan with lost := true }).withTimers { s.timers with silence := none }

theorem exec_scannerSilenceExpiry (hlost : s.scan.lost = false) :
    exec .scannerSilenceExpiry s
      = .next (reportFlags (fun f => { f with scannerLost := true }) (raiseAll .scannerLost s.scannerSilent)) := by
  simp [exec, execScannerSilenceExpiry, hlost, State.scannerSilent]

@[simp] theorem scannerSilent_frame :
    s.scannerSilent.travel = s.travel ∧ s.scannerSilent.seq = s.seq ∧ s.scannerSilent.lev = s.lev
      ∧ s.scannerSilent.feed = s.feed ∧ s.scannerSilent.heat = s.heat ∧ s.scannerSilent.zones = s.zones
      ∧ s.scannerSilent.record = s.record ∧ s.scannerSilent.store = s.store ∧ s.scannerSilent.settings = s.settings
      ∧ s.scannerSilent.ports = s.ports ∧ s.scannerSilent.pins = s.pins ∧ s.scannerSilent.free = s.free
      ∧ s.scannerSilent.pending = s.pending := by
  simp [State.scannerSilent]

@[simp] theorem scannerSilent_scan : s.scannerSilent.scan = { s.scan with lost := true } := (rfl)

@[simp] theorem scannerSilent_timers : s.scannerSilent.timers = { s.timers with silence := none } := (rfl)

/-- Settles O38, by the equations of the two commands. -/
theorem scannerLink : Obligations.ScannerLink := by
  refine ⟨fun s => ⟨_, exec_scannerRunStart, rfl, changesOnly_of fun part => by cases part <;> simp [Part.kept]⟩,
    fun s hlost => ⟨_, exec_scannerSilenceExpiry hlost, by simp, by simp, fun q => ?_, fun hnone => ?_, fun r hsome => ?_,
      changesOnly_of fun part => by cases part <;> simp [Part.kept]⟩⟩
  · exact ⟨fun _ => by simp [raiseAll_get], fun hno => absurd trivial hno⟩
  · simp [reportFlags, report_record, hnone]
  · simp [reportFlags, report_record, hsome]

end ScannerLinks
end Sys2Proof.Machine

/-! # Family 07: the judgement of a scanner line and its binning -/

namespace Sys2Proof.Machine

section Lines

variable {bytes : List Byte} {framed : Bool} {previous : Option Byte} {line : ScanLine} {w : Word} {ws pixels : List Word}

theorem wordBytes_wordOfBytes (hi lo : Byte) : wordBytes (wordOfBytes hi lo) = [hi, lo] := by
  have hhi : (hi ++ lo).extractLsb' 8 8 = hi := BitVec.extractLsb'_append_eq_left
  have hlo : (hi ++ lo).extractLsb' 0 8 = lo := BitVec.extractLsb'_append_eq_right
  simp [wordBytes, wordOfBytes, hhi, hlo]

theorem wordsOfBytes_flatMap (ws : List Word) : wordsOfBytes (ws.flatMap wordBytes) = some ws := by
  induction ws with
  | nil => rfl
  | cons w ws ih =>
    show (wordsOfBytes (ws.flatMap wordBytes)).map (wordOfBytes (w.extractLsb' 8 8) (w.extractLsb' 0 8) :: ·)
      = some (w :: ws)
    rw [ih, word_back, Option.map_some]

/-- The words of a run are the ones whose bytes it is (R178). -/
theorem eq_flatMap_of_wordsOfBytes : ∀ {bytes : List Byte} {ws : List Word}, wordsOfBytes bytes = some ws →
    bytes = ws.flatMap wordBytes
  | [], ws, h => by cases h; rfl
  | hi :: lo :: rest, ws, h => by
    rw [wordsOfBytes, Option.map_eq_some_iff] at h
    obtain ⟨ws', hrest, rfl⟩ := h
    rw [List.flatMap_cons, wordBytes_wordOfBytes, ← eq_flatMap_of_wordsOfBytes hrest]
    rfl

/-- The line whose first word is `w`, the line number in its low byte. -/
def lineOf (w : Word) (pixels : List Word) : ScanLine := { number := w.extractLsb' 0 8, pixels := pixels }

/-- The bytes of a line: its first word, its pixels, and the check word over both (R116, R178). -/
def lineBytes (w : Word) (pixels : List Word) : List Byte :=
  ((w :: pixels) ++ [checkWord (w :: pixels)]).flatMap wordBytes

theorem lineOfRun_lineBytes (hlength : pixels.length = 64) :
    lineOfRun (lineBytes w pixels) true = some (lineOf w pixels) := by
  have htake : ((w :: pixels) ++ [checkWord (w :: pixels)]).take 65 = w :: pixels :=
    List.take_left' (by rw [List.length_cons, hlength])
  have hpixels : (pixels ++ [checkWord (w :: pixels)]).take 64 = pixels := List.take_left' hlength
  simp only [lineOfRun, lineBytes, wordsOfBytes_flatMap, if_true, htake, List.getLast?_concat, beq_self_eq_true,
    Bool.and_true]
  simp [hlength, lineOf]

/-- A run that carries a line has 66 words, the last of them the check word over the others (R117). -/
theorem lineBytes_of_lineOfRun (h : lineOfRun bytes framed = some line) :
    framed = true ∧ ∃ w pixels, pixels.length = 64 ∧ bytes = lineBytes w pixels ∧ line = lineOf w pixels := by
  unfold lineOfRun at h
  split at h
  case isFalse => cases h
  case isTrue hframed =>
    refine ⟨hframed, ?_⟩
    split at h
    · cases h
    · rename_i ws hws
      split at h
      case isFalse => cases h
      case isTrue hwhole =>
        simp only [Bool.and_eq_true, decide_eq_true_eq, beq_iff_eq] at hwhole
        obtain ⟨hcount, hlast⟩ := hwhole
        obtain ⟨before, hbefore⟩ := List.getLast?_eq_some_iff.1 hlast
        have hbeforeLength : before.length = 65 := by
          have := congrArg List.length hbefore
          simp only [List.length_append, List.length_singleton] at this
          omega
        have htake : ws.take 65 = before := by rw [hbefore]; exact List.take_left' hbeforeLength
        rw [htake] at hbefore
        cases before with
        | nil => cases hbeforeLength
        | cons w pixels =>
          have hlength : pixels.length = 64 := Nat.succ.inj hbeforeLength
          refine ⟨w, pixels, hlength, ?_, ?_⟩
          · rw [eq_flatMap_of_wordsOfBytes hws, hbefore]; rfl
          · rw [hbefore] at h
            cases h
            simp [lineOf, List.take_left' hlength]

/-- A valid line: whole, its check word right, and not the number of the line before it (R117). -/
theorem validLine_lineBytes (hlength : pixels.length = 64) (hnew : previous ≠ some (w.extractLsb' 0 8)) :
    validLine previous (lineBytes w pixels) true = some (lineOf w pixels) := by
  simp only [validLine, lineOfRun_lineBytes hlength]
  exact if_neg hnew

theorem lineBytes_of_validLine (h : validLine previous bytes framed = some line) :
    ∃ w pixels, framed = true ∧ pixels.length = 64 ∧ bytes = lineBytes w pixels
      ∧ previous ≠ some (w.extractLsb' 0 8) := by
  unfold validLine at h
  split at h
  · cases h
  · rename_i read hread
    split at h
    · cases h
    · rename_i hnew
      obtain ⟨hframed, w, pixels, hlength, hbytes, rfl⟩ := lineBytes_of_lineOfRun hread
      exact ⟨w, pixels, hframed, hlength, hbytes, hnew⟩

end Lines

section Binning

variable {st : RecordSettings} {r : OpenRecord} {c : Scan} {pw : Word × Nat}

/-- The column of the open record over which a pixel lies, if any: none for no reading or outside the mat (R119). -/
def pixelColumn (st : RecordSettings) (r : OpenRecord) (pw : Word × Nat) : Option Nat :=
  let x : Int := st.origin + pw.2 * st.pitch
  if pw.1 ≠ 0xFFFF#16 ∧ r.x0 ≤ x ∧ x < r.x0 + 250 * r.columns then some ((x - r.x0) / 250).toNat else none

/-- The value a pixel is taken at (R119). -/
def pixelValue (pw : Word × Nat) : Nat := min 3000 pw.1.toNat

/-- The values that a run of pixels offers a column, in their order. -/
def columnValues (st : RecordSettings) (r : OpenRecord) (pws : List (Word × Nat)) (k : Nat) : List Nat :=
  (pws.filter fun pw => pixelColumn st r pw = some k).map pixelValue

/-- The values of a run of pixels that lie over the mat. -/
def matValues (st : RecordSettings) (r : OpenRecord) (pws : List (Word × Nat)) : List Nat :=
  (pws.filter fun pw => (pixelColumn st r pw).isSome).map pixelValue

/-- The pixels of a line binned in turn (R119). -/
def binPixels (st : RecordSettings) (r : OpenRecord) (pws : List (Word × Nat)) (c : Scan) : Scan :=
  pws.foldl (fun acc pw => binPixel st r.x0 r.columns acc pw.2 pw.1) c

theorem binLine_eq (line : ScanLine) :
    binLine st r line c = binPixels st r line.pixels.zipIdx { c with linesBinned := satAdd 255 c.linesBinned 1 } := rfl

theorem binPixels_cons (pws : List (Word × Nat)) :
    binPixels st r (pw :: pws) c = binPixels st r pws (binPixel st r.x0 r.columns c pw.2 pw.1) := rfl

/-- The record minimum once a value is taken into it (R119). -/
def lowered (minimum : Option Nat) (v : Nat) : Nat :=
  match minimum with
  | none => v
  | some m => min m v

/-- Taking a value into the minimum of the values so far gives the minimum of all of them. -/
theorem min?_lowered (minimum : Option Nat) (v : Nat) (vs : List Nat) :
    ((some (lowered minimum v)).toList ++ vs).min? = (minimum.toList ++ v :: vs).min? := by
  cases minimum <;> rfl

/-- A full column takes no further value (R119). -/
theorem Column.add_full {col : Column} (hfull : 65535 ≤ col.count) (v : Nat) : col.add v = col := by
  simp [Column.add, Column.isFull, hfull]

theorem Column.add_room {col : Column} (hroom : col.count < 65535) (v : Nat) :
    col.add v = { sum := col.sum + v, count := col.count + 1 } := by
  simp [Column.add, Column.isFull, Nat.not_le.2 hroom]

theorem Column.add_count_le (col : Column) (v : Nat) : (col.add v).count ≤ col.count + 1 := by
  simp only [Column.add]; split <;> simp

/-- A column takes the values offered as long as its count is below 65535 (R119). -/
theorem Column.foldl_add (vs : List Nat) (col : Column) :
    vs.foldl (fun col v => col.add v) col =
      { sum := col.sum + (vs.take (65535 - col.count)).sum
        count := col.count + (vs.take (65535 - col.count)).length } := by
  induction vs generalizing col with
  | nil => simp
  | cons v vs ih =>
    rw [List.foldl_cons]
    by_cases hfull : 65535 ≤ col.count
    · rw [Column.add_full hfull, ih]
      simp [Nat.sub_eq_zero_of_le hfull]
    · have hroom : col.count < 65535 := Nat.lt_of_not_le hfull
      have hleft : 65535 - col.count = 65535 - (col.count + 1) + 1 := by omega
      rw [Column.add_room hroom, ih, hleft, List.take_succ_cons]
      simp only [List.sum_cons, List.length_cons, Column.mk.injEq]
      omega

theorem binPixel_outside (h : pixelColumn st r pw = none) : binPixel st r.x0 r.columns c pw.2 pw.1 = c := by
  simp only [pixelColumn, ite_eq_right_iff, reduceCtorEq, imp_false, not_and_or, not_le, not_lt, ne_eq, not_not] at h
  exact if_pos h

/-- A pixel over the mat, by whether its column still takes pixels. -/
theorem binPixel_inside {k : Nat} (h : pixelColumn st r pw = some k) :
    binPixel st r.x0 r.columns c pw.2 pw.1 =
      if (c.columns[k]?).any Column.isFull then c
      else { c with
        columns := c.columns.modify k (Column.add (pixelValue pw))
        minimum := some (lowered c.minimum (pixelValue pw)) } := by
  simp only [pixelColumn, Option.ite_none_right_eq_some, Option.some.injEq] at h
  obtain ⟨⟨hread, hleft, hright⟩, rfl⟩ := h
  exact if_neg (not_or.2 ⟨hread, not_or.2 ⟨Int.not_lt.2 hleft, Int.not_le.2 hright⟩⟩)

/-- Binning a pixel touches the columns and the minimum only. -/
theorem binPixel_frame :
    binPixel st r.x0 r.columns c pw.2 pw.1 =
      { c with
        columns := (binPixel st r.x0 r.columns c pw.2 pw.1).columns
        minimum := (binPixel st r.x0 r.columns c pw.2 pw.1).minimum } := by
  cases h : pixelColumn st r pw with
  | none => rw [binPixel_outside h]
  | some k => rw [binPixel_inside h]; split <;> rfl

theorem binPixels_frame (pws : List (Word × Nat)) :
    binPixels st r pws c =
      { c with columns := (binPixels st r pws c).columns, minimum := (binPixels st r pws c).minimum } := by
  induction pws generalizing c with
  | nil => rfl
  | cons pw pws ih => rw [binPixels_cons, ih, binPixel_frame]

/-- What a pixel does to each column: the one it lies over is offered its value. -/
theorem binPixel_column (k : Nat) :
    (binPixel st r.x0 r.columns c pw.2 pw.1).columns[k]? =
      (c.columns[k]?).map fun col => if pixelColumn st r pw = some k then col.add (pixelValue pw) else col := by
  cases h : pixelColumn st r pw with
  | none => simp [binPixel_outside h]
  | some j =>
    rw [binPixel_inside h]
    split
    · rename_i hfull
      by_cases hjk : j = k
      · subst hjk
        obtain ⟨col, hcol, hcount⟩ := (Option.any_eq_true _ _).1 hfull
        simp [hcol, Column.add_full (of_decide_eq_true hcount)]
      · simp [hjk]
    · simp [List.getElem?_modify]

theorem binPixels_columns_length (pws : List (Word × Nat)) :
    (binPixels st r pws c).columns.length = c.columns.length := by
  induction pws generalizing c with
  | nil => rfl
  | cons pw pws ih =>
    rw [binPixels_cons, ih]
    cases h : pixelColumn st r pw with
    | none => rw [binPixel_outside h]
    | some k => rw [binPixel_inside h]; split <;> simp

/-- A line offers each column the values over it, in their order (R119). -/
theorem binPixels_column (pws : List (Word × Nat)) {k : Nat} {col : Column} (hcol : c.columns[k]? = some col) :
    (binPixels st r pws c).columns[k]? = some ((columnValues st r pws k).foldl (fun col v => col.add v) col) := by
  induction pws generalizing c col with
  | nil => exact hcol
  | cons pw pws ih =>
    have hnext := binPixel_column (st := st) (r := r) (c := c) (pw := pw) k
    rw [hcol, Option.map_some] at hnext
    rw [binPixels_cons, ih hnext]
    by_cases hover : pixelColumn st r pw = some k <;> simp [columnValues, hover]

/-- With room for `n + 1` pixels in every column, a pixel leaves room for `n`. -/
theorem binPixel_room {n : Nat} (hroom : ∀ col ∈ c.columns, col.count + (n + 1) ≤ 65535) :
    ∀ col ∈ (binPixel st r.x0 r.columns c pw.2 pw.1).columns, col.count + n ≤ 65535 := by
  intro col hcol
  obtain ⟨k, hk⟩ := List.mem_iff_getElem?.1 hcol
  rw [binPixel_column, Option.map_eq_some_iff] at hk
  obtain ⟨before, hbefore, rfl⟩ := hk
  have hbelow := hroom before (List.mem_of_getElem? hbefore)
  split
  · have := before.add_count_le (pixelValue pw)
    omega
  · omega

/-- While no column fills up, the minimum is that of every value over the mat (R119). -/
theorem binPixels_minimum (pws : List (Word × Nat)) (hroom : ∀ col ∈ c.columns, col.count + pws.length ≤ 65535) :
    (binPixels st r pws c).minimum = (c.minimum.toList ++ matValues st r pws).min? := by
  induction pws generalizing c with
  | nil => cases hmin : c.minimum <;> simp [binPixels, matValues, hmin]
  | cons pw pws ih =>
    rw [binPixels_cons, ih (binPixel_room hroom)]
    cases hover : pixelColumn st r pw with
    | none => simp [binPixel_outside hover, matValues, hover]
    | some k =>
      have hopen : ¬(c.columns[k]?).any Column.isFull = true := fun hfull => by
        obtain ⟨col, hcol, hcount⟩ := (Option.any_eq_true _ _).1 hfull
        have := hroom col (List.mem_of_getElem? hcol)
        have := of_decide_eq_true hcount
        simp only [List.length_cons] at *
        omega
      rw [binPixel_inside hover, if_neg hopen, min?_lowered]
      simp [matValues, hover]

theorem binLine_column (line : ScanLine) {k : Nat} {col : Column} (hcol : c.columns[k]? = some col) :
    (binLine st r line c).columns[k]? = some
      { sum := col.sum + ((columnValues st r line.pixels.zipIdx k).take (65535 - col.count)).sum
        count := col.count + ((columnValues st r line.pixels.zipIdx k).take (65535 - col.count)).length } := by
  have hbefore : ({ c with linesBinned := satAdd 255 c.linesBinned 1 } : Scan).columns[k]? = some col := hcol
  rw [binLine_eq, binPixels_column _ hbefore, Column.foldl_add]

theorem binLine_minimum (line : ScanLine) (hroom : ∀ col ∈ c.columns, col.count + line.pixels.length ≤ 65535) :
    (binLine st r line c).minimum = (c.minimum.toList ++ matValues st r line.pixels.zipIdx).min? := by
  rw [binLine_eq, binPixels_minimum _ (by simpa using hroom)]

end Binning

section ScannerLines

variable {s : State} {bytes : List Byte} {framed : Bool} {line : ScanLine}

/-- The state after a valid line, before its binning (R117, R118). -/
def State.lineAccepted (s : State) (line : ScanLine) : State :=
  (s.withScan (acceptLine line { s.scan with receiving := false })).withTimers
    { s.timers with silence := some (s.now + Config.silenceTime) }

theorem scannerLine_rejected (h : validLine s.scan.previousLine bytes framed = none) :
    exec (.scannerLine bytes framed) s =
      .next (s.withScan (rejectLine s.record.current.isSome { s.scan with receiving := false })) := by
  simp only [exec, execScannerLine, State.withScan_scan, h]
  rfl

/-- A valid line that meets no open record, or a paver that stands, is not binned (R119). -/
theorem scannerLine_notBinned (h : validLine s.scan.previousLine bytes framed = some line)
    (hskip : s.record.current = none ∨ s.travel.moving = false) :
    exec (.scannerLine bytes framed) s = .next (s.lineAccepted line) := by
  simp only [exec, execScannerLine, State.withScan_scan, h, State.withTimers_record, State.withTimers_travel,
    State.withScan_record, State.withScan_travel]
  cases hopen : s.record.current with
  | none => rfl
  | some r =>
    have hstands : s.travel.moving = false := hskip.resolve_left (by simp [hopen])
    simp only [hstands, Bool.false_eq_true, if_false]
    rfl

theorem scannerLine_binned {r : OpenRecord} (h : validLine s.scan.previousLine bytes framed = some line)
    (hopen : s.record.current = some r) (hmoving : s.travel.moving = true) :
    exec (.scannerLine bytes framed) s =
      .next ((s.lineAccepted line).withScan (binLine s.settings.record r line (s.lineAccepted line).scan)) := by
  simp only [exec, execScannerLine, State.withScan_scan, h, State.withTimers_record, State.withTimers_travel,
    State.withScan_record, State.withScan_travel, hopen, hmoving, if_true]
  rfl

/-- The scan binning unit after a binned line: counted, its pixels offered to the columns and the minimum (R119). -/
theorem lineAccepted_binned (r : OpenRecord) (line : ScanLine) :
    binLine s.settings.record r line (s.lineAccepted line).scan =
      { acceptLine line { s.scan with receiving := false } with
        linesBinned := min 255 (s.scan.linesBinned + 1)
        columns := (binLine s.settings.record r line (s.lineAccepted line).scan).columns
        minimum := (binLine s.settings.record r line (s.lineAccepted line).scan).minimum } := by
  rw [binLine_eq, binPixels_frame]
  rfl

/-- Settles O37: the judgement by the bytes of a line, the binning column by column. -/
theorem scannerLine : Obligations.ScannerLine := by
  intro s bytes framed valid accepted
  refine ⟨fun w pixels hvalid => ?_, fun hinvalid => ?_⟩
  · obtain ⟨rfl, hlength, hbytes, hnew⟩ := hvalid
    have hline : validLine s.scan.previousLine bytes true = some (lineOf w pixels) :=
      hbytes ▸ validLine_lineBytes hlength hnew
    by_cases hskip : s.record.current = none ∨ s.travel.moving = false
    · refine ⟨_, scannerLine_notBinned hline hskip, rfl, fun _ => rfl, fun r hopen hmoving => ?_,
        changesOnly_of fun part => by cases part <;> simp [Part.kept, State.lineAccepted]⟩
      simp [hopen, hmoving] at hskip
    · obtain ⟨hsome, hmoving⟩ := not_or.1 hskip
      obtain ⟨r, hopen⟩ := Option.ne_none_iff_exists'.1 hsome
      refine ⟨_, scannerLine_binned hline hopen (by simpa using hmoving), rfl, fun h => absurd h hskip, ?_,
        changesOnly_of fun part => by cases part <;> simp [Part.kept, State.lineAccepted]⟩
      intro u hu _ here taken
      obtain rfl : r = u := Option.some.inj (hopen.symm.trans hu)
      refine ⟨lineAccepted_binned r _, binPixels_columns_length _, fun hroom => ?_, fun c col hcol => ?_⟩
      · exact binLine_minimum (c := (s.lineAccepted (lineOf w pixels)).scan) (lineOf w pixels) (hlength ▸ hroom)
      · exact binLine_column (c := (s.lineAccepted (lineOf w pixels)).scan) (lineOf w pixels) hcol
  · have hnone : validLine s.scan.previousLine bytes framed = none :=
      Option.eq_none_iff_forall_ne_some.2 fun line hline => by
        obtain ⟨w, pixels, hline⟩ := lineBytes_of_validLine hline
        exact hinvalid ⟨w, pixels, hline⟩
    exact ⟨_, scannerLine_rejected hnone, rfl, changesOnly_of fun part => by cases part <;> simp [Part.kept]⟩

end ScannerLines
end Sys2Proof.Machine

/-! # Family 07: the open of a strip record and the close at a carry -/

namespace Sys2Proof.Machine

section RecordOpening

variable (s : State)

theorem openRecord_record :
    (openRecord s).record =
      { s.record with current := some (newRecord s), nextSequence := seqNext s.record.nextSequence } := (rfl)

theorem openRecord_scan : (openRecord s).scan = s.scan.clearStep (s.travel.width / 250) := (rfl)

theorem openRecord_lev (sd : Side) : (openRecord s).lev.get sd = { s.lev.get sd with stepMax := 0 } := by
  simp [openRecord]

theorem openRecord_changesOnly : changesOnly [.record, .scan, .lev] s (openRecord s) :=
  changesOnly_of fun part => by cases part <;> simp [Part.kept]

/-- The zones that the open of a record counts as faulted (R112, R120). -/
theorem faultedZones_bit (k : Fin 12) :
    (faultedZones s).getLsbD k.val = true ↔
      s.zones[k].state = .faultOpen ∨ s.zones[k].state = .faultWelded ∨ s.zones[k].state = .sensorLost := by
  rw [faultedZones, setOf_bit']
  split <;> simp_all

variable {s} {r : OpenRecord}

theorem closeByStep_reached (hr : s.record.current = some r)
    (hstep : s.settings.record.stepLength ≤ s.travel.distance - r.start) :
    closeByStep s = openRecord (closeRecord false false s) := by
  simp [closeByStep, hr, hstep]

theorem closeByStep_short (hr : s.record.current = some r)
    (hstep : s.travel.distance - r.start < s.settings.record.stepLength) : closeByStep s = s := by
  simp [closeByStep, hr, Nat.not_le.2 hstep]

/-- A forward pulse that carries meets the step length at once (R2, R123). -/
theorem forwardPulse_carried (hcarried : 0 < carriedMm s.settings.travelPulse s.travel) :
    exec .forwardPulse s = .next (closeByStep (s.withTravel (s.travel.forward s.settings.travelPulse))) :=
  congrArg Host.Outcome.next (if_pos hcarried)

/-- Settles O39: the open field by field, the pulse by whether its carry reaches the step length. -/
theorem recordOpen : Obligations.RecordOpen := by
  refine ⟨fun s => ⟨⟨newRecord s, openRecord_record s, rfl, rfl, rfl, rfl, rfl, rfl, rfl, rfl, rfl, rfl, rfl, rfl, rfl,
    faultedZones_bit s⟩, openRecord_scan s, openRecord_lev s, openRecord_changesOnly s⟩, fun _ => rfl, ?_⟩
  intro s r hr left carried hcarried hroom
  have hmm : carriedMm s.settings.travelPulse s.travel = carried := carriedMm_of_le hroom
  have hpulse := forwardPulse_carried (hcarried.trans_eq hmm.symm)
  have hopen : (s.withTravel (s.travel.forward s.settings.travelPulse)).record.current = some r := hr
  refine ⟨s.withTravel (s.travel.forward s.settings.travelPulse), congrArg (s.travel.distance + ·) hmm,
    changesOnly_withTravel _, fun hstep => ?_, fun hstep => ?_⟩
  · rw [hpulse, closeByStep_reached hopen hstep]
  · rw [hpulse, closeByStep_short hopen hstep]

end RecordOpening
end Sys2Proof.Machine

/-! # Family 07: where the fields of a record lie in its words -/

namespace Sys2Proof.Machine

section Fields

/-- The two words of a 32-bit field spell it again (R177). -/
theorem dword_words (n : Nat) : BitVec.ofNat 16 (n / 65536) ++ BitVec.ofNat 16 n = BitVec.ofNat 32 n := by
  apply BitVec.eq_of_toNat_eq
  simp only [BitVec.toNat_append, BitVec.toNat_ofNat]
  rw [← Nat.shiftLeft_add_eq_or_of_lt (Nat.mod_lt _ (Nat.two_pow_pos 16)), Nat.shiftLeft_eq]
  omega

/-- The low field of a word with two fields. -/
theorem lowField (k a b : Nat) (hk : k ≤ 16) : (BitVec.ofNat 16 (a * 2 ^ k + b)).extractLsb' 0 k = BitVec.ofNat k b := by
  apply BitVec.eq_of_toNat_eq
  simp only [BitVec.extractLsb'_toNat, BitVec.toNat_ofNat, Nat.shiftRight_zero]
  rw [Nat.mod_mod_of_dvd _ (Nat.pow_dvd_pow 2 hk), Nat.mul_add_mod_self_right]

/-- The high field of a word with two fields, while the low one keeps its place. -/
theorem highField (k m a b : Nat) (hk : k + m = 16) (hb : b < 2 ^ k) :
    (BitVec.ofNat 16 (a * 2 ^ k + b)).extractLsb' k m = BitVec.ofNat m a := by
  have hquotient : (a * 2 ^ k + b) / 2 ^ k = a := by
    rw [Nat.mul_comm, Nat.mul_add_div (Nat.two_pow_pos k), Nat.div_eq_of_lt hb, Nat.add_zero]
  apply BitVec.eq_of_toNat_eq
  simp only [BitVec.extractLsb'_toNat, BitVec.toNat_ofNat, Nat.shiftRight_eq_div_pow]
  rw [← hk, Nat.pow_add, Nat.mod_mul_right_div_self, hquotient, Nat.mod_mod]

/-- A flag in a bit of a word. -/
theorem flagBit {n i : Nat} {flag : Bool} (hi : i < 16) (h : n / 2 ^ i % 2 = boolCode flag) :
    (BitVec.ofNat 16 n).getLsbD i = flag := by
  rw [BitVec.getLsbD_ofNat, Nat.testBit_eq_decide_div_mod_eq, h]
  cases flag <;> simp [hi, boolCode]

theorem boolCode_le (flag : Bool) : boolCode flag ≤ 1 := by cases flag <;> decide

end Fields

section Layout

variable (h : Header) (pause drops : Nat) (columns : List Word)

/-- The flags lie above the low byte of word 9, which holds the lines binned (R177). -/
theorem flagWord_lines :
    (BitVec.ofNat 16 (h.flagBits + h.linesBinned)).extractLsb' 0 8 = BitVec.ofNat 8 h.linesBinned := by
  have hflags : h.flagBits = h.flagBits / 256 * 2 ^ 8 := by simp only [Header.flagBits]; omega
  rw [hflags]
  exact lowField 8 _ _ (by decide)

/-- Word 9: each flag in its bit, while the lines binned keep to the low byte (R177). -/
theorem flagWord_bits (hlines : h.linesBinned ≤ 255) :
    let w := BitVec.ofNat 16 (h.flagBits + h.linesBinned)
    w.getLsbD 15 = h.partialClose ∧ w.getLsbD 14 = h.restartClose ∧ w.getLsbD 13 = h.pauseFlag
      ∧ w.getLsbD 12 = h.dropsFlag ∧ w.getLsbD 11 = h.flags.scannerLost ∧ w.getLsbD 10 = h.flags.converterSuspect
      ∧ w.getLsbD 9 = h.flags.travelSuspect ∧ w.getLsbD 8 = h.flags.widthHeld := by
  have h15 := boolCode_le h.partialClose
  have h14 := boolCode_le h.restartClose
  have h13 := boolCode_le h.pauseFlag
  have h12 := boolCode_le h.dropsFlag
  have h11 := boolCode_le h.flags.scannerLost
  have h10 := boolCode_le h.flags.converterSuspect
  have h9 := boolCode_le h.flags.travelSuspect
  have h8 := boolCode_le h.flags.widthHeld
  refine ⟨flagBit (by decide) ?_, flagBit (by decide) ?_, flagBit (by decide) ?_, flagBit (by decide) ?_,
    flagBit (by decide) ?_, flagBit (by decide) ?_, flagBit (by decide) ?_, flagBit (by decide) ?_⟩
  all_goals simp only [Header.flagBits]; omega

/-- The columns follow the header, the pause and the drop count (R177). -/
theorem recordBody_columns : recordBody h pause drops columns = recordBody h pause drops [] ++ columns := by
  simp [recordBody]

theorem recordBody_pause (hpause : h.pauseFlag = true) :
    (recordBody h pause drops columns).getD 16 0#16 = BitVec.ofNat 16 pause := by
  simp only [recordBody, hpause, if_true]; rfl

theorem recordBody_drops (hdrops : h.dropsFlag = true) :
    (recordBody h pause drops columns).getD (16 + if h.pauseFlag then 1 else 0) 0#16 = BitVec.ofNat 16 drops := by
  cases hpause : h.pauseFlag <;> simp only [recordBody, hpause, hdrops, if_true] <;> rfl

theorem recordBody_column (c : Nat) :
    (recordBody h pause drops columns).getD (16 + ((if h.pauseFlag then 1 else 0) + if h.dropsFlag then 1 else 0) + c) 0#16 =
      columns.getD c 0#16 := by
  have hbefore := body_len h pause drops []
  simp only [List.length_nil, Nat.add_zero] at hbefore
  rw [recordBody_columns, List.getD_append_right _ _ _ _ (by omega)]
  congr 1
  omega

end Layout
end Sys2Proof.Machine

/-! # Family 07: the close of a strip record -/

namespace Sys2Proof.Machine

section ClosedColumns

variable {limit : Nat} {c : Column}

theorem Column.mean_of_pos (hcount : 0 < c.count) : c.mean = (c.sum + c.count / 2) / c.count :=
  if_neg (Nat.ne_of_gt hcount)

/-- Pixels of at most 3000 have a mean of at most 3000 (R126). -/
theorem Column.mean_le (hsum : c.sum ≤ 3000 * c.count) : c.mean ≤ 3000 := by
  rcases Nat.eq_zero_or_pos c.count with hzero | hcount
  · simp [Column.mean, hzero]
  · rw [Column.mean_of_pos hcount]
    exact Nat.le_of_lt_succ ((Nat.div_lt_iff_lt_mul hcount).2 (by omega))

theorem Column.cold_iff :
    c.cold limit = true ↔ 0 < c.count ∧ (c.sum + c.count / 2) / c.count < limit := by
  simp only [Column.cold, Bool.and_eq_true, bne_iff_ne, decide_eq_true_eq, ← Nat.pos_iff_ne_zero]
  exact and_congr_right fun hcount => by rw [Column.mean_of_pos hcount]

theorem Column.word_gap (hcount : c.count = 0) : c.word limit = 0x2000#16 := by
  simp [Column.word, Column.cold, Column.mean, hcount]

/-- A column with pixels: COLD above the mean, which takes the low twelve bits (R177). -/
theorem Column.word_of_pos (hcount : 0 < c.count) :
    c.word limit = BitVec.ofNat 16 (boolCode (c.cold limit) * 2 ^ 12 + c.mean) := by
  have hne : c.count ≠ 0 := Nat.ne_of_gt hcount
  cases hcold : c.cold limit <;> simp [Column.word, boolCode, hne, hcold]

theorem Column.word_fields (hcount : 0 < c.count) (hsum : c.sum ≤ 3000 * c.count) :
    (c.word limit).getLsbD 13 = false
      ∧ ((c.word limit).getLsbD 12 = true ↔ 0 < c.count ∧ (c.sum + c.count / 2) / c.count < limit)
      ∧ ((c.word limit).extractLsb' 0 12).toNat = (c.sum + c.count / 2) / c.count := by
  have hmean := Column.mean_le hsum
  have hcold := boolCode_le (c.cold limit)
  rw [Column.word_of_pos hcount]
  refine ⟨flagBit (by decide) ?_, ?_, ?_⟩
  · show _ = 0
    omega
  · rw [flagBit (flag := c.cold limit) (by decide) (by omega)]
    exact Column.cold_iff
  · rw [lowField 12 _ _ (by decide), BitVec.toNat_ofNat, Nat.mod_eq_of_lt (by omega), Column.mean_of_pos hcount]

end ClosedColumns

section RecordClosing

variable {s : State} {r : OpenRecord} {a b : Bool}

/-- What a storing event hands back: the header with its DROPS flag settled, and the record it writes last (R128, R136). -/
theorem storeRecord_written (h : Header) (pause : Nat) (columns : List Word) (s : State) :
    ∃ drops, (storeRecord h pause columns s).2 = { h with dropsFlag := decide (0 < drops) }
      ∧ (storeRecord h pause columns s).1.store.records.getLast? = some
          { sequence := h.sequence
            words := withCheckWord (recordBody { h with dropsFlag := decide (0 < drops) } pause drops columns) } := by
  refine ⟨_, rfl, ?_⟩
  simp only [storeRecord, raiseAllIf_frame, State.withStore_store, Store.push, List.getLast?_concat]

/-- The column section of a close, at the cold limit stored then (R126). -/
def State.columnSection (s : State) : List Word := s.scan.columns.map (Column.word s.settings.record.coldLimit)

theorem columnSection_column {k : Nat} {col : Column} (hcol : s.scan.columns[k]? = some col) :
    s.columnSection[k]? = some (col.word s.settings.record.coldLimit) := by
  rw [State.columnSection, List.getElem?_map, hcol, Option.map_some]

/-- The storing event of the close of an open record (R126, R127). -/
def State.closing (s : State) (r : OpenRecord) (a b : Bool) : State × Header :=
  storeRecord (assembleHeader s r a b) r.pause s.columnSection s

theorem closeRecord_unit (hr : s.record.current = some r) :
    (closeRecord a b s).record = { s.record with current := none, summary := some (s.closing r a b).2 } := by
  rw [closeRecord_record, hr]; rfl

theorem closeRecord_store (hr : s.record.current = some r) : (closeRecord a b s).store = (s.closing r a b).1.store := by
  rw [closeRecord_some hr]
  cases b <;> simp [State.closing, State.columnSection]

theorem closeRecord_ports (hr : s.record.current = some r) (q : Port) :
    (closeRecord a b s).ports.get q =
      portRaised (s.settings.masks.get q) .recordClosed ((s.closing r a b).1.ports.get q) := by
  rw [closeRecord_some hr]
  cases b <;> simp [State.closing, State.columnSection, raiseAll_get]

/-- The zones over the cold columns of the record, by the centres of the columns (R129). -/
theorem coldZones_bit (k : Fin 12) :
    (coldZones s r).getLsbD k.val = true ↔
      ∃ (c : Nat) (col : Column), s.scan.columns[c]? = some col
        ∧ (0 < col.count ∧ (col.sum + col.count / 2) / col.count < s.settings.record.coldLimit)
        ∧ zoneAt s.travel.extL s.travel.extR (r.x0 + 250 * c + 125) = some k := by
  simp only [coldZones, setOf_bit', List.any_eq_true, Prod.exists, List.mem_zipIdx_iff_getElem?, Bool.and_eq_true,
    Column.cold_iff, beq_iff_eq]
  exact exists_comm

/-- A close boosts the zones over cold columns, but for RESTART, and changes nothing else of a zone (R110, R125, R129). -/
theorem closeRecord_boost (hr : s.record.current = some r) (k : Fin 12) :
    (closeRecord a b s).zones[k] =
      if b = false ∧ (coldZones s r).getLsbD k.val = true then { s.zones[k] with boost := 2 } else s.zones[k] := by
  rw [closeRecord_some hr]
  cases b <;> simp [boostZones]

theorem pending_ne_zero {x : AlertSet} {k : AlertKind} (h : x.getLsbD k.bit = true) : x &&& alertBit k ≠ 0#16 := by
  intro hzero
  have hbit : (alertBit k).getLsbD k.bit = true := by cases k <;> rfl
  have hboth : (x &&& alertBit k).getLsbD k.bit = true := by rw [BitVec.getLsbD_and, h, hbit]; rfl
  rw [hzero] at hboth
  simp at hboth

/-- Settles O40: the close by its storing event and its boosts, the layout word by word. -/
theorem recordClose : Obligations.RecordClose := by
  refine ⟨fun s r a b hr => ?_, fun h pause drops columns => ?_⟩
  · intro t cold
    obtain ⟨drops, hheader, hlast⟩ := storeRecord_written (assembleHeader s r a b) r.pause s.columnSection s
    have hunit : t.record = _ := closeRecord_unit hr
    have hpause : decide (0 < r.pause) = decide (0 < r.pauseWindows * 25 / 10) :=
      decide_eq_decide.2 (by simp only [OpenRecord.pause]; omega)
    refine ⟨by rw [hunit], by rw [hunit],
      ⟨{ assembleHeader s r a b with dropsFlag := decide (0 < drops) }, s.columnSection, ?_,
        ⟨closeRecord_store hr, hheader.symm, closeRecord_ports hr⟩,
        rfl, rfl, rfl, rfl, rfl, rfl, rfl, rfl, hpause, rfl, rfl, rfl, rfl, rfl, rfl, rfl, rfl, rfl, rfl, rfl, rfl, rfl,
        drops, ?_, rfl, List.length_map _, fun c col hcol hsum => ?_⟩,
      fun q => ?_, fun k => ?_, changesOnly_of fun part => by cases part <;> simp [t, Part.kept]⟩
    · rw [hunit, ← hheader]; rfl
    · exact (congrArg (fun st => st.records.getLast?) (closeRecord_store hr)).trans hlast
    · exact ⟨_, columnSection_column hcol, Column.word_gap, fun hcount => Column.word_fields hcount hsum⟩
    · rw [closeRecord_ports hr]
      exact pending_ne_zero (pending_portRaised_self _ _ _)
    · intro boosted
      have hboosted : boosted ↔ b = false ∧ (coldZones s r).getLsbD k.val = true :=
        and_congr_right fun _ => (coldZones_bit k).symm
      exact ⟨fun h => (closeRecord_boost hr k).trans (if_pos (hboosted.1 h)),
        fun h => (closeRecord_boost hr k).trans (if_neg (mt hboosted.2 h))⟩
  · intro ws w extra sideCode
    have hside (u : SideState) : BitVec.ofNat 2 u.code = sideCode u := by cases u <;> rfl
    refine ⟨?_, dword_words _, dword_words _, rfl, dword_words _, rfl, rfl,
      fun hlines => ⟨flagWord_lines h, flagWord_bits h hlines⟩,
      fun _ hmax => ⟨highField 8 8 _ _ rfl (by omega), lowField 8 _ _ (by decide)⟩,
      fun hmax => ⟨(highField 14 2 _ _ rfl (by omega)).trans (hside _), lowField 14 _ _ (by decide)⟩,
      fun hmax => ⟨(highField 14 2 _ _ rfl (by omega)).trans (hside _), lowField 14 _ _ (by decide)⟩, rfl,
      fun _ => ⟨highField 12 4 _ _ rfl h.faulted.isLt, ?_⟩,
      fun _ hmin => ⟨highField 12 4 _ _ rfl (by omega), lowField 12 _ _ (by decide)⟩,
      recordBody_pause h pause drops columns, fun hdrops => ?_, fun c _ => recordBody_column h pause drops columns c⟩
    · rw [body_len, Nat.add_assoc 16]
    · exact (lowField 12 _ _ (by decide)).trans (BitVec.ofNat_toNat ..)
    · have hplace : 15 + extra = 16 + if h.pauseFlag then 1 else 0 := by simp only [extra, hdrops, if_true]; omega
      show ws.getD (15 + extra) 0#16 = _
      rw [hplace]
      exact recordBody_drops h pause drops columns hdrops

end RecordClosing
end Sys2Proof.Machine

/-! # Family 07: every command keeps the laws of the strip records and of the record store

What is missing of the laws of chapters 7 and 8 (a change of the travel unit, a judged line, the held slot), then one lemma
for each command that reaches the open record, the accumulators or the store. -/

namespace Sys2Proof.Machine

section StripRecordLaws

/-- The laws of the strip records and of the record store, of chapters 7 and 8. -/
def StripRecordLaws (s : State) : Prop := RecordLaw s ∧ StoreLaw s

theorem Lawful.stripRecordLaws {s : State} (h : Lawful s) : StripRecordLaws s := by
  obtain ⟨-, -, -, -, -, -, -, -, -, -, hrecord, hstore⟩ := h
  exact ⟨hrecord, hstore⟩

theorem Lawful.travelLaw {s : State} (h : Lawful s) : TravelLaw s := h.machineLaws.1

variable {s t : State} {p : Port}

theorem stripRecordLaws_takeRequest (p : Port) (h : StripRecordLaws s) : StripRecordLaws (takeRequest p s) := by
  simpa [StripRecordLaws] using h

theorem stripRecordLaws_answerCode (p : Port) (c : AnswerCode) (h : StripRecordLaws s) :
    StripRecordLaws (answerCode p c s) := by
  simpa [StripRecordLaws] using h

/-- Of the travel unit the laws read the distance count alone, and ask only that it does not fall. -/
theorem stripRecordLaws_withTravel {x : Travel} (hdistance : s.travel.distance ≤ x.distance) (h : StripRecordLaws s) :
    StripRecordLaws (s.withTravel x) := by
  obtain ⟨hrecord, hstore⟩ := h
  exact ⟨RecordLaw_travel hrecord hdistance, hstore⟩

/-- Another store that is lawful by itself, with the same newest number and no drops left over. -/
theorem stripRecordLaws_withStore {st : Store} (hself : StoreSelfLawful st) (hnewest : st.newest = s.store.newest)
    (hdrops : st.eventDrops = s.store.eventDrops) (h : StripRecordLaws s) : StripRecordLaws (s.withStore st) := by
  obtain ⟨hrecord, hstore⟩ := h
  exact ⟨hrecord, StoreLaw_store hstore hself hnewest hdrops⟩

theorem StripRecordLaws.storeSelfLawful (h : StripRecordLaws s) : StoreSelfLawful s.store := by
  obtain ⟨-, hstore⟩ := h
  obtain ⟨hself, -⟩ := StoreLaw_iff.1 hstore
  exact hself

/-- REWIND puts the cursor at base, and no record of the store is needed for that (R143). -/
theorem StoreSelfLawful_rewound {st : Store} (h : StoreSelfLawful st) : StoreSelfLawful { st with cursor := st.base } := by
  obtain ⟨hnumbers, hwords, hused, hbase, hnewest, hafter, -, hdropped, hslot⟩ := h
  exact ⟨hnumbers, hwords, hused, hbase, hnewest, hafter, ⟨0, Nat.zero_le _, rfl⟩, hdropped, hslot⟩

/-- The copy of a slot goes on as READY with the number it was started with (R139). -/
theorem StoreSelfLawful_ready {st : Store} {r : StoredRecord} {due due' : Nat} (hslot : st.slot = .copying r due)
    (h : StoreSelfLawful st) : StoreSelfLawful { st with slot := .ready r due' } := by
  obtain ⟨hnumbers, hwords, hused, hbase, hnewest, hafter, hcursor, hdropped, hheld⟩ := h
  refine ⟨hnumbers, hwords, hused, hbase, hnewest, hafter, hcursor, hdropped, fun x d hx => ?_⟩
  have hxr : x = r := by rcases hx with hx | hx <;> cases hx; rfl
  exact hxr ▸ hheld r due (.inl hslot)

theorem stripRecordLaws_powerOn (hx : exec .powerOn s = .next t) : StripRecordLaws t := by
  rw [exec_powerOn] at hx
  cases hx
  exact ⟨recordLaw_reset, storeLaw_reset⟩

/-- The distance count never falls, and the close at a carry keeps the laws (R2, R123). -/
theorem stripRecordLaws_forwardPulse (ht : TravelLaw s) (h : StripRecordLaws s) (hx : exec .forwardPulse s = .next t) :
    StripRecordLaws t := by
  cases hx
  have hmoved : StripRecordLaws (s.withTravel (s.travel.forward s.settings.travelPulse)) :=
    stripRecordLaws_withTravel (Nat.le_add_right _ _) h
  split
  · obtain ⟨hrecord, hstore⟩ := hmoved
    exact ⟨RecordLaw_closeByStep (TravelLaw_forward _ ht) hrecord,
      StoreLaw_closeByStep (OpenRecordStorable_of hrecord) hstore⟩
  · exact hmoved

theorem stripRecordLaws_speedWindowExpiry (ht : TravelLaw s) (h : StripRecordLaws s)
    (hx : exec .speedWindowExpiry s = .next t) : StripRecordLaws t := by
  rw [exec_speedWindowExpiry] at hx
  cases hx
  have hended : StripRecordLaws s.windowEnded := stripRecordLaws_withTravel (x := s.travel.endWindow) (Nat.le_refl _) h
  obtain ⟨hrecord, hstore⟩ := hended
  have ht' : TravelLaw s.windowEnded := TravelLaw_endWindow ht
  exact ⟨by simpa using RecordLaw_recordWindow ht' hrecord, by simpa using StoreLaw_recordWindow hstore⟩

theorem stripRecordLaws_plausibilityWindowExpiry (h : StripRecordLaws s)
    (hx : exec .plausibilityWindowExpiry s = .next t) : StripRecordLaws t := by
  rw [exec_plausibilityWindowExpiry] at hx
  cases hx
  obtain ⟨hrecord, hstore⟩ := h
  have hdistance : s.plausibilityJudged.travel.distance = s.travel.distance := by
    rw [plausibilityJudged_travel, Travel.judged_frame]; rfl
  have hjudged : RecordLaw s.plausibilityJudged :=
    (RecordLaw_eq (s := s) (u := s.plausibilityJudged) ⟨rfl, rfl, rfl, rfl⟩ rfl rfl hdistance).2 hrecord
  have hstore' : StoreLaw s.plausibilityJudged := hstore
  split
  · exact ⟨RecordLaw_reportFlags (by simpa), by simpa⟩
  · exact ⟨hjudged, hstore'⟩

/-- A rejected line changes counts only (R117). -/
theorem recordLaw_rejectLine (isOpen : Bool) (h : RecordLaw s) : RecordLaw (s.withScan (rejectLine isOpen s.scan)) := by
  obtain ⟨hcolumns, hminimum, hbinned, hrejected, hrest⟩ := h
  refine ⟨hcolumns, hminimum, hbinned, ?_, hrest⟩
  show (rejectLine isOpen s.scan).linesRejected ≤ 15
  unfold rejectLine
  split
  · exact satAdd_le _ _ _
  · exact hrejected

/-- A line binned keeps each column within its pixels, and their number (R119). -/
theorem recordLaw_binLine (st : RecordSettings) (r : OpenRecord) (line : ScanLine) (h : RecordLaw s) :
    RecordLaw (s.withScan (binLine st r line s.scan)) := by
  obtain ⟨hcolumns, hminimum, hbinned, hrejected, hnext, hopen⟩ := h
  obtain ⟨⟨hcolumns', hminimum'⟩, hlength, hbinned', hrejected'⟩ :=
    binLine_ok st r line s.scan ⟨hcolumns, hminimum⟩ hbinned
  refine ⟨hcolumns', hminimum', hbinned', hrejected'.trans_le hrejected, hnext, fun u hu => ?_⟩
  obtain ⟨hmode, hcount, hrest⟩ := hopen u hu
  exact ⟨hmode, hlength.trans hcount, hrest⟩

theorem stripRecordLaws_scannerLine {bytes : List Byte} {framed : Bool} (h : StripRecordLaws s)
    (hx : exec (.scannerLine bytes framed) s = .next t) : StripRecordLaws t := by
  obtain ⟨hrecord, hstore⟩ := h
  cases hline : validLine s.scan.previousLine bytes framed with
  | none =>
    have hended : RecordLaw (s.withScan { s.scan with receiving := false }) := hrecord
    rw [scannerLine_rejected hline] at hx
    cases hx
    exact ⟨recordLaw_rejectLine _ hended, hstore⟩
  | some line =>
    have haccepted : RecordLaw (s.lineAccepted line) := hrecord
    by_cases hskip : s.record.current = none ∨ s.travel.moving = false
    · rw [scannerLine_notBinned hline hskip] at hx
      cases hx
      exact ⟨haccepted, hstore⟩
    · obtain ⟨hsome, hmoving⟩ := not_or.1 hskip
      obtain ⟨r, hopen⟩ := Option.ne_none_iff_exists'.1 hsome
      rw [scannerLine_binned hline hopen (by simpa using hmoving)] at hx
      cases hx
      exact ⟨recordLaw_binLine _ _ _ haccepted, hstore⟩

theorem stripRecordLaws_scannerSilenceExpiry (h : StripRecordLaws s)
    (hx : exec .scannerSilenceExpiry s = .next t) : StripRecordLaws t := by
  cases hlost : s.scan.lost with
  | false =>
    obtain ⟨hrecord, hstore⟩ := h
    have hsilent : RecordLaw s.scannerSilent :=
      (RecordLaw_eq (s := s) (u := s.scannerSilent) ⟨rfl, rfl, rfl, rfl⟩ (by simp) (by simp) (by simp)).2 hrecord
    have hsilent' : StoreLaw s.scannerSilent := (StoreLaw_congr (by simp) (by simp)).2 hstore
    rw [exec_scannerSilenceExpiry hlost] at hx
    cases hx
    exact ⟨RecordLaw_reportFlags (by simpa), by simpa⟩
  | true =>
    simp only [exec, execScannerSilenceExpiry, hlost, if_true, Host.Outcome.next.injEq] at hx
    exact hx ▸ h

theorem stripRecordLaws_scannerRunStart (h : StripRecordLaws s) (hx : exec .scannerRunStart s = .next t) :
    StripRecordLaws t := by
  cases hx
  exact h

theorem stripRecordLaws_rewind (h : StripRecordLaws s) (hx : exec (.rewind p) s = .next t) : StripRecordLaws t := by
  cases hx
  have htaken := stripRecordLaws_takeRequest p h
  split
  · exact stripRecordLaws_answerCode p _ htaken
  · exact stripRecordLaws_answerCode p _
      (stripRecordLaws_withStore (StoreSelfLawful_rewound (StoreSelfLawful_empty htaken.storeSelfLawful)) rfl rfl htaken)

theorem stripRecordLaws_portReset (h : StripRecordLaws s) (hx : exec (.portReset p) s = .next t) : StripRecordLaws t := by
  cases hx
  have hreset : StripRecordLaws
      ((takeRequest p s).modifyPort p (PortState.reset ((takeRequest p s).settings.masks.get p))) := by
    simpa [StripRecordLaws] using h
  refine stripRecordLaws_answerCode p _ ?_
  split
  · exact stripRecordLaws_withStore (StoreSelfLawful_empty hreset.storeSelfLawful) rfl rfl hreset
  · exact hreset

theorem stripRecordLaws_copyCompletion (h : StripRecordLaws s) (hx : exec .copyCompletion s = .next t) :
    StripRecordLaws t := by
  simp only [exec, execCopyCompletion, Host.Outcome.next.injEq] at hx
  subst hx
  split
  case h_1 r due hslot =>
    have hreached : StripRecordLaws (s.reach due) := by simpa [StripRecordLaws] using h
    exact stripRecordLaws_withStore (StoreSelfLawful_ready (by simpa using hslot) hreached.storeSelfLawful) rfl rfl
      hreached
  all_goals exact h

theorem stripRecordLaws_heldAnswerExpiry (h : StripRecordLaws s) (hx : exec .heldAnswerExpiry s = .next t) :
    StripRecordLaws t := by
  simp only [exec, execHeldAnswerExpiry, Host.Outcome.next.injEq] at hx
  subst hx
  split
  case h_1 r due hslot =>
    have hreached : StripRecordLaws (s.reach due) := by simpa [StripRecordLaws] using h
    exact stripRecordLaws_withStore (StoreSelfLawful_empty h.storeSelfLawful) rfl rfl hreached
  all_goals exact h

theorem stripRecordLaws_restart (h : StripRecordLaws s) (hx : exec (.restart p) s = .next t) : StripRecordLaws t := by
  cases hx
  have htaken := stripRecordLaws_takeRequest p h
  split
  · obtain ⟨hrecord, hstore⟩ := htaken
    exact stripRecordLaws_answerCode p _
      ⟨RecordLaw_restartPart hrecord, StoreLaw_restartPart (OpenRecordStorable_of hrecord) hstore⟩
  · exact stripRecordLaws_answerCode p _ htaken

theorem stripRecordLaws_storeSetting (st : Setting) (v : Word) (h : StripRecordLaws s) :
    StripRecordLaws (storeSetting st v s) := by
  obtain ⟨hrecord, hstore⟩ := h
  exact ⟨RecordLaw_storeSetting hrecord, StoreLaw_storeSetting (OpenRecordStorable_of hrecord) hstore⟩

theorem stripRecordLaws_application (h : StripRecordLaws s) (hx : exec (.application p) s = .next t) :
    StripRecordLaws t := by
  cases hq : (s.ports.get p).queue with
  | nil =>
    simp only [exec, execApplication, hq, Host.Outcome.next.injEq] at hx
    exact hx ▸ h
  | cons e rest =>
    rw [application_eq hq] at hx
    cases hx
    have hpopped : StripRecordLaws (popEntry p rest (s.reach (max e.due (s.ports.get p).applyAfter))) := by
      simpa [StripRecordLaws] using h
    split
    · simpa [StripRecordLaws, applyEntry] using stripRecordLaws_storeSetting e.item e.value hpopped
    · simpa [StripRecordLaws] using hpopped

/-- The commands that reach the open record, the accumulators, the store, or the distance count. -/
def reachesRecords : Instr → Bool
  | .powerOn | .forwardPulse | .speedWindowExpiry | .plausibilityWindowExpiry | .scannerLine _ _ | .scannerSilenceExpiry
  | .scannerRunStart | .rewind _ | .portReset _ | .copyCompletion | .heldAnswerExpiry | .restart _
  | .application _ => true
  | .reversePulse | .radarPulse | .secondsCountTick | .classPeriodExpiry _ | .converterTake | .settleEnd
  | .conversionCompletion _ _ | .overloadRecoveryEnd | .sampleTimerExpiry | .jogTimerExpiry _ | .prefillTimerExpiry _
  | .sliceStart | .heatingWaitEnd | .readback _ | .trip _ | .read _ _ _ | .write _ _ _ | .page _ _ | .takeAlerts _
  | .alertDone _ | .engage _ _ | .disengage _ _ | .setZero _ _ | .jog _ _ _ _ | .prefill _ _ | .clearFault _ _ _
  | .fetch _ | .release _ _ | .badFrame _ _ | .presenceTimeout _ => false

/-- The pulses and the tick that leave the distance count as it stands (R3, R4, R7). -/
theorem RecordLaw_withTravel_iff {x : Travel} (hdistance : x.distance = s.travel.distance) :
    RecordLaw (s.withTravel x) ↔ RecordLaw s := RecordLaw_eq ⟨rfl, rfl, rfl, rfl⟩ rfl rfl hdistance

/-- The other commands: each shared operation they are made of leaves the laws as they are or keeps them, by its own lemma (a
report into the open record, FETCH, RELEASE). -/
theorem stripRecordLaws_elsewhere {c : Instr} (hc : reachesRecords c = false) (h : StripRecordLaws s)
    (hx : exec c s = .next t) : StripRecordLaws t := by
  obtain ⟨hrecord, hstore⟩ := h
  cases c with
  | reversePulse | radarPulse | secondsCountTick | classPeriodExpiry | converterTake | settleEnd | conversionCompletion
  | overloadRecoveryEnd | sampleTimerExpiry | jogTimerExpiry | prefillTimerExpiry | sliceStart | heatingWaitEnd | readback
  | trip | read | write | page | takeAlerts | alertDone | engage | disengage | setZero | jog | prefill | clearFault | fetch
  | release | badFrame | presenceTimeout =>
    simp only [exec, execReversePulse, execRadarPulse, execSecondsCountTick, execClassPeriodExpiry, execConverterTake,
      execSettleEnd, execConversionCompletion, execOverloadRecoveryEnd, execSampleTimerExpiry, execJogTimerExpiry,
      execPrefillTimerExpiry, execSliceStart, execHeatingWaitEnd, execReadback, execTrip, execRead, execWrite, execPage,
      execTakeAlerts, execAlertDone, execEngage, execDisengage, execSetZero, execJog, execPrefill, execClearFault, execFetch,
      execRelease, execBadFrame, execPresenceTimeout, sideRequest, Host.Outcome.next.injEq] at hx
    subst hx
    unfold StripRecordLaws
    (repeat' split) <;> simp [hrecord, hstore, RecordLaw_withTravel_iff]
  | _ => cases hc

/-- Every command keeps the laws of the strip records and of the record store. -/
theorem stripRecordLaws_exec (c : Instr) (ht : TravelLaw s) (h : StripRecordLaws s) (hx : exec c s = .next t) :
    StripRecordLaws t := by
  cases c with
  | powerOn => exact stripRecordLaws_powerOn hx
  | forwardPulse => exact stripRecordLaws_forwardPulse ht h hx
  | speedWindowExpiry => exact stripRecordLaws_speedWindowExpiry ht h hx
  | plausibilityWindowExpiry => exact stripRecordLaws_plausibilityWindowExpiry h hx
  | scannerLine => exact stripRecordLaws_scannerLine h hx
  | scannerSilenceExpiry => exact stripRecordLaws_scannerSilenceExpiry h hx
  | scannerRunStart => exact stripRecordLaws_scannerRunStart h hx
  | rewind => exact stripRecordLaws_rewind h hx
  | portReset => exact stripRecordLaws_portReset h hx
  | copyCompletion => exact stripRecordLaws_copyCompletion h hx
  | heldAnswerExpiry => exact stripRecordLaws_heldAnswerExpiry h hx
  | restart => exact stripRecordLaws_restart h hx
  | application => exact stripRecordLaws_application h hx
  | _ => exact stripRecordLaws_elsewhere rfl h hx

/-- Settles O59, command by command: the record's law by the open, the close and the binning, the store's by storing, delivery
and release. -/
theorem recordLawsKept : Obligations.RecordLawsKept := fun _ _ =>
  step_gives_of_lawful (law := StripRecordLaws) (fun _ _ hs => hs.stripRecordLaws)
    fun c _ _ hs hx => stripRecordLaws_exec c hs.travelLaw hs.stripRecordLaws hx

end StripRecordLaws
end Sys2Proof.Machine

/-! # Family 08: where a number stands along the numbering -/

namespace Sys2Proof.Machine

section Numbering

variable {b n i j : Nat}

theorem seqDistance_le (b n : Nat) : seqDistance b n ≤ 4294967294 :=
  Nat.le_of_lt_succ (Nat.mod_lt _ (by decide))

/-- The distance leads from one number of the numbering to another (R135). -/
theorem seqAfter_seqDistance (hb : 1 ≤ b ∧ b ≤ 4294967295) (hn : 1 ≤ n ∧ n ≤ 4294967295) :
    seqAfter b (seqDistance b n) = n := by
  rw [seqAfter_val hb, seqDistance, Config.max32]
  omega

/-- Forward along the numbering the distance is the count of steps (R135). -/
theorem seqDistance_seqAfter_of_le (hb : 1 ≤ b ∧ b ≤ 4294967295) (hij : i ≤ j) (hj : j ≤ 4294967294) :
    seqDistance (seqAfter b i) (seqAfter b j) = j - i := by
  rw [seqAfter_val hb, seqAfter_val hb, seqDistance, Config.max32]
  omega

/-- Backward the distance is what the numbering leaves of the steps (R135). -/
theorem seqDistance_seqAfter_of_lt (hb : 1 ≤ b ∧ b ≤ 4294967295) (hji : j < i) (hi : i ≤ 4294967294) :
    seqDistance (seqAfter b i) (seqAfter b j) = 4294967295 - (i - j) := by
  rw [seqAfter_val hb, seqAfter_val hb, seqDistance, Config.max32]
  omega

/-- Within half the numbering the order of R135 is the order of the step counts from a common number. -/
theorem seqBehind_seqAfter_iff (hb : 1 ≤ b ∧ b ≤ 4294967295) (hi : i ≤ 2147483647) (hj : j ≤ 2147483647) :
    seqBehind (seqAfter b i) (seqAfter b j) = true ↔ j < i := by
  simp only [seqBehind, decide_eq_true_eq]
  rcases Nat.lt_or_ge j i with hji | hij
  · rw [seqDistance_seqAfter_of_lt hb hji (by omega)]
    omega
  · rw [seqDistance_seqAfter_of_le hb hij (by omega)]
    omega

end Numbering

section StoreOfALawfulState

variable {s : State} {st : Store} {r : StoredRecord} {rest : List StoredRecord} {b k n : Nat}

theorem StoreLaw.base_range (h : StoreLaw s) : 1 ≤ s.store.base ∧ s.store.base ≤ 4294967295 := by
  obtain ⟨-, -, -, hbase, -⟩ := h
  exact hbase

/-- Records of 29 words and more: the ring holds 282 at the most (R134). -/
theorem StoreLaw.length_le (h : StoreLaw s) : s.store.records.length ≤ 282 := by
  obtain ⟨-, hwords, hused, -⟩ := h
  exact used_len hwords hused

theorem freeBase_of_cons (hrecords : st.records = r :: rest) :
    st.freeBase =
      ({ st with records := rest, ringBase := (st.ringBase + r.words.length) % Config.ringWords,
                 base := seqNext st.base } : Store).raiseCursor := by
  rw [Store.freeBase, hrecords]

theorem freeBase_records (st : Store) : st.freeBase.records = st.records.tail := by
  cases hrecords : st.records with
  | nil => rw [Store.freeBase, hrecords]; exact hrecords
  | cons r rest => rw [freeBase_of_cons hrecords]; rfl

theorem freeBase_base (hrecords : st.records ≠ []) : st.freeBase.base = seqNext st.base := by
  obtain ⟨r, rest, hcons⟩ := List.exists_cons_of_ne_nil hrecords
  rw [freeBase_of_cons hcons]
  rfl

/-- Where the cursor stands after the base record is freed: raised if the base passed it (R136, R142). -/
theorem freeBase_cursor (hrecords : st.records ≠ []) (hb : 1 ≤ b ∧ b ≤ 4294967295) (hbase : st.base = seqAfter b n)
    (hcursor : st.cursor = seqAfter b k) (hn : n < 2147483647) (hk : k ≤ 2147483647) :
    st.freeBase.cursor = seqAfter b (max k (n + 1)) := by
  obtain ⟨r, rest, hcons⟩ := List.exists_cons_of_ne_nil hrecords
  have hnext : seqNext st.base = seqAfter b (n + 1) := congrArg seqNext hbase
  rw [freeBase_of_cons hcons, Store.raiseCursor]
  simp only [hnext, hcursor, seqBehind_seqAfter_iff hb (i := n + 1) hn hk]
  split
  case isTrue hbehind => rw [Nat.max_eq_right (by omega)]
  case isFalse hnot => rw [Nat.max_eq_left (by omega)]

end StoreOfALawfulState
end Sys2Proof.Machine

/-! # Family 08: FETCH, RELEASE and REWIND -/

namespace Sys2Proof.Machine

section Drain

variable {s : State} {st : Store} {r : StoredRecord} {due j k : Nat}

/-- A request that is only answered, as the statements of this chapter say it. -/
theorem answered_taken {c : Instr} {p : Port} {a : Answer} (hx : exec c s = .next (answer p a (takeRequest p s))) :
    ∃ t, (exec c s = .next t ∧ answeredOnly s t p a) ∧ changesOnly [.ports] s t := by
  obtain ⟨hanswer, hframe⟩ := answeredOnly_taken s p a
  exact ⟨_, ⟨hx, hanswer⟩, hframe⟩

/-- A request answered after a change of the record store (R138, R142, R143). -/
theorem answered_stored {c : Instr} {p : Port} {a : Answer}
    (hx : exec c s = .next (answer p a ((takeRequest p s).withStore st))) :
    ∃ t, (exec c s = .next t ∧ answeredOnly s t p a) ∧ t.store = st ∧ changesOnly [.store, .ports] s t :=
  ⟨_, ⟨hx, answer_take p a s⟩, rfl, changesOnly_of fun part => by cases part <;> simp [Part.kept]⟩

theorem exec_release_d {sequence : DWord} (hne : sequence ≠ 0#32) :
    exec (.release .d sequence) s = .next (releaseFromD sequence.toNat (takeRequest .d s)) := by
  simp [exec, execRelease, hne]

theorem releaseFromD_empty {n : Nat} (hdistance : seqDistance s.store.base n = 0) (hempty : s.store.records = []) :
    releaseFromD n s = answerCode .d .order (s.withStore s.store.emptySlot) := by
  simp [releaseFromD, hdistance, hempty]

theorem releaseFromD_base {n : Nat} (hdistance : seqDistance s.store.base n = 0) (hsome : s.store.records ≠ []) :
    releaseFromD n s = answerCode .d .ok (s.withStore s.store.freeBase.emptySlot) := by
  simp [releaseFromD, hdistance, hsome]

theorem releaseFromD_ahead {n : Nat} (hpos : 0 < seqDistance s.store.base n)
    (hahead : seqDistance s.store.base n ≤ 2147483647) :
    releaseFromD n s = answerCode .d .order (s.withStore s.store.emptySlot) := by
  simp [releaseFromD, Nat.ne_of_gt hpos, seqBehind, Nat.not_lt.2 hahead]

theorem releaseFromD_behind {n : Nat} (hbehind : 2147483647 < seqDistance s.store.base n) :
    releaseFromD n s = answerCode .d .gone (s.withStore s.store.emptySlot) := by
  have hpos : seqDistance s.store.base n ≠ 0 := by omega
  simp [releaseFromD, hpos, seqBehind, hbehind]

/-- RELEASE of the base record: the record freed, the cursor moved on if it stood at it (R142). -/
theorem freeBase_cursor_of_law (hlaw : StoreLaw s) (hsome : s.store.records ≠ []) (hk : k ≤ s.store.records.length)
    (hcursor : s.store.cursor = seqAfter s.store.base k) :
    s.store.freeBase.cursor = if k = 0 then seqNext s.store.base else s.store.cursor := by
  have hlength := hlaw.length_le
  have hfreed : s.store.freeBase.cursor = seqAfter s.store.base (max k 1) :=
    freeBase_cursor hsome hlaw.base_range (n := 0) rfl hcursor (by decide) (by omega)
  rw [hfreed]
  split
  case isTrue hzero => rw [hzero]; rfl
  case isFalse hpos => rw [hcursor, Nat.max_eq_left (Nat.pos_of_ne_zero hpos)]

/-- Settles O43: RELEASE by where its number stands against base, the cursor by `freeBase_cursor`. -/
theorem releaseAndRewind : Obligations.ReleaseAndRewind := by
  refine ⟨fun base n hb hb' hn hn' => ⟨seqDistance_le base n, seqAfter_seqDistance ⟨hb, hb'⟩ ⟨hn, hn'⟩⟩, fun s p =>
    ⟨?_, fun hp => ?_, ?_⟩⟩
  · intro sequence d answers
    refine ⟨fun hp => answered_taken (congrArg Host.Outcome.next (if_pos hp)), ?_, ?_, ?_, ?_, ?_⟩
    · rintro rfl rfl
      exact answered_taken rfl
    · rintro rfl hne hd hempty
      exact answered_stored ((exec_release_d hne).trans (congrArg _ (releaseFromD_empty hd hempty)))
    · rintro r rest rfl hne hd hrecords
      have hsome : s.store.records ≠ [] := hrecords ▸ List.cons_ne_nil r rest
      obtain ⟨hnewest, -, -, htotal⟩ := freeBase_newest s.store
      obtain ⟨t, hanswers, hstore, hframe⟩ :=
        answered_stored ((exec_release_d hne).trans (congrArg _ (releaseFromD_base hd hsome)))
      refine ⟨t, hanswers, ?_⟩
      rw [hstore]
      exact ⟨(freeBase_records s.store).trans (congrArg List.tail hrecords), freeBase_base hsome, rfl, hnewest, htotal,
        fun k hlaw hk hcursor => freeBase_cursor_of_law hlaw hsome hk hcursor, hframe⟩
    · rintro rfl hne hpos hahead
      exact answered_stored ((exec_release_d hne).trans (congrArg _ (releaseFromD_ahead hpos hahead)))
    · rintro rfl hne hbehind
      exact answered_stored ((exec_release_d hne).trans (congrArg _ (releaseFromD_behind hbehind)))
  · obtain ⟨t, ⟨hx, hanswer⟩, hframe⟩ := answered_taken (c := .rewind p) (s := s) (congrArg _ (if_pos hp))
    exact ⟨t, hx, hanswer, hframe⟩
  · rintro rfl
    obtain ⟨t, ⟨hx, hanswer⟩, hstore, hframe⟩ := answered_stored (c := .rewind .d) (s := s) rfl
    exact ⟨t, hx, hanswer, hstore, hframe⟩

end Drain
end Sys2Proof.Machine

/-! # Family 08: FETCH, the delivery of a copy, and the copy's own events -/

namespace Sys2Proof.Machine

section Delivery

variable {st : Store} {r : StoredRecord} {j k : Nat}

theorem holds_seqAfter (hb : 1 ≤ st.base ∧ st.base ≤ 4294967295) (hlength : st.records.length ≤ 282)
    (hj : j < st.records.length) : st.holds (seqAfter st.base j) = true := by
  have hdistance : seqDistance st.base (seqAfter st.base j) = j :=
    seqDistance_seqAfter_of_le (i := 0) hb (Nat.zero_le j) (by omega)
  simp [Store.holds, hdistance, hj]

/-- The delivery of a record still held: the cursor moves after it, unless it lies beyond it (R140). -/
theorem deliver_cursor_held (hb : 1 ≤ st.base ∧ st.base ≤ 4294967295) (hlength : st.records.length ≤ 282)
    (hj : j < st.records.length) (hk : k ≤ st.records.length) (hr : r.sequence = seqAfter st.base j)
    (hcursor : st.cursor = seqAfter st.base k) :
    (st.deliver r).cursor = if k ≤ j then seqNext r.sequence else st.cursor := by
  have hholds : st.holds r.sequence = true := hr ▸ holds_seqAfter hb hlength hj
  have hplace : seqDistance st.cursor r.sequence ≤ 2147483647 ↔ k ≤ j := by
    have hbehind : seqBehind st.cursor r.sequence = true ↔ j < k := by
      rw [hcursor, hr]
      exact seqBehind_seqAfter_iff hb (by omega) (by omega)
    rw [← not_lt, ← not_lt, ← hbehind, seqBehind, decide_eq_true_eq]
  simp only [Store.deliver, hholds, Bool.true_and, decide_eq_true_eq, hplace]

/-- The delivery of a record that drops have taken: the cursor stays where they left it (R136, R140). -/
theorem deliver_cursor_dropped (hb : 1 ≤ st.base ∧ st.base ≤ 4294967295)
    (hn : 1 ≤ r.sequence ∧ r.sequence ≤ 4294967295)
    (hr : ∀ j, j < st.records.length → r.sequence ≠ seqAfter st.base j) : (st.deliver r).cursor = st.cursor := by
  rcases deliver_cursor (st := st) (r := r) with hstays | ⟨hholds, -⟩
  · exact hstays
  · obtain ⟨j, hj, hsequence⟩ := holds_at hb hn hholds
    exact absurd hsequence (hr j hj)

end Delivery

section Fetch

variable {s : State} {r : StoredRecord} {due : Nat}

theorem StoreLaw.slot_range (h : StoreLaw s) (hslot : s.store.slot = .copying r due ∨ s.store.slot = .ready r due) :
    1 ≤ r.sequence ∧ r.sequence ≤ 4294967295 := by
  obtain ⟨-, -, -, -, -, -, -, -, -, -, hslots⟩ := h
  exact hslots r due hslot

theorem exec_fetch_d {u : State} (h : fetchFromD (takeRequest .d s) = u) : exec (.fetch .d) s = .next u :=
  congrArg Host.Outcome.next h

theorem fetchFromD_ready (hslot : s.store.slot = .ready r due) :
    fetchFromD s = answer .d { code := .ok, data := recordBytes r } (s.withStore (s.store.deliver r)) := by
  simp only [fetchFromD, hslot]

theorem fetchFromD_copying (hslot : s.store.slot = .copying r due) : fetchFromD s = answerCode .d .retry s := by
  simp only [fetchFromD, hslot]

theorem fetchFromD_none (hslot : s.store.slot = .empty) (hnone : s.store.atCursor = none) :
    fetchFromD s = answerCode .d .empty s := by
  simp only [fetchFromD, hslot, hnone]

/-- The copy starts, 40 µs for each word (R138, R139). -/
theorem fetchFromD_some (hslot : s.store.slot = .empty) (hsome : s.store.atCursor = some r) :
    fetchFromD s =
      answerCode .d .retry (s.withStore { s.store with slot := .copying r (s.now + 4 * r.words.length) }) := by
  simp only [fetchFromD, hslot, hsome]
  rfl

theorem exec_copyCompletion (hslot : s.store.slot = .copying r due) :
    exec .copyCompletion s =
      .next ((s.reach due).withStore { s.store with slot := .ready r ((s.reach due).now + 200000) }) := by
  simp only [exec, execCopyCompletion, hslot]
  rfl

theorem exec_heldAnswerExpiry (hslot : s.store.slot = .ready r due) :
    exec .heldAnswerExpiry s = .next ((s.reach due).withStore s.store.emptySlot) := by
  simp only [exec, execHeldAnswerExpiry, hslot]

/-- The frame of the copy's own events. -/
theorem changesOnly_reach_withStore (s : State) (due : Nat) (st : Store) :
    changesOnly [.store, .now] s ((s.reach due).withStore st) :=
  changesOnly_of fun part => by cases part <;> simp [Part.kept]

/-- Settles O42: FETCH by the held slot, the cursor after a delivery by whether the record is still held. -/
theorem fetchAndCopy : Obligations.FetchAndCopy := by
  refine ⟨?_, fun s r due hslot => ⟨_, exec_copyCompletion hslot, rfl, changesOnly_reach_withStore s due _⟩,
    fun s r due hslot => ⟨_, exec_heldAnswerExpiry hslot, rfl, changesOnly_reach_withStore s due _⟩⟩
  intro s p held answers
  refine ⟨fun hp => answered_taken (congrArg Host.Outcome.next (if_neg hp)), fun r due hslot => ?_,
    fun r due hslot => answered_taken (exec_fetch_d (fetchFromD_copying hslot)),
    fun hslot hnone => answered_taken (exec_fetch_d (fetchFromD_none hslot hnone)),
    fun r hslot hsome => answered_stored (exec_fetch_d (fetchFromD_some hslot hsome))⟩
  obtain ⟨t, hanswers, hstore, hframe⟩ := answered_stored (exec_fetch_d (fetchFromD_ready hslot))
  refine ⟨t, hanswers, ?_⟩
  rw [hstore]
  exact ⟨rfl, fun k hlaw hk hcursor =>
    ⟨fun j hj hr => deliver_cursor_held hlaw.base_range hlaw.length_le hj hk hr hcursor,
      deliver_cursor_dropped hlaw.base_range (hlaw.slot_range (.inr hslot))⟩, hframe⟩

end Fetch
end Sys2Proof.Machine

/-! # Family 08: the drops of a storing event -/

namespace Sys2Proof.Machine

section Drops

variable {st : Store} {len k n : Nat}

/-- The store after the first `n` drops of a storing event (R136). -/
def Store.afterDrops (st : Store) (n : Nat) : Store := Store.drop^[n] { st with eventDrops := 0 }

theorem afterDrops_succ (st : Store) (n : Nat) : st.afterDrops (n + 1) = (st.afterDrops n).drop :=
  Function.iterate_succ_apply' _ _ _

theorem afterDrops_records (st : Store) : ∀ n, (st.afterDrops n).records = st.records.drop n
  | 0 => rfl
  | n + 1 => by
    rw [afterDrops_succ, ← List.tail_drop, ← afterDrops_records st n]
    exact freeBase_records _

theorem afterDrops_eventDrops (st : Store) : ∀ n, (st.afterDrops n).eventDrops = n
  | 0 => rfl
  | n + 1 => by
    rw [afterDrops_succ]
    exact congrArg (· + 1) (afterDrops_eventDrops st n)

/-- Drops touch neither the held slot nor newest. -/
theorem afterDrops_frame (st : Store) :
    ∀ n, (st.afterDrops n).newest = st.newest ∧ (st.afterDrops n).slot = st.slot
  | 0 => ⟨rfl, rfl⟩
  | n + 1 => by
    obtain ⟨hnewest, -, hslot, -⟩ := freeBase_newest (st.afterDrops n)
    obtain ⟨ihnewest, ihslot⟩ := afterDrops_frame st n
    rw [afterDrops_succ]
    exact ⟨hnewest.trans ihnewest, hslot.trans ihslot⟩

/-- Each drop counts, up to the top of the total (R136). -/
theorem afterDrops_droppedTotal (htotal : st.droppedTotal ≤ 65535) :
    ∀ n, (st.afterDrops n).droppedTotal = min 65535 (st.droppedTotal + n)
  | 0 => (Nat.min_eq_right htotal).symm
  | n + 1 => by
    have hdrop : (st.afterDrops n).drop.droppedTotal = min 65535 ((st.afterDrops n).droppedTotal + 1) := rfl
    rw [afterDrops_succ, hdrop, afterDrops_droppedTotal htotal n]
    omega

theorem afterDrops_records_ne_nil (hn : n < st.records.length) : (st.afterDrops n).records ≠ [] := by
  rw [afterDrops_records]
  exact mt List.drop_eq_nil_iff.1 (Nat.not_le.2 hn)

/-- Each drop moves base on by one number (R136). -/
theorem afterDrops_base (hn : n ≤ st.records.length) : (st.afterDrops n).base = seqAfter st.base n := by
  induction n with
  | zero => rfl
  | succ n ih =>
    rw [afterDrops_succ, seqAfter, ← ih (Nat.le_of_succ_le hn)]
    exact freeBase_base (afterDrops_records_ne_nil hn)

/-- The cursor keeps its number until base passes it, then stands at base (R136). -/
theorem afterDrops_cursor (hb : 1 ≤ st.base ∧ st.base ≤ 4294967295) (hlength : st.records.length ≤ 282)
    (hk : k ≤ st.records.length) (hcursor : st.cursor = seqAfter st.base k) (hn : n ≤ st.records.length) :
    (st.afterDrops n).cursor = seqAfter st.base (max k n) := by
  induction n with
  | zero => exact hcursor.trans (congrArg _ (Nat.max_eq_left (Nat.zero_le k)).symm)
  | succ n ih =>
    have hn' : n ≤ st.records.length := Nat.le_of_succ_le hn
    have hmax : max (max k n) (n + 1) = max k (n + 1) := by omega
    rw [afterDrops_succ, ← hmax]
    exact freeBase_cursor (afterDrops_records_ne_nil hn) hb (afterDrops_base hn') (ih hn') (by omega) (by omega)

theorem afterDrops_freeWords (st : Store) (n : Nat) :
    (st.afterDrops n).freeWords = 8192 - ((st.records.drop n).map fun r => r.words.length).sum := by
  rw [Store.freeWords, Store.used, afterDrops_records]
  rfl

theorem afterDrops_required (st : Store) (len n : Nat) :
    (st.afterDrops n).required len = len + 1 + if 0 < n then 1 else 0 := by
  rw [Store.required, afterDrops_eventDrops]

/-- The drops stop at a count before which each was due (R136). -/
theorem dropWhile_afterDrops (st : Store) (len fuel n : Nat) :
    ∃ m ≤ n + fuel, Store.dropWhile len fuel (st.afterDrops n) = st.afterDrops m
      ∧ ∀ e, n ≤ e → e < m → (st.afterDrops e).freeWords < (st.afterDrops e).required len := by
  induction fuel generalizing n with
  | zero => exact ⟨n, Nat.le_refl _, rfl, fun e hne hen => absurd hen (Nat.not_lt.2 hne)⟩
  | succ fuel ih =>
    rw [Store.dropWhile]
    split
    case isTrue hshort =>
      obtain ⟨m, hm, hstop, hdue⟩ := ih (n + 1)
      refine ⟨m, by omega, afterDrops_succ st n ▸ hstop, fun e hne hem => ?_⟩
      rcases Nat.eq_or_lt_of_le hne with rfl | hlt
      · exact hshort
      · exact hdue e hlt hem
    case isFalse => exact ⟨n, Nat.le_add_right _ _, rfl, fun e hne hen => absurd hen (Nat.not_lt.2 hne)⟩

/-- Room is made by the least count of drops that leaves the required length free (R136). -/
theorem makeRoom_least (hself : StoreSelfLawful st) (hlen : len ≤ 60) :
    ∃ n ≤ st.records.length, st.makeRoom len = st.afterDrops n
      ∧ (st.afterDrops n).required len ≤ (st.afterDrops n).freeWords
      ∧ ∀ e < n, (st.afterDrops e).freeWords < (st.afterDrops e).required len := by
  obtain ⟨n, hn, hroom, hdue⟩ := dropWhile_afterDrops st len st.records.length 0
  obtain ⟨-, -, hfits⟩ := dropWhile_ok len hlen st.records.length (st.afterDrops 0) hself (Nat.le_refl _)
  exact ⟨n, by omega, hroom, hroom ▸ hfits, fun e => hdue e (Nat.zero_le e)⟩

end Drops
end Sys2Proof.Machine

/-! # Family 08: the storing event -/

namespace Sys2Proof.Machine

section StoringEvent

variable {s : State} {h : Header} {pause n : Nat} {columns : List Word}

theorem StoreLaw.droppedTotal_le (hlaw : StoreLaw s) : s.store.droppedTotal ≤ 65535 := by
  obtain ⟨-, -, -, -, -, -, -, -, htotal, -⟩ := hlaw
  exact htotal

theorem raiseAllIf_get (c : Bool) (k : AlertKind) (s : State) (q : Port) :
    (raiseAllIf c k s).ports.get q =
      if c then portRaised (s.settings.masks.get q) k (s.ports.get q) else s.ports.get q := by
  cases c
  · rfl
  · exact raiseAll_get k s q

/-- The record as it is written after `drops` drops (R128, R136, R177). -/
def finishedRecord (h : Header) (pause drops : Nat) (columns : List Word) : StoredRecord :=
  { sequence := h.sequence
    words := withCheckWord (recordBody { h with dropsFlag := decide (0 < drops) } pause drops columns) }

/-- A body as handed over is 52 words and a pause word at the most (R177). -/
theorem recordBody_length_le (hclear : h.dropsFlag = false) (hcolumns : columns.length ≤ 36) :
    (recordBody h pause 0 columns).length ≤ 60 := by
  rw [body_len, hclear]
  split <;> simp <;> omega

/-- The drop count word and the check word make the required length (R136). -/
theorem finishedRecord_length (hclear : h.dropsFlag = false) :
    (finishedRecord h pause n columns).words.length =
      (recordBody h pause 0 columns).length + 1 + if 0 < n then 1 else 0 := by
  simp only [finishedRecord, withCheckWord, List.length_append, List.length_singleton, body_len, hclear,
    decide_eq_true_eq, Bool.false_eq_true, if_false]
  omega

theorem storeRecord_header (hroom : s.store.makeRoom (recordBody h pause 0 columns).length = s.store.afterDrops n) :
    (storeRecord h pause columns s).2 = { h with dropsFlag := decide (0 < n) } := by
  simp only [storeRecord, hroom, afterDrops_eventDrops]

theorem storeRecord_store (hroom : s.store.makeRoom (recordBody h pause 0 columns).length = s.store.afterDrops n) :
    (storeRecord h pause columns s).1.store =
      (s.store.afterDrops n).push (finishedRecord h pause n columns) := by
  simp only [storeRecord, hroom, afterDrops_eventDrops, raiseAllIf_frame, State.withStore_store, finishedRecord]

/-- RECORDS_DROPPED first, then STORE_NEAR_FULL, each where it is due (R136, R137). -/
theorem storeRecord_port (hroom : s.store.makeRoom (recordBody h pause 0 columns).length = s.store.afterDrops n)
    (q : Port) :
    let dropped := if 0 < n then portRaised (s.settings.masks.get q) .recordsDropped (s.ports.get q) else s.ports.get q
    (storeRecord h pause columns s).1.ports.get q =
      if s.store.used < 6144 ∧ 6144 ≤ (storeRecord h pause columns s).1.store.used then
        portRaised (s.settings.masks.get q) .storeNearFull dropped
      else dropped := by
  rw [storeRecord_store hroom]
  simp only [storeRecord, hroom, afterDrops_eventDrops, raiseAllIf_get, raiseAllIf_frame, State.withStore_ports,
    State.withStore_settings, decide_eq_true_eq, Bool.and_eq_true, finishedRecord]
  rfl

theorem changesOnly_storeRecord (h : Header) (pause : Nat) (columns : List Word) (s : State) :
    changesOnly [.store, .ports] s (storeRecord h pause columns s).1 :=
  changesOnly_of fun part => by cases part <;> simp [Part.kept]

/-- Settles O41: the store as the drops and the written record leave it, the ports by the two alerts. -/
theorem storing : Obligations.Storing := by
  intro s h pause columns hlaw hclear hcolumns _ size len required t
  obtain ⟨hself, -, -⟩ := StoreLaw_iff.1 hlaw
  obtain ⟨drops, hdrops, hroom, hfits, hdue⟩ :=
    makeRoom_least hself (recordBody_length_le (pause := pause) hclear hcolumns)
  obtain ⟨-, hslot⟩ := afterDrops_frame s.store drops
  have hstore : t.store = (s.store.afterDrops drops).push (finishedRecord h pause drops columns) := storeRecord_store hroom
  simp only [afterDrops_freeWords, afterDrops_required] at hfits hdue
  refine ⟨drops, hdrops, hfits, hdue, storeRecord_header hroom,
    ⟨_, ?_, rfl, finishedRecord_length hclear⟩, by rw [hstore]; rfl, ?_, fun k hk hcursor => ?_, ?_, by rw [hstore]; rfl, ?_,
    storeRecord_port hroom, changesOnly_storeRecord h pause columns s⟩
  all_goals rw [hstore]
  · exact congrArg (· ++ [finishedRecord h pause drops columns]) (afterDrops_records s.store drops)
  · exact afterDrops_base hdrops
  · exact afterDrops_cursor hlaw.base_range hlaw.length_le hk hcursor hdrops
  · exact afterDrops_droppedTotal hlaw.droppedTotal_le drops
  · exact hslot

end StoringEvent
end Sys2Proof.Machine

/-! # Family 09: the take of a WRITE

The tables its checks read, then its answers in the order of the checks. -/

namespace Sys2Proof.Machine

section WriteTables

variable {p : Port} {st : Setting} {t : Settings} {v : Word}

/-- Whether a station may write a setting, by the setting's group (9.1, R147). -/
def mayPost (p : Port) (st : Setting) : Prop :=
  match st with
  | .alertMask q => p = q
  | _ =>
    match st.group with
    | 1 | 4 | 6 => p = .m ∨ p = .l
    | 2 | 5 | 7 => p = .m ∨ p = .r
    | 3 => p ≠ .d
    | 8 => p = .m ∨ p = .d
    | _ => p = .m

theorem mayWrite_zone_iff (p : Port) (k : Fin 12) (i : ZoneItem) : mayWrite p (.zone k i) = true ↔ mayPost p (.zone k i) := by
  rw [mayWrite, mayWriteZone_iff]
  rcases lt_or_ge k.val 4 with hmain | hmain
  · cases p <;> simp [mayPost, Setting.group, hmain]; omega
  · rcases lt_or_ge k.val 8 with hleft | hleft
    · cases p <;> simp [mayPost, Setting.group, not_lt.2 hmain, hleft]
    · cases p <;> simp [mayPost, Setting.group, not_lt.2 hmain, not_lt.2 hleft, hleft]

theorem mayWrite_iff : mayWrite p st = true ↔ mayPost p st := by
  cases st with
  | zone k i => exact mayWrite_zone_iff p k i
  | side sd _ => cases sd <;> exact Bool.or_eq_true_iff.trans (or_congr decide_eq_true_iff decide_eq_true_iff)
  | drive d _ => cases d <;> exact Bool.or_eq_true_iff.trans (or_congr decide_eq_true_iff decide_eq_true_iff)
  | alertMask _ | record _ | calibration _ _ | machineMode | writtenCapacity | reserve | busVoltage | calLock | guardMask
  | travelPulse | radarPulse => simp [mayWrite, mayPost, Setting.group]

theorem guarded_iff {guard : Word} :
    guarded guard p st = true ↔ p ≠ .m ∧ 1 ≤ st.group ∧ st.group ≤ 8 ∧ guard.getLsbD st.group = true := by
  simp [guarded, and_assoc]

theorem lockedOut_iff :
    lockedOut t st v = true ↔ t.calLock = true ∧ (st.group = 9 ∨ st = .calLock ∧ v = 0#16) := by
  simp [lockedOut]

theorem zoneItem_index_le (i : ZoneItem) : i.index ≤ 3 := by cases i <;> decide

/-- The group of an item number (9.1, R176). -/
def groupOfNumber (n : Nat) : Nat :=
  if n ≤ 8 then 0 else if n = 10 then 10 else if n ≤ 23 then 1 else if n ≤ 39 then 2 else if n ≤ 63 then 3
  else if n ≤ 79 then 4 else if n ≤ 95 then 5 else if n ≤ 109 then 6 else if n ≤ 125 then 7 else if n ≤ 131 then 8
  else 9

theorem groupOfNumber_zone {k i : Nat} (hk : k < 12) (hi : i ≤ 3) :
    groupOfNumber (48 + 4 * k + i) = if k < 4 then 3 else if k < 8 then 4 else 5 := by
  unfold groupOfNumber
  split_ifs <;> omega

theorem groupOfNumber_of_gt {n : Nat} (h : 131 < n) : groupOfNumber n = 9 := by
  unfold groupOfNumber
  split_ifs <;> omega

/-- Each setting's group goes by its item number alone (9.1). -/
theorem group_eq (st : Setting) : st.group = groupOfNumber st.number := by
  cases st with
  | zone k i => exact (groupOfNumber_zone k.isLt (zoneItem_index_le i)).symm
  | alertMask p => cases p <;> rfl
  | side sd i => cases sd <;> cases i <;> rfl
  | drive d i => cases d <;> cases i <;> rfl
  | record i => cases i <;> rfl
  | calibration c i => exact (groupOfNumber_of_gt (by simp only [Setting.number]; omega)).symm
  | machineMode | writtenCapacity | reserve | busVoltage | calLock | guardMask | travelPulse | radarPulse => rfl

theorem mode_ofCode?_isSome (n : Nat) : (Mode.ofCode? n).isSome = true ↔ n ≤ 2 := by
  rcases n with _ | _ | _ | n <;> simp [Mode.ofCode?]

theorem refMode_ofCode?_isSome (n : Nat) : (RefMode.ofCode? n).isSome = true ↔ n ≤ 2 := by
  rcases n with _ | _ | _ | n <;> simp [RefMode.ofCode?]

theorem request_ofCode?_isSome (n : Nat) : (FeedRequest.ofCode? n).isSome = true ↔ n ≤ 2 := by
  rcases n with _ | _ | _ | n <;> simp [FeedRequest.ofCode?]

/-- A word outside a mask: each of its bits is clear in the mask. -/
theorem and_mask_eq_zero_iff (v mask : Word) :
    v &&& mask = 0#16 ↔ ∀ b, v.getLsbD b = true → mask.getLsbD b = false := by
  constructor
  · intro h b hb
    have hbit := congrArg (·.getLsbD b) h
    simpa [hb] using hbit
  · intro h
    refine BitVec.eq_of_getLsbD_eq fun b _ => ?_
    cases hb : v.getLsbD b with
    | false => simp [hb]
    | true => simp [h b hb]

/-- The groups a guard mask can close are 1 to 8 (R148). -/
theorem guardBit_iff {b : Nat} (hb : v.getLsbD b = true) : (0xFE01#16).getLsbD b = false ↔ 1 ≤ b ∧ b ≤ 8 := by
  have hlt := BitVec.lt_of_getLsbD hb
  clear hb
  revert b
  decide

/-- The heads a side can use stand in bits 0 to 3 (3.1). -/
theorem headBit_iff {b : Nat} (hb : v.getLsbD b = true) : (0xFFF0#16).getLsbD b = false ↔ b ≤ 3 := by
  have hlt := BitVec.lt_of_getLsbD hb
  clear hb
  revert b
  decide

theorem defined_guardMask_iff : Setting.guardMask.defined v = true ↔ ∀ b, v.getLsbD b = true → 1 ≤ b ∧ b ≤ 8 := by
  simp only [Setting.defined, decide_eq_true_eq, and_mask_eq_zero_iff]
  exact forall₂_congr fun _ hb => guardBit_iff hb

theorem defined_heads_iff (sd : Side) :
    (Setting.side sd .heads).defined v = true ↔ v ≠ 0#16 ∧ ∀ b, v.getLsbD b = true → b ≤ 3 := by
  simp only [Setting.defined, Bool.and_eq_true, bne_iff_ne, decide_eq_true_eq, and_mask_eq_zero_iff]
  exact and_congr_right fun _ => forall₂_congr fun _ hb => headBit_iff hb

theorem clampValue_of_range_none (h : st.range t = none) : clampValue t st v = (v, false) := by
  simp only [clampValue, h]

theorem ne_clampInt_iff {lo hi x : Int} : (x != clampInt lo hi x) = decide (x < lo ∨ hi < x) := by
  rw [Bool.eq_iff_iff, bne_iff_ne, decide_eq_true_iff]
  unfold clampInt
  split_ifs <;> omega

/-- R150's clamp: the nearer bound of the range, and the mark that it took effect. -/
theorem clampValue_of_range {lo hi : Int} (h : st.range t = some (lo, hi)) :
    clampValue t st v =
      (BitVec.ofInt 16 (clampInt lo hi (rawNumber (lo, hi) v)),
        decide (rawNumber (lo, hi) v < lo ∨ hi < rawNumber (lo, hi) v)) := by
  simp only [clampValue, h, ne_clampInt_iff]

end WriteTables

section WriteTake

variable {s : State} {p : Port} {st : Setting} {item : Byte} {v : Word} {a : Answer} {e : PostEntry}

theorem judgeWrite_notAllowed (h : ¬mayWrite p st = true) :
    judgeWrite s p st v = ({ code := .notAllowed, data := [] }, none) := by
  simp [judgeWrite, h]

theorem judgeWrite_guarded (hmay : mayWrite p st = true) (h : guarded s.settings.guard p st = true) :
    judgeWrite s p st v = ({ code := .guarded, data := [] }, none) := by
  simp [judgeWrite, hmay, h]

section Unguarded

variable (hmay : mayWrite p st = true) (hguard : ¬guarded s.settings.guard p st = true)
include hmay hguard

theorem judgeWrite_locked (h : lockedOut s.settings st v = true) :
    judgeWrite s p st v = ({ code := .locked, data := [] }, none) := by
  simp [judgeWrite, hmay, hguard, h]

variable (hlock : ¬lockedOut s.settings st v = true)
include hlock

theorem judgeWrite_refused (h : st.defined v = false) :
    judgeWrite s p st v = ({ code := .refused, data := [] }, none) := by
  simp [judgeWrite, hmay, hguard, hlock, h]

theorem judgeWrite_full (hdef : st.defined v = true) (h : 4 ≤ (s.ports.get p).queue.length) :
    judgeWrite s p st v = ({ code := .full, data := [] }, none) := by
  simp [judgeWrite, hmay, hguard, hlock, hdef, h]

/-- A WRITE that passes every check posts its clamped value (R150, R152). -/
theorem judgeWrite_posts (hdef : st.defined v = true) (h : ¬4 ≤ (s.ports.get p).queue.length) :
    judgeWrite s p st v =
      ({ code := if (clampValue s.settings st v).2 then .clamped else .accepted
         data := wordBytes (clampValue s.settings st v).1 },
        some { item := st, value := (clampValue s.settings st v).1, clamped := (clampValue s.settings st v).2
               due := s.now + Config.exchangeTail s.free + 200 }) := by
  simp only [judgeWrite, hmay, hguard, hlock, hdef, h, Bool.not_true, Bool.false_eq_true, if_false]
  rfl

end Unguarded

/-- The take of the request changes nothing that the checks look at. -/
theorem judgeWrite_taken : judgeWrite (takeRequest p s) p st v = judgeWrite s p st v := by
  simp [judgeWrite, takeRequest_port_self]

theorem exec_write_noItem (hitem : settingAt (itemNumber s p item) = none)
    (hstatus : statusAt (takeRequest p s) (itemNumber s p item) = none) :
    exec (.write p item v) s = .next (answerCode p .noItem (takeRequest p s)) := by
  simp only [exec, execWrite, hitem, hstatus]
  rfl

/-- A status item is in no station's group (R147). -/
theorem exec_write_status (hitem : settingAt (itemNumber s p item) = none)
    (hstatus : statusAt (takeRequest p s) (itemNumber s p item) ≠ none) :
    exec (.write p item v) s = .next (answerCode p .notAllowed (takeRequest p s)) := by
  simp only [exec, execWrite, hitem, Option.isSome_iff_ne_none.2 hstatus, if_true]

theorem exec_write_answered (hitem : settingAt (itemNumber s p item) = some st)
    (hjudged : judgeWrite s p st v = (a, none)) :
    exec (.write p item v) s = .next (answer p a (takeRequest p s)) := by
  simp only [exec, execWrite, hitem, judgeWrite_taken, hjudged]

theorem exec_write_posted (hitem : settingAt (itemNumber s p item) = some st)
    (hjudged : judgeWrite s p st v = (a, some e)) :
    exec (.write p item v) s = .next (answer p a (postEntry p e (takeRequest p s))) := by
  simp only [exec, execWrite, hitem, judgeWrite_taken, hjudged]

theorem answer_postEntry_ports :
    (answer p a (postEntry p e (takeRequest p s))).ports =
      s.ports.set p { portAnswered s p a with queue := (s.ports.get p).queue ++ [e] } := by
  rw [answer_ports, postEntry_ports, PerPort.set_set', PerPort.get_set_self, takeRequest_port_self]
  refine PerPort.ext_get _ _ fun q => ?_
  by_cases hq : q = p
  · subst hq; simp [portAnswered]
  · rw [PerPort.get_set_ne _ _ _ _ hq, PerPort.get_set_ne _ _ _ _ hq, takeRequest_port_other hq]

theorem changesOnly_answer_postEntry :
    changesOnly [.ports, .free] s (answer p a (postEntry p e (takeRequest p s))) :=
  changesOnly_of fun part => by cases part <;> simp [Part.kept]

/-- Settles O44: each answer by the check that gives it, then the tables the checks read. -/
theorem write : Obligations.Write := by
  refine ⟨fun s p item value => ?_, fun st v => ?_, fun t st => ?_, group_eq⟩
  · intro number answers allowed guarded' locked full
    have turnedAway {code : AnswerCode}
        (hx : exec (.write p item value) s = .next (answerCode p code (takeRequest p s))) : answers code := by
      obtain ⟨t, ⟨hx, hanswer⟩, hframe⟩ := answered_taken hx
      exact ⟨t, hx, hanswer, hframe⟩
    refine ⟨fun hitem hstatus => turnedAway (exec_write_noItem hitem hstatus),
      fun hitem hstatus => turnedAway (exec_write_status hitem hstatus), fun st hitem => ?_⟩
    have hmay : mayWrite p st = true ↔ allowed st := mayWrite_iff
    have hguard : guarded s.settings.guard p st = true ↔ guarded' st := guarded_iff
    have hlock : lockedOut s.settings st value = true ↔ locked st := lockedOut_iff
    simp only [← hmay, ← hguard, ← hlock]
    have fails {code : AnswerCode} (hjudged : judgeWrite s p st value = ({ code := code, data := [] }, none)) :
        answers code := turnedAway (exec_write_answered hitem hjudged)
    refine ⟨fun h => fails (judgeWrite_notAllowed h),
      fun hallowed h => fails (judgeWrite_guarded hallowed h),
      fun hallowed hopen h => fails (judgeWrite_locked hallowed hopen h),
      fun hallowed hopen hfree h => fails (judgeWrite_refused hallowed hopen hfree h),
      fun hallowed hopen hfree hdef h => fails (judgeWrite_full hallowed hopen hfree hdef h),
      fun hallowed hopen hfree hdef hroom =>
        ⟨_, _, _, exec_write_posted hitem (judgeWrite_posts hallowed hopen hfree hdef hroom), fun hrange => ?_,
          fun lo hi hrange => ?_, answer_postEntry_ports, rfl, changesOnly_answer_postEntry⟩⟩
    · rw [clampValue_of_range_none hrange]
      exact ⟨rfl, rfl⟩
    · rw [clampValue_of_range hrange]
      exact ⟨rfl, rfl⟩
  · cases st with
    | machineMode => exact mode_ofCode?_isSome _
    | guardMask => exact defined_guardMask_iff
    | calLock => exact decide_eq_true_iff
    | side sd i =>
      cases i with
      | refMode => exact refMode_ofCode?_isSome _
      | heads => exact defined_heads_iff sd
      | _ => exact iff_of_true rfl trivial
    | zone k i =>
      cases i with
      | enable => exact decide_eq_true_iff
      | _ => exact iff_of_true rfl trivial
    | drive d i =>
      cases i with
      | request => exact request_ofCode?_isSome _
      | _ => exact iff_of_true rfl trivial
    | _ => exact iff_of_true rfl trivial
  · cases st with
    | side sd i => cases i <;> rfl
    | zone k i => cases i <;> rfl
    | drive d i => cases i <;> rfl
    | record i => cases i <;> rfl
    | calibration c i => cases i <;> rfl
    | _ => rfl

end WriteTake
end Sys2Proof.Machine

/-! # Family 09: what a stored value reads back, and the application of an entry -/

namespace Sys2Proof.Machine

section ReadBack

variable {table : Settings} {st other : Setting} {v : Word} {sd : Side}

/-- A defined code of each kind is the code of the value it names (R176). -/
theorem mode_code_ofCode {n : Nat} (h : (Mode.ofCode? n).isSome = true) (m : Mode) :
    ((Mode.ofCode? n).getD m).code = n := by
  rcases n with _ | _ | _ | n <;> first | rfl | exact absurd h Bool.false_ne_true

theorem refMode_code_ofCode {n : Nat} (h : (RefMode.ofCode? n).isSome = true) (m : RefMode) :
    ((RefMode.ofCode? n).getD m).code = n := by
  rcases n with _ | _ | _ | n <;> first | rfl | exact absurd h Bool.false_ne_true

theorem request_code_ofCode {n : Nat} (h : (FeedRequest.ofCode? n).isSome = true) (r : FeedRequest) :
    ((FeedRequest.ofCode? n).getD r).code = n := by
  rcases n with _ | _ | _ | n <;> first | rfl | exact absurd h Bool.false_ne_true

theorem ofNat_word_toNat (v : Word) : BitVec.ofNat 16 v.toNat = v := by simp

theorem boolCode_word (h : v.toNat ≤ 1) : BitVec.ofNat 16 (boolCode (v != 0#16)) = v := by
  have hcases : v = 0#16 ∨ v = 1#16 := by bv_omega
  rcases hcases with rfl | rfl <;> rfl

theorem heads_word (h : ∀ b, v.getLsbD b = true → b ≤ 3) : (v.setWidth 4).setWidth 16 = v := by
  refine BitVec.eq_of_getLsbD_eq fun b hb => ?_
  cases hbit : v.getLsbD b with
  | false => simp [BitVec.getLsbD_setWidth, hbit]
  | true => simp [hbit, hb, Nat.lt_succ_of_le (h b hbit)]

/-! ### The items of one unit -/

theorem side_read_write (c : SideSettings) {i : SideItem} (hdef : (Setting.side sd i).defined v = true)
    (hi : i ≠ .maxDuty) : (c.write i v).read i = v := by
  cases i with
  | refMode => exact (congrArg _ (refMode_code_ofCode hdef c.refMode)).trans (ofNat_word_toNat v)
  | heads =>
    obtain ⟨-, hheads⟩ := (defined_heads_iff sd).1 hdef
    exact heads_word hheads
  | offset | slopeTarget => exact BitVec.ofInt_toInt
  | deadBand | propBand | minDuty => exact ofNat_word_toNat v
  | maxDuty => exact absurd rfl hi

theorem side_read_write_other (c : SideSettings) {i j : SideItem} (hj : j ≠ i) (hpair : i = .minDuty → j ≠ .maxDuty) :
    (c.write i v).read j = c.read j := by
  cases i <;> cases j <;> first | rfl | exact absurd rfl hj | exact absurd rfl (hpair rfl)

theorem zone_read_write (c : ZoneSettings) {k : Fin 12} {i : ZoneItem} (hdef : (Setting.zone k i).defined v = true) :
    (c.write i v).read i = v := by
  cases i with
  | enable => exact boolCode_word (decide_eq_true_iff.1 hdef)
  | setpoint | band | rated => exact ofNat_word_toNat v

theorem zone_read_write_other (c : ZoneSettings) {i j : ZoneItem} (hj : j ≠ i) : (c.write i v).read j = c.read j := by
  cases i <;> cases j <;> first | rfl | exact absurd rfl hj

theorem drive_read_write (c : DriveSettings) {d : Drive} {i : DriveItem} (hdef : (Setting.drive d i).defined v = true) :
    (c.write i v).read i = v := by
  cases i with
  | request => exact (congrArg _ (request_code_ofCode hdef c.request)).trans (ofNat_word_toNat v)
  | manual | target | ratio | gain | currentLimit | rampStep => exact ofNat_word_toNat v

theorem drive_read_write_other (c : DriveSettings) {i j : DriveItem} (hj : j ≠ i) : (c.write i v).read j = c.read j := by
  cases i <;> cases j <;> first | rfl | exact absurd rfl hj

theorem record_read_write (c : RecordSettings) (i : RecordItem) : (c.write i v).read i = v := by
  cases i with
  | origin => exact BitVec.ofInt_toInt
  | stepLength | coldLimit | pitch => exact ofNat_word_toNat v

theorem record_read_write_other (c : RecordSettings) {i j : RecordItem} (hj : j ≠ i) :
    (c.write i v).read j = c.read j := by
  cases i <;> cases j <;> first | rfl | exact absurd rfl hj

theorem calibration_read_write (c : Calibration) (i : CalItem) : (c.write i v).read i = v := by
  cases i with
  | zeroValue | fullValue => exact BitVec.ofInt_toInt
  | zeroCount | fullCount => exact ofNat_word_toNat v

theorem calibration_read_write_other (c : Calibration) {i j : CalItem} (hj : j ≠ i) :
    (c.write i v).read j = c.read j := by
  cases i <;> cases j <;> first | rfl | exact absurd rfl hj

/-! ### The whole table -/

/-- A SET calibration lock stays SET (R149). -/
theorem read_write_calLock (hdef : Setting.calLock.defined v = true) :
    (table.write .calLock v).read .calLock = if table.calLock then 1#16 else v := by
  cases hlock : table.calLock with
  | true => simp [Settings.write, Settings.read, hlock, boolCode]
  | false =>
    simp only [Settings.write, Settings.read, hlock, Bool.false_or]
    exact boolCode_word (decide_eq_true_iff.1 hdef)

/-- A maxDuty is kept at or above minDuty (R36). -/
theorem read_write_maxDuty :
    (table.write (.side sd .maxDuty) v).read (.side sd .maxDuty) =
      BitVec.ofNat 16 (max v.toNat (table.sides.get sd).minDuty) := by
  simp only [Settings.write, Settings.read, PerSide.get_set_self]
  rfl

/-- A minDuty raises a smaller maxDuty (R36). -/
theorem read_maxDuty_write_minDuty :
    (table.write (.side sd .minDuty) v).read (.side sd .maxDuty) =
      BitVec.ofNat 16 (max (table.sides.get sd).maxDuty v.toNat) := by
  simp only [Settings.write, Settings.read, PerSide.get_set_self]
  rfl

theorem read_write_self (hdef : st.defined v = true) (hlock : st ≠ .calLock) (hmax : ∀ sd, st ≠ .side sd .maxDuty) :
    (table.write st v).read st = v := by
  cases st with
  | machineMode => exact (congrArg _ (mode_code_ofCode hdef table.mode)).trans (ofNat_word_toNat v)
  | calLock => exact absurd rfl hlock
  | guardMask => rfl
  | alertMask p => exact PerPort.get_set_self _ _ _
  | side sd i =>
    simp only [Settings.write, Settings.read, PerSide.get_set_self]
    exact side_read_write _ hdef fun hi => hmax sd (hi ▸ rfl)
  | zone k i =>
    simp only [Settings.write, Settings.read, Fin.getElem_fin, Vector.getElem_set_self]
    exact zone_read_write _ hdef
  | drive d i =>
    simp only [Settings.write, Settings.read, PerDrive.get_set_self]
    exact drive_read_write _ hdef
  | record i => exact record_read_write _ i
  | calibration c i =>
    simp only [Settings.write, Settings.read, Fin.getElem_fin, Vector.getElem_set_self]
    exact calibration_read_write _ i
  | writtenCapacity | reserve | busVoltage | travelPulse | radarPulse => exact ofNat_word_toNat v

theorem read_write_alertMask {p : Port} (hne : other ≠ .alertMask p) :
    (table.write (.alertMask p) v).read other = table.read other := by
  cases other with
  | alertMask q => exact PerPort.get_set_ne _ _ _ _ fun h => hne (h ▸ rfl)
  | _ => rfl

theorem read_write_side {i : SideItem} (hne : other ≠ .side sd i) (hpair : i = .minDuty → other ≠ .side sd .maxDuty) :
    (table.write (.side sd i) v).read other = table.read other := by
  cases other with
  | side sd' j =>
    simp only [Settings.write, Settings.read, PerSide.get_set]
    split
    · rename_i h
      subst h
      exact side_read_write_other _ (fun h => hne (h ▸ rfl)) fun hi h => hpair hi (h ▸ rfl)
    · rfl
  | _ => rfl

theorem read_write_zone {k : Fin 12} {i : ZoneItem} (hne : other ≠ .zone k i) :
    (table.write (.zone k i) v).read other = table.read other := by
  cases other with
  | zone k' j =>
    simp only [Settings.write, Settings.read, Fin.getElem_fin, Vector.getElem_set]
    split
    · rename_i h
      obtain rfl := Fin.ext h
      exact zone_read_write_other _ fun h => hne (h ▸ rfl)
    · rfl
  | _ => rfl

theorem read_write_drive {d : Drive} {i : DriveItem} (hne : other ≠ .drive d i) :
    (table.write (.drive d i) v).read other = table.read other := by
  cases other with
  | drive d' j =>
    simp only [Settings.write, Settings.read, PerDrive.get_set]
    split
    · rename_i h
      subst h
      exact drive_read_write_other _ fun h => hne (h ▸ rfl)
    · rfl
  | _ => rfl

theorem read_write_record {i : RecordItem} (hne : other ≠ .record i) :
    (table.write (.record i) v).read other = table.read other := by
  cases other with
  | record j => exact record_read_write_other _ fun h => hne (h ▸ rfl)
  | _ => rfl

theorem read_write_calibration {c : Fin 31} {i : CalItem} (hne : other ≠ .calibration c i) :
    (table.write (.calibration c i) v).read other = table.read other := by
  cases other with
  | calibration c' j =>
    simp only [Settings.write, Settings.read, Fin.getElem_fin, Vector.getElem_set]
    split
    · rename_i h
      obtain rfl := Fin.ext h
      exact calibration_read_write_other _ fun h => hne (h ▸ rfl)
    · rfl
  | _ => rfl

/-- No other item changes, but the maxDuty that a minDuty raises (R36, R153). -/
theorem read_write_other (hne : other ≠ st) (hpair : ∀ sd, st = .side sd .minDuty → other ≠ .side sd .maxDuty) :
    (table.write st v).read other = table.read other := by
  cases st with
  | alertMask p => exact read_write_alertMask hne
  | side sd i => exact read_write_side hne fun hi => hpair sd (hi ▸ rfl)
  | zone k i => exact read_write_zone hne
  | drive d i => exact read_write_drive hne
  | record i => exact read_write_record hne
  | calibration c i => exact read_write_calibration hne
  | machineMode | writtenCapacity | reserve | busVoltage | calLock | guardMask | travelPulse | radarPulse =>
    cases other <;> first | rfl | exact absurd rfl hne

end ReadBack
end Sys2Proof.Machine

/-! # Family 09: the application of an entry -/

namespace Sys2Proof.Machine

section Application

variable {s u v : State} {p q owner : Port} {e : PostEntry} {rest : List PostEntry} {st : Setting} {w : Word}

/-- R154's check fails: a reference mode SLOPE while the other side holds SLOPE. -/
def slopeHeld (t : Settings) (e : PostEntry) : Prop :=
  ∃ sd, e.item = .side sd .refMode ∧ e.value = BitVec.ofNat 16 RefMode.slope.code
    ∧ (t.sides.get (match sd with
        | .left => .right
        | .right => .left)).refMode = .slope

theorem eq_slopeCode_iff : w = BitVec.ofNat 16 RefMode.slope.code ↔ w.toNat = RefMode.slope.code :=
  ⟨fun h => h ▸ rfl, fun h => BitVec.eq_of_toNat_eq h⟩

theorem applicationPasses_iff {t : Settings} : applicationPasses t e = true ↔ ¬slopeHeld t e := by
  unfold applicationPasses slopeHeld
  split
  · rename_i hitem
    simp [hitem, eq_slopeCode_iff, PerSide.get, imp_iff_not_or]
  · rename_i hitem
    simp [hitem, eq_slopeCode_iff, PerSide.get, imp_iff_not_or]
  · rename_i hleft hright
    refine iff_of_true rfl fun ⟨sd, hitem, _⟩ => ?_
    cases sd with
    | left => exact hleft hitem
    | right => exact hright hitem

/-! ### The state the entry is stored in -/

theorem popped_now : (s.popped p e rest).now = max s.now (max e.due (s.ports.get p).applyAfter) := by
  simp [State.popped, State.reach]

theorem popped_port_self :
    (s.popped p e rest).ports.get p =
      { s.ports.get p with queue := rest, applyAfter := (s.popped p e rest).now + 200 } := by
  simp only [State.popped, popEntry, State.modifyPort, State.withPorts_ports, PerPort.get_set_self]
  rfl

theorem storeSetting_settings (v : State) : (storeSetting st w v).settings = v.settings.write st w := by
  simp [storeSetting]

theorem write_masks {t : Settings} (h : ∀ q, st ≠ .alertMask q) : (t.write st w).masks = t.masks := by
  cases st with
  | alertMask q => exact absurd rfl (h q)
  | _ => rfl

/-! ### A rejected entry (R154) -/

theorem rejectEntry_popped_ports :
    (rejectEntry p e (s.popped p e rest)).ports =
      s.ports.set p
        (portRaised (s.settings.masks.get p) .settingRejected
          { s.ports.get p with
            queue := rest, applyAfter := (s.popped p e rest).now + 200, lastRejected := some e.item }) := by
  refine PerPort.ext_get _ _ fun q => ?_
  by_cases hq : q = p
  · subst hq
    simp [rejectEntry, raiseOn_get, State.modifyPort, popped_port_self]
  · rw [rejectEntry_port_other hq, popped_port_other hq, PerPort.get_set_ne _ _ _ _ hq]

/-! ### A stored entry (R153) -/

/-- A port whose head entry has been applied, but for its alerts. -/
def PortState.applied (x : PortState) (e : PostEntry) (rest : List PostEntry) (now : Nat) : PortState :=
  { x with queue := rest, applyAfter := now + 200, lastApplied := some e.item, lastClamped := e.clamped }

/-- The state an application ends in that passes its check (R153). -/
def State.entryApplied (s : State) (p : Port) (e : PostEntry) (rest : List PostEntry) : State :=
  (storeSetting e.item e.value (s.popped p e rest)).appliedAt p e

theorem entryApplied_settings : (s.entryApplied p e rest).settings = s.settings.write e.item e.value := by
  simp [State.entryApplied, storeSetting_settings]

theorem entryApplied_now : (s.entryApplied p e rest).now = (s.popped p e rest).now := by
  simp [State.entryApplied]

theorem entryApplied_port_self :
    (s.entryApplied p e rest).ports.get p =
      { (storeSetting e.item e.value (s.popped p e rest)).ports.get p with
        lastApplied := some e.item, lastClamped := e.clamped } := by
  rw [State.entryApplied, appliedAt_ports, if_pos rfl]

theorem entryApplied_port_other (hq : q ≠ p) :
    (s.entryApplied p e rest).ports.get q =
      portRaised ((s.settings.write e.item e.value).masks.get q) .settingChanged
        ((storeSetting e.item e.value (s.popped p e rest)).ports.get q) := by
  have hsettings : (s.popped p e rest).settings = s.settings := by simp
  rw [State.entryApplied, appliedAt_ports, if_neg hq, storeSetting_settings, hsettings]

/-- A port that agrees with another but for its alerts is the other with its own pending set and line. -/
theorem eq_of_quiet_eq {x y : PortState} (h : x.quiet = y.quiet) :
    x = { y with pendingSet := x.pendingSet, line := x.line } := by
  cases x
  cases y
  simp_all [PortState.quiet]

theorem quiet_stored (q : Port) :
    ((storeSetting e.item e.value (s.popped p e rest)).ports.get q).quiet = ((s.popped p e rest).ports.get q).quiet := by
  simp [storeSetting]

theorem entryApplied_quiet_self :
    ((s.entryApplied p e rest).ports.get p).quiet =
      ((s.ports.get p).applied e rest (s.entryApplied p e rest).now).quiet := by
  have hstored := quiet_stored (s := s) (p := p) (e := e) (rest := rest) p
  rw [popped_port_self] at hstored
  rw [entryApplied_port_self, entryApplied_now]
  exact congrArg (fun x : PortState => { x with lastApplied := some e.item, lastClamped := e.clamped }) hstored

theorem entryApplied_quiet_other (hq : q ≠ p) :
    ((s.entryApplied p e rest).ports.get q).quiet = (s.ports.get q).quiet := by
  rw [entryApplied_port_other hq, quiet_portRaised, quiet_stored, popped_port_other hq]

theorem portRaised_pending_ne (mask : AlertSet) (k : AlertKind) (x : PortState) :
    (portRaised mask k x).pendingSet &&& alertBit k ≠ 0#16 := by
  intro h
  have hbit : (alertBit k).getLsbD k.bit = true := by cases k <;> rfl
  have hclear := (and_mask_eq_zero_iff _ _).1 h k.bit (pending_portRaised_self mask k x)
  exact Bool.false_ne_true (hclear.symm.trans hbit)

/-- Where storing the value leaves the ports, an application touches them only as R153 says. -/
theorem entryApplied_ports_of_kept
    (h : (storeSetting e.item e.value (s.popped p e rest)).ports = (s.popped p e rest).ports)
    (hmask : ∀ q, e.item ≠ .alertMask q) (q : Port) :
    (s.entryApplied p e rest).ports.get q =
      if q = p then (s.ports.get p).applied e rest (s.entryApplied p e rest).now
      else portRaised (s.settings.masks.get q) .settingChanged (s.ports.get q) := by
  split
  · rename_i hq
    rw [hq, entryApplied_port_self, h, popped_port_self, entryApplied_now]
    rfl
  · rename_i hq
    rw [entryApplied_port_other hq, h, popped_port_other hq, write_masks hmask]

/-! ### Items without a further effect at once -/

/-- The items of which an application stores the value and does nothing more at once (R155). -/
def Setting.storedOnly (st : Setting) : Prop :=
  match st with
  | .machineMode | .writtenCapacity | .alertMask _ | .side _ .refMode | .side _ .minDuty | .side _ .maxDuty
  | .zone _ .enable | .drive _ .request => False
  | _ => True

theorem settingApplied_storedOnly {old : Settings} (h : st.storedOnly) : settingApplied st old v = v := by
  cases st with
  | machineMode | writtenCapacity | alertMask _ => exact h.elim
  | side sd i => cases i <;> first | rfl | exact h.elim
  | zone k i => cases i <;> first | rfl | exact h.elim
  | drive d i => cases i <;> first | rfl | exact h.elim
  | _ => rfl

theorem entryApplied_storedOnly (h : e.item.storedOnly) :
    (∀ q, (s.entryApplied p e rest).ports.get q =
        if q = p then (s.ports.get p).applied e rest (s.entryApplied p e rest).now
        else portRaised (s.settings.masks.get q) .settingChanged (s.ports.get q))
      ∧ changesOnly [.settings, .ports, .now] s (s.entryApplied p e rest) := by
  have hstored : storeSetting e.item e.value (s.popped p e rest) =
      (s.popped p e rest).withSettings ((s.popped p e rest).settings.write e.item e.value) := settingApplied_storedOnly h
  refine ⟨entryApplied_ports_of_kept (by simp [hstored]) fun q hitem => ?_, changesOnly_of fun part => ?_⟩
  · rw [hitem] at h
    exact h
  · rw [State.entryApplied, hstored]
    cases part <;> simp [Part.kept]

/-! ### An alert enable mask (R157) -/

theorem reline_eq (mask : AlertSet) (x : PortState) :
    x.reline mask = { x with line := !x.inService && decide (x.pendingSet &&& mask ≠ 0#16) } := by
  simp only [PortState.reline, lineLevel]
  congr 1
  simp [bne, BEq.beq]

theorem storeSetting_alertMask (owner : Port) (w : Word) (v : State) :
    storeSetting (.alertMask owner) w v =
      (v.withSettings { v.settings with masks := v.settings.masks.set owner w }).modifyPort owner (·.reline w) := by
  simp only [storeSetting, settingApplied, Settings.write, State.withSettings_settings, PerPort.get_set_self]

theorem entryApplied_alertMask (hitem : e.item = .alertMask owner) :
    (∀ q, (s.entryApplied p e rest).ports.get q =
        let taken := (s.ports.get p).applied e rest (s.entryApplied p e rest).now
        if q = p then
          if owner = p then { taken with line := !taken.inService && decide (taken.pendingSet &&& e.value ≠ 0#16) }
          else taken
        else portRaised (if q = owner then e.value else s.settings.masks.get q) .settingChanged (s.ports.get q))
      ∧ changesOnly [.settings, .ports, .now] s (s.entryApplied p e rest) := by
  have hstored := storeSetting_alertMask owner e.value (s.popped p e rest)
  rw [← hitem] at hstored
  refine ⟨fun q => ?_, changesOnly_of fun part => ?_⟩
  · have hport : (storeSetting e.item e.value (s.popped p e rest)).ports.get q =
        if q = owner then ((s.popped p e rest).ports.get q).reline e.value else (s.popped p e rest).ports.get q := by
      rw [hstored, State.modifyPort, State.withPorts_ports, PerPort.get_set]
      split
      · rename_i hq; rw [hq]; rfl
      · rfl
    simp only
    split
    · rename_i hq
      subst hq
      rw [entryApplied_port_self, hport, popped_port_self, reline_eq, ← entryApplied_now]
      by_cases howner : owner = q
      · rw [if_pos howner, if_pos howner.symm]; rfl
      · rw [if_neg howner, if_neg (Ne.symm howner)]; rfl
    · rename_i hq
      have hmask : (s.settings.write e.item e.value).masks.get q = if q = owner then e.value else s.settings.masks.get q := by
        rw [hitem]; exact PerPort.get_set _ _ _ _
      rw [entryApplied_port_other hq, hport, hmask, popped_port_other hq]
      split <;> rfl
  · rw [State.entryApplied, hstored]
    cases part <;> simp [Part.kept]

/-! ### A zone enable (R97) -/

theorem storeSetting_zoneEnable (k : Fin 12) (w : Word) (v : State) :
    storeSetting (.zone k .enable) w v =
      (v.withSettings (v.settings.write (.zone k .enable) w)).withZones
        (if w = 0#16 then v.zones.set k v.zones[k].disable else v.zones) := by
  simp only [storeSetting, settingApplied, Settings.write, ZoneSettings.write, State.withSettings_settings,
    Fin.getElem_fin, Vector.getElem_set_self, bne_iff_ne, ite_not]
  split <;> rfl

theorem set_disable_of_heating {zones : Vector ZoneUnit 12} {k : Fin 12} (h : zones[k].state = .heating) :
    zones.set k zones[k].disable = zones.set k { zones[k] with state := .idle, output := false } := by
  rw [ZoneUnit.disable, if_pos h]

theorem set_disable_of_ne_heating {zones : Vector ZoneUnit 12} {k : Fin 12} (h : zones[k].state ≠ .heating) :
    zones.set k zones[k].disable = zones := by
  rw [ZoneUnit.disable, if_neg h]
  exact Vector.set_getElem_self _

theorem write_zoneEnable (t : Settings) (k : Fin 12) (w : Word) :
    t.write (.zone k .enable) w = { t with zones := t.zones.set k { t.zones[k] with enabled := decide (w ≠ 0#16) } } := by
  have hbool : (w != 0#16) = decide (w ≠ 0#16) := by rw [Bool.eq_iff_iff, bne_iff_ne, decide_eq_true_iff]
  simp only [Settings.write, ZoneSettings.write, hbool]

/-- A cleared enable takes a zone out of HEATING with its output off, and nothing else touches a zone (R97). -/
theorem entryApplied_zoneEnable {k : Fin 12} (hitem : e.item = .zone k .enable) :
    (e.value = 0#16 → s.zones[k].state = .heating →
        (s.entryApplied p e rest).zones = s.zones.set k { s.zones[k] with state := .idle, output := false })
      ∧ (e.value ≠ 0#16 ∨ s.zones[k].state ≠ .heating → (s.entryApplied p e rest).zones = s.zones)
      ∧ (∀ q, (s.entryApplied p e rest).ports.get q =
          if q = p then (s.ports.get p).applied e rest (s.entryApplied p e rest).now
          else portRaised (s.settings.masks.get q) .settingChanged (s.ports.get q))
      ∧ changesOnly [.settings, .zones, .ports, .now] s (s.entryApplied p e rest) := by
  have hstored := storeSetting_zoneEnable k e.value (s.popped p e rest)
  rw [← hitem] at hstored
  have hzones : (s.entryApplied p e rest).zones =
      if e.value = 0#16 then s.zones.set k s.zones[k].disable else s.zones := by
    simp [State.entryApplied, hstored]
  refine ⟨fun hclear hheating => ?_, fun h => ?_, entryApplied_ports_of_kept (by simp [hstored]) (by simp [hitem]),
    changesOnly_of fun part => ?_⟩
  · rw [hzones, if_pos hclear, set_disable_of_heating hheating]
  · rw [hzones]
    split
    · exact set_disable_of_ne_heating (h.resolve_left (not_not.2 ‹_›))
    · rfl
  · rw [State.entryApplied, hstored]
    cases part <;> simp [Part.kept]

/-! ### The application -/

theorem slopeHeld.not_storedOnly {t : Settings} (h : slopeHeld t e) : ¬e.item.storedOnly := by
  obtain ⟨sd, hitem, -⟩ := h
  rw [hitem]
  exact id

/-- Settles O45: a rejected entry by R154's check, a stored one by what storing it does; then the table item by item. -/
theorem applicationOfAnEntry : Obligations.ApplicationOfAnEntry := by
  refine ⟨fun s p e rest hq => ?_, fun table st v hdef =>
    ⟨fun h => h ▸ read_write_calLock (h ▸ hdef), fun sd h => h ▸ read_write_maxDuty, read_write_self hdef,
      fun other hne => ⟨fun sd hst hother => hst ▸ hother ▸ read_maxDuty_write_minDuty, read_write_other hne⟩⟩⟩
  intro fails storedOnly
  by_cases hfails : slopeHeld s.settings e
  · have hside : ∃ sd, e.item = .side sd .refMode := hfails.imp fun _ h => h.1
    refine ⟨_, application_rejects hq fun hpass => applicationPasses_iff.1 hpass hfails, ?_, fun _ => ⟨?_, ?_⟩,
      fun h => absurd hfails h, fun h => absurd h hfails.not_storedOnly, fun owner hitem => absurd hside (by simp [hitem]),
      fun k hitem => absurd hside (by simp [hitem])⟩
    · simp [popped_now]
    · rw [rejectEntry_popped_ports]
      simp
    · exact changesOnly_of fun part => by cases part <;> simp [Part.kept]
  · refine ⟨s.entryApplied p e rest, application_passes hq (applicationPasses_iff.2 hfails),
      entryApplied_now.trans popped_now, fun h => absurd h hfails,
      fun _ => ⟨entryApplied_settings, eq_of_quiet_eq entryApplied_quiet_self, fun q hqp => ⟨?_, ?_, ?_⟩⟩,
      entryApplied_storedOnly, fun owner hitem => ⟨?_, entryApplied_alertMask hitem⟩,
      fun k hitem => ⟨?_, entryApplied_zoneEnable hitem⟩⟩
    · exact eq_of_quiet_eq (entryApplied_quiet_other hqp)
    · rw [entryApplied_port_other hqp]
      exact portRaised_pending_ne _ _ _
    · rw [entryApplied_port_other hqp, entryApplied_settings]
      rfl
    · rw [entryApplied_settings, hitem]
      rfl
    · rw [entryApplied_settings, hitem, write_zoneEnable]

end Application
end Sys2Proof.Machine

/-! # Family 10: the requests of a port for itself, and its absence -/

namespace Sys2Proof.Machine

section OwnPort

variable {s u : State} {p q : Port} {a : Answer} {f : PortState → PortState}

theorem takeRequest_ports_set (x : PortState) : (takeRequest p s).ports.set p x = s.ports.set p x :=
  PerPort.ext_get _ _ fun q => by
    by_cases hq : q = p
    · subst hq; simp
    · rw [PerPort.get_set_ne _ _ _ _ hq, PerPort.get_set_ne _ _ _ _ hq, takeRequest_port_other hq]

/-- A taken request that changes its own port and is answered there. -/
theorem answer_modifyPort_ports (s : State) (p : Port) (a : Answer) (f : PortState → PortState) :
    (answer p a ((takeRequest p s).modifyPort p f)).ports =
      s.ports.set p
        { f { s.ports.get p with page := none, present := true, presenceDue := some (s.now + 100000) } with
          answer := some a } := by
  rw [answer_ports, State.modifyPort, State.withPorts_ports, PerPort.get_set_self, PerPort.set_set', takeRequest_ports_set,
    takeRequest_port_self]

theorem changesOnly_answer_modifyPort (s : State) (p : Port) (a : Answer) (f : PortState → PortState) :
    changesOnly [.ports] s (answer p a ((takeRequest p s).modifyPort p f)) :=
  changesOnly_of fun part => by cases part <;> simp [Part.kept]

/-! ### PAGE and BAD_FRAME -/

theorem exec_page {v : Byte} (h : v.toNat < 4) :
    exec (.page p v) s =
      .next (answerCode p .ok ((takeRequest p s).modifyPort p fun x => { x with page := some ⟨v.toNat, h⟩ })) :=
  congrArg Host.Outcome.next (dif_pos h)

theorem exec_page_refused {v : Byte} (h : 4 ≤ v.toNat) :
    exec (.page p v) s = .next (answerCode p .refused (takeRequest p s)) :=
  congrArg Host.Outcome.next (dif_neg (Nat.not_lt.2 h))

/-- Settles O47: PAGE by its value, BAD_FRAME by whether its check byte passed. -/
theorem pageAndBadFrame : Obligations.PageAndBadFrame := by
  refine ⟨fun s p value => ⟨fun h => ?_, fun h => ?_⟩, fun s p => ⟨?_, ?_⟩⟩
  · exact ⟨_, exec_page h, answer_modifyPort_ports s p _ _, changesOnly_answer_modifyPort s p _ _⟩
  · obtain ⟨hanswer, hframe⟩ := answeredOnly_taken s p { code := .refused, data := [] }
    refine ⟨_, exec_page_refused h, hanswer, ?_, hframe⟩
    rw [answerCode, hanswer, PerPort.get_set_self]
    rfl
  · exact ⟨_, rfl, answer_ports p _ s, changesOnly_of fun part => by cases part <;> simp [Part.kept]⟩
  · refine ⟨_, rfl, ?_, changesOnly_of fun part => by cases part <;> simp [Part.kept]⟩
    simp only [if_true, answerCode, answer_ports, heard, State.modifyPort, State.withPorts_ports, PerPort.get_set_self,
      PerPort.set_set']
    rfl

/-! ### TAKE-ALERTS and ALERT-DONE -/

/-- Settles O48: both requests change their own port alone, its line as R169 gives it. -/
theorem takeAlertsAndAlertDone : Obligations.TakeAlertsAndAlertDone := by
  intro s p u mask
  refine ⟨⟨_, rfl, ?_, changesOnly_answer_modifyPort s p _ _⟩, ⟨_, rfl, ?_, changesOnly_answer_modifyPort s p _ _⟩⟩
  · rw [answer_modifyPort_ports]
    simp only [reline_eq, takeRequest_frame, takeRequest_port_self]
    rfl
  · rw [answerCode, answer_modifyPort_ports]
    simp only [reline_eq, takeRequest_frame, Bool.not_false, Bool.true_and]
    rfl

/-! ### PORT-RESET -/

theorem reset_eq (mask : AlertSet) (x : PortState) :
    x.reset mask =
      { x with
        page := none, queue := [], applyAfter := 0, lastApplied := none, lastClamped := false, lastRejected := none
        pendingSet := 0#16, inService := false, line := false } := by
  simp [PortState.reset, reline_eq]

/-- PORT-RESET on M, L and R (R172). -/
theorem exec_portReset (h : p ≠ .d) :
    exec (.portReset p) s =
      .next (answerCode p .ok ((takeRequest p s).modifyPort p (PortState.reset (s.settings.masks.get p)))) := by
  simp [exec, execPortReset, h]

/-- PORT-RESET on D empties the held slot too (R172). -/
theorem exec_portReset_d :
    exec (.portReset .d) s =
      .next (answerCode .d .ok
        (((takeRequest .d s).modifyPort .d (PortState.reset (s.settings.masks.get .d))).withStore s.store.emptySlot)) := by
  simp [exec, execPortReset]

/-- Settles O49: the port by `reset_eq`, the held slot by whether the port is D. -/
theorem portReset : Obligations.PortReset := by
  intro s p
  by_cases hd : p = .d
  · subst hd
    refine ⟨_, exec_portReset_d, ?_, fun h => absurd rfl h, fun _ => rfl,
      changesOnly_of fun part => by cases part <;> simp [Part.kept]⟩
    refine (answer_modifyPort_ports s .d { code := .ok, data := [] } _).trans ?_
    rw [reset_eq]
    rfl
  · refine ⟨_, exec_portReset hd, ?_, fun _ => rfl, fun h => absurd h hd,
      changesOnly_of fun part => by cases part <;> simp [Part.kept]⟩
    rw [answerCode, answer_modifyPort_ports, reset_eq]
    rfl

/-! ### PRESENCE_TIMEOUT -/

theorem exec_presenceTimeout (h : (s.ports.get p).present = true) :
    exec (.presenceTimeout p) s = .next (goAbsent p (s.reachOpt (s.ports.get p).presenceDue)) :=
  congrArg Host.Outcome.next (if_pos h)

/-- Settles O50: the ports by `goAbsent_ports`, the side by whether its station is at the port and by its state. -/
theorem presenceTimeout : Obligations.PresenceTimeout := by
  intro s p hpresent side drops
  have hside : sideOfStation p = side := by cases p <;> rfl
  refine ⟨_, exec_presenceTimeout hpresent, fun q => ?_, fun sd => ?_,
    changesOnly_of fun part => by cases part <;> simp [Part.kept]⟩
  · intro own
    rw [goAbsent_ports, hside]
    cases hsome : side with
    | none => simp [drops, hsome, own]
    | some sd =>
      by_cases hmanual : (s.lev.get sd).state = .manual
      · simp [drops, hsome, own, engaged_iff, hmanual, Option.filter]
      · cases sd <;> simp [drops, hsome, own, engaged_iff, hmanual, Option.filter, droppedKind]
  · intro u
    rw [goAbsent_lev, hside]
    simp only [State.reachOpt_frame]
    refine ⟨fun hother => if_neg hother, fun hown hengaged => ?_, fun hown hmanual hjog => ?_, fun hown hmanual hjog => ?_⟩
    · rw [if_pos hown, toManual_of_not_manual hengaged]
    · rw [if_pos hown, endJog_of_manual hmanual, if_pos hjog]
    · rw [if_pos hown, endJog_of_manual hmanual, if_neg hjog]

end OwnPort
end Sys2Proof.Machine

/-! # Family 10: the bytes of a request

Each request's frame and what it spells, then what any run of bytes spells. -/

namespace Sys2Proof.Machine

section Frames

variable {p : Port} {pins : Pins} {code item len check : Byte} {data after : List Byte} {c : Instr}

/-! ### The frame of a request spells the request -/

theorem frameOf_eq (code item : Byte) (hlen : data.length = len.toNat) :
    ∃ check, frameOf code item data = code :: item :: len :: data ++ [check] := by
  have hbyte : BitVec.ofNat 8 data.length = len := by simp [hlen]
  rw [← hbyte]
  exact ⟨_, rfl⟩

/-- What makes a frame spell a command on its port: at most eight data bytes, and code, item byte and data that are the command's
own (R161, R162). -/
theorem frameCommand_of_requestCommand (hdata : data.length ≤ 8) (hc : requestCommand p pins code item data = some c) :
    frameCommand p pins (frameOf code item data) = some c := by
  rw [(frameCommand_frameOf p pins code item data hdata).2, hc]
  rfl

/-- A request's frame is made of its own code, item byte and data, which spell it where the input levels are those it samples. -/
theorem requestFrame_spells {bytes : List Byte} (h : requestFrame c = some (p, bytes)) :
    ∃ code item data, bytes = frameOf code item data ∧ data.length ≤ 8
      ∧ ∀ pins, (∀ q item x, c = .read q item x → x = pins) → (∀ q item x, c = .clearFault q item x → x = pins) →
          requestCommand p pins code item data = some c := by
  cases c with
  | read q item x =>
    cases h
    exact ⟨_, _, _, rfl, by decide, fun pins hread _ => by rw [← hread _ _ _ rfl]; rfl⟩
  | clearFault q item x =>
    cases h
    exact ⟨_, _, _, rfl, by decide, fun pins _ hclear => by rw [← hclear _ _ _ rfl]; rfl⟩
  | write q item value =>
    cases h
    exact ⟨_, _, _, rfl, by simp [wordBytes], fun pins _ _ => congrArg (fun v => some (Instr.write p item v)) (word_back value)⟩
  | jog q item dir duty =>
    cases h
    exact ⟨_, _, _, rfl, by simp [wordBytes], fun pins _ _ => congrArg (fun v => some (Instr.jog p item dir v)) (word_back duty)⟩
  | release q sequence =>
    cases h
    exact ⟨_, _, _, rfl, by simp [dwordBytes], fun pins _ _ => congrArg (fun v => some (Instr.release p v)) (dword_back sequence)⟩
  | page | takeAlerts | alertDone | engage | disengage | setZero | prefill | fetch | rewind | restart | portReset =>
    cases h
    exact ⟨_, _, _, rfl, by simp, fun _ _ _ => rfl⟩
  | _ => cases h

/-! ### What any run of bytes spells -/

theorem frameCommand_tooLong (h : 8 < len.toNat) (rest : List Byte) :
    frameCommand p pins (code :: item :: len :: rest) = some (.badFrame p false) :=
  if_pos h

theorem frameCommand_unfinished {rest : List Byte} (hlen : len.toNat ≤ 8) (h : rest.length ≤ len.toNat) :
    frameCommand p pins (code :: item :: len :: rest) = none :=
  (if_neg (Nat.not_lt.2 hlen)).trans (if_pos h)

theorem frameCommand_short {bytes : List Byte} (h : bytes.length < 3) : frameCommand p pins bytes = none := by
  match bytes, h with
  | [], _ | [_], _ | [_, _], _ => rfl

/-- A run of bytes with its check byte is taken by that byte; what is clocked after it is not looked at (R160, R161). -/
theorem frameCommand_finished (hlen : len.toNat ≤ 8) (hdata : data.length = len.toNat) :
    frameCommand p pins (code :: item :: len :: (data ++ check :: after)) =
      if byteSum (code :: item :: len :: data ++ [check]) ≠ 0#8 then some (.badFrame p false)
      else some ((requestCommand p pins code item data).getD (.badFrame p true)) := by
  have hbytes : (data ++ check :: after).take (len.toNat + 1) = data ++ [check] := by
    rw [← hdata, List.take_length_add_append]
    rfl
  have htaken : (data ++ check :: after).take len.toNat = data := by rw [← hdata, List.take_left]
  simp only [frameCommand]
  rw [if_neg (Nat.not_lt.2 hlen), if_neg (by simp [hdata]), hbytes, htaken]
  rfl

/-- The data length of a request by its code (R162). -/
def requestLength (code : Byte) : Option Nat :=
  if code ∈ [0x01#8, 0x04#8, 0x05#8, 0x10#8, 0x11#8, 0x12#8, 0x20#8, 0x21#8, 0x30#8, 0x32#8, 0x40#8, 0x41#8] then some 0
  else if code = 0x02#8 then some 2 else if code = 0x03#8 then some 1 else if code = 0x13#8 then some 3
  else if code = 0x31#8 then some 4 else none

/-- The requests whose item byte is ignored (R162). -/
def ignoresItem (code : Byte) : Prop :=
  code ∈ [0x03#8, 0x04#8, 0x05#8, 0x30#8, 0x31#8, 0x32#8, 0x40#8, 0x41#8]

theorem requestLength_eq_some {n : Nat} :
    requestLength code = some n ↔
      code ∈ [0x01#8, 0x04#8, 0x05#8, 0x10#8, 0x11#8, 0x12#8, 0x20#8, 0x21#8, 0x30#8, 0x32#8, 0x40#8, 0x41#8] ∧ n = 0
        ∨ code = 0x02#8 ∧ n = 2 ∨ code = 0x03#8 ∧ n = 1 ∨ code = 0x13#8 ∧ n = 3 ∨ code = 0x31#8 ∧ n = 4 := by
  constructor
  · intro h
    unfold requestLength at h
    split_ifs at h with hzero htwo hone hthree hfour <;> cases h
    · exact .inl ⟨hzero, rfl⟩
    · exact .inr (.inl ⟨htwo, rfl⟩)
    · exact .inr (.inr (.inl ⟨hone, rfl⟩))
    · exact .inr (.inr (.inr (.inl ⟨hthree, rfl⟩)))
    · exact .inr (.inr (.inr (.inr ⟨hfour, rfl⟩)))
  · rintro (⟨hzero, rfl⟩ | ⟨rfl, rfl⟩ | ⟨rfl, rfl⟩ | ⟨rfl, rfl⟩ | ⟨rfl, rfl⟩)
    · exact if_pos hzero
    all_goals rfl

/-- A request needs a code of the table: number by number of a byte, `requestLength` has an answer or nothing is spelled. -/
theorem requestCommand_eq_bind :
    requestCommand p pins code item data = (requestLength code).bind fun _ => requestCommand p pins code item data := by
  obtain ⟨⟨n, hn⟩⟩ := code
  interval_cases n <;> rfl

/-- A code outside the table spells nothing (R161). -/
theorem requestCommand_unknown (h : requestLength code = none) : requestCommand p pins code item data = none := by
  rw [requestCommand_eq_bind, h, Option.bind_none]

/-- Data of another length than the code's spells nothing (R161, R162). -/
theorem requestCommand_otherLength (h : requestLength code ≠ some data.length) :
    requestCommand p pins code item data = none := by
  cases hcode : requestLength code with
  | none => exact requestCommand_unknown hcode
  | some n =>
    have hn : data.length ≠ n := fun hn => h (hn ▸ hcode)
    rcases requestLength_eq_some.1 hcode with ⟨hzero, rfl⟩ | ⟨rfl, rfl⟩ | ⟨rfl, rfl⟩ | ⟨rfl, rfl⟩ | ⟨rfl, rfl⟩
    · obtain ⟨a, rest, rfl⟩ := List.exists_cons_of_length_pos (Nat.pos_of_ne_zero hn)
      simp only [List.mem_cons, List.not_mem_nil, or_false] at hzero
      rcases hzero with rfl | rfl | rfl | rfl | rfl | rfl | rfl | rfl | rfl | rfl | rfl | rfl <;> rfl
    · match data, hn with
      | [], _ | [_], _ | _ :: _ :: _ :: _, _ => rfl
      | [_, _], hn => exact absurd rfl hn
    · match data, hn with
      | [], _ | _ :: _ :: _, _ => rfl
      | [_], hn => exact absurd rfl hn
    · match data, hn with
      | [], _ | [_], _ | [_, _], _ | _ :: _ :: _ :: _ :: _, _ => rfl
      | [_, _, _], hn => exact absurd rfl hn
    · match data, hn with
      | [], _ | [_], _ | [_, _], _ | [_, _, _], _ | _ :: _ :: _ :: _ :: _ :: _, _ => rfl
      | [_, _, _, _], hn => exact absurd rfl hn

/-- The bytes above the lowest one. -/
theorem extractLsb'_append_byte {n : Nat} (x : BitVec n) (b : Byte) (i : Nat) :
    (x ++ b).extractLsb' (8 + i) 8 = x.extractLsb' i 8 := by
  rw [BitVec.extractLsb'_append_eq_of_le (Nat.le_add_right 8 i), Nat.add_sub_cancel_left]

theorem dwordBytes_dwordOfBytes (b3 b2 b1 b0 : Byte) : dwordBytes (dwordOfBytes b3 b2 b1 b0) = [b3, b2, b1, b0] := by
  have habove (i : Nat) : (b3 ++ b2 ++ b1 ++ b0).extractLsb' (8 + i) 8 = (b3 ++ b2 ++ b1).extractLsb' i 8 :=
    extractLsb'_append_byte _ _ i
  have h3 : (b3 ++ b2 ++ b1).extractLsb' (8 + 8) 8 = b3 :=
    (extractLsb'_append_byte _ _ 8).trans BitVec.extractLsb'_append_eq_left
  have h2 : (b3 ++ b2 ++ b1).extractLsb' (8 + 0) 8 = b2 :=
    (extractLsb'_append_byte _ _ 0).trans BitVec.extractLsb'_append_eq_right
  simp only [dwordBytes, List.cons.injEq, and_true]
  exact ⟨(habove 16).trans h3, (habove 8).trans h2, (habove 0).trans BitVec.extractLsb'_append_eq_right,
    BitVec.extractLsb'_append_eq_right⟩

/-- Data of the code's length spells a request, whose own frame has that code and data, and the item byte where it has one (R162). -/
theorem requestCommand_known (h : requestLength code = some data.length) :
    ∃ c sent, requestCommand p pins code item data = some c ∧ requestFrame c = some (p, frameOf code sent data)
      ∧ (¬ignoresItem code → sent = item) := by
  rcases requestLength_eq_some.1 h with ⟨hzero, hn⟩ | ⟨rfl, hn⟩ | ⟨rfl, hn⟩ | ⟨rfl, hn⟩ | ⟨rfl, hn⟩
  · obtain rfl := List.length_eq_zero_iff.1 hn
    simp only [List.mem_cons, List.not_mem_nil, or_false] at hzero
    rcases hzero with rfl | rfl | rfl | rfl | rfl | rfl | rfl | rfl | rfl | rfl | rfl | rfl
    all_goals exact ⟨_, _, rfl, rfl, by simp [ignoresItem]⟩
  · obtain ⟨hi, lo, rfl⟩ := List.length_eq_two.1 hn
    refine ⟨_, item, rfl, ?_, fun _ => rfl⟩
    rw [requestFrame, wordBytes_wordOfBytes]
  · obtain ⟨v, rfl⟩ := List.length_eq_one_iff.1 hn
    exact ⟨_, 0#8, rfl, rfl, by simp [ignoresItem]⟩
  · obtain ⟨dir, hi, lo, rfl⟩ := List.length_eq_three.1 hn
    refine ⟨_, item, rfl, ?_, fun _ => rfl⟩
    rw [requestFrame, wordBytes_wordOfBytes]
  · match data, hn with
    | [b3, b2, b1, b0], _ =>
      refine ⟨_, 0#8, rfl, ?_, by simp [ignoresItem]⟩
      rw [requestFrame, dwordBytes_dwordOfBytes]

/-- Settles O60: the frames of the sixteen requests, then what any bytes spell by their length, their sum, their code and data. -/
theorem frameRoundTrip : Obligations.FrameRoundTrip := by
  unfold Obligations.FrameRoundTrip
  intro length ignored
  refine ⟨fun c p bytes hframe => ?_, fun p item dir value sequence pins => ?_, fun p pins code item len rest => ?_,
    fun p pins bytes hshort => frameCommand_short hshort, fun a => ⟨byteSum_check _, _, rfl⟩, rfl⟩
  · obtain ⟨code, item, data, rfl, hdata, hspells⟩ := requestFrame_spells hframe
    exact ⟨byteSum_check _, fun pins hread hclear => frameCommand_of_requestCommand hdata (hspells pins hread hclear)⟩
  · exact ⟨⟨_, rfl⟩, ⟨_, rfl⟩, ⟨_, rfl⟩, ⟨_, rfl⟩, ⟨_, rfl⟩, ⟨_, rfl⟩, ⟨_, rfl⟩, ⟨_, rfl⟩, ⟨_, rfl⟩, ⟨_, rfl⟩, ⟨_, rfl⟩, ⟨_, rfl⟩,
      ⟨_, rfl⟩, ⟨_, rfl⟩, ⟨_, rfl⟩, ⟨_, rfl⟩⟩
  · refine ⟨fun hlong => frameCommand_tooLong hlong rest, frameCommand_unfinished, ?_⟩
    rintro data check after hlen hdata rfl
    intro sum spelled
    have hspelled : spelled = _ := frameCommand_finished hlen hdata
    refine ⟨fun hsum => hspelled.trans (if_pos hsum), fun hsum hother => ?_, fun hsum hknown => ?_⟩
    · rw [hspelled, if_neg (not_not.2 hsum), requestCommand_otherLength (hdata ▸ hother)]
      rfl
    · obtain ⟨c, sent, hc, hframe, hsent⟩ := requestCommand_known (p := p) (pins := pins) (item := item) (hdata ▸ hknown)
      obtain ⟨check', hbytes⟩ := frameOf_eq code sent hdata
      refine ⟨c, sent, check', ?_, hframe.trans (by rw [hbytes]), hsent⟩
      rw [hspelled, if_neg (not_not.2 hsum), hc]
      rfl

end Frames
end Sys2Proof.Machine

/-! # Family 10: the items a READ names

The numbers of the settings, then what the status items of each block read. -/

namespace Sys2Proof.Machine

section SettingNumbers

variable {n base i : Nat} {st : Setting} {items : List Setting}

/-- A setting's number names it (R176). -/
theorem settingAt_number (st : Setting) : settingAt st.number = some st := by
  cases st with
  | zone k i => cases i <;> revert k <;> decide
  | calibration c i => cases i <;> revert c <;> decide
  | alertMask p => cases p <;> rfl
  | side sd i => cases sd <;> cases i <;> rfl
  | drive d i => cases d <;> cases i <;> rfl
  | record i => cases i <;> rfl
  | _ => rfl

/-- A run of settings, each number the next one after that of the setting before (R176). -/
theorem settingAt_of_numbers (h : items.map Setting.number = List.range' base items.length)
    (hi : items[i]? = some st) : settingAt (base + i) = some st := by
  obtain ⟨hlt, hst⟩ := List.getElem?_eq_some_iff.1 hi
  have hnumber : st.number = base + i := by
    have hplace := congrArg (·[i]?) h
    simpa [hlt, hst] using hplace
  rw [← hnumber, settingAt_number]

/-! ### No setting has another number -/

theorem SideItem.index_of_ofIndex? {i : SideItem} (h : SideItem.ofIndex? n = some i) : i.index = n := by
  unfold SideItem.ofIndex? at h
  split at h <;> cases h <;> rfl

theorem ZoneItem.index_of_ofIndex? {i : ZoneItem} (h : ZoneItem.ofIndex? n = some i) : i.index = n := by
  unfold ZoneItem.ofIndex? at h
  split at h <;> cases h <;> rfl

theorem DriveItem.index_of_ofIndex? {i : DriveItem} (h : DriveItem.ofIndex? n = some i) : i.index = n := by
  unfold DriveItem.ofIndex? at h
  split at h <;> cases h <;> rfl

theorem RecordItem.index_of_ofIndex? {i : RecordItem} (h : RecordItem.ofIndex? n = some i) : i.index = n := by
  unfold RecordItem.ofIndex? at h
  split at h <;> cases h <;> rfl

theorem CalItem.index_of_ofIndex? {i : CalItem} (h : CalItem.ofIndex? n = some i) : i.index = n := by
  unfold CalItem.ofIndex? at h
  split at h <;> cases h <;> rfl

theorem portIndex_of_portOfIndex? {p : Port} (h : portOfIndex? n = some p) : portIndex p = n := by
  unfold portOfIndex? at h
  split at h <;> cases h <;> rfl

/-- One line of the item map: what it names has the number looked for, or a later line names it. -/
theorem number_of_line {c : Prop} [Decidable c] {a b : Option Setting} (ha : c → ∀ st, a = some st → st.number = n)
    (hb : ∀ st, b = some st → st.number = n) : ∀ st, (if c then a else b) = some st → st.number = n := by
  split
  · exact ha ‹_›
  · exact hb

/-- A line that names several settings, each by its place in the line. -/
theorem number_of_place {α : Type} {f : α → Setting} {x : Option α} (h : ∀ i, x = some i → (f i).number = n) :
    ∀ st, x.map f = some st → st.number = n := by
  rintro st hst
  obtain ⟨i, hi, rfl⟩ := Option.map_eq_some_iff.1 hst
  exact h i hi

theorem number_of_named (named : Setting) (h : n = named.number) : ∀ st, some named = some st → st.number = n := by
  rintro st ⟨⟩
  exact h.symm

theorem zone_number (hn : 48 ≤ n ∧ n < 96) {i : ZoneItem} (hi : ZoneItem.ofIndex? ((n - 48) % 4) = some i) :
    (Setting.zone ⟨(n - 48) / 4, by omega⟩ i).number = n := by
  have hindex := ZoneItem.index_of_ofIndex? hi
  simp only [Setting.number]
  omega

theorem calibration_number (hn : 256 ≤ n ∧ n < 380) {i : CalItem} (hi : CalItem.ofIndex? ((n - 256) % 4) = some i) :
    (Setting.calibration ⟨(n - 256) / 4, by omega⟩ i).number = n := by
  have hindex := CalItem.index_of_ofIndex? hi
  simp only [Setting.number]
  omega

theorem drive_number (d : Drive) {hi : Nat} (hn : driveItemBase d ≤ n ∧ n < hi) {i : DriveItem}
    (hplace : DriveItem.ofIndex? (n - driveItemBase d) = some i) : (Setting.drive d i).number = n := by
  have hindex := DriveItem.index_of_ofIndex? hplace
  simp only [Setting.number]
  omega

/-- Each line of the item map in turn (R176). -/
theorem number_of_settingAt : ∀ st, settingAt n = some st → st.number = n := by
  refine number_of_line (number_of_named .machineMode) <| number_of_line (number_of_named .writtenCapacity) <|
    number_of_line (number_of_named .reserve) <| number_of_line (number_of_named .busVoltage) <|
    number_of_line (fun hn => number_of_place fun p hp => ?_) <|
    number_of_line (number_of_named .calLock) <| number_of_line (number_of_named .guardMask) <|
    number_of_line (fun hn => number_of_place fun i hi => ?_) <|
    number_of_line (fun hn => number_of_place fun i hi => ?_) ?_
  · have hindex := portIndex_of_portOfIndex? hp
    simp only [Setting.number]
    omega
  · have hindex := SideItem.index_of_ofIndex? hi
    simp only [Setting.number]
    omega
  · have hindex := SideItem.index_of_ofIndex? hi
    simp only [Setting.number]
    omega
  split
  · exact number_of_place fun i => zone_number ‹_›
  refine number_of_line (fun hn => number_of_place fun i => drive_number .convL hn) <|
    number_of_line (fun hn => number_of_place fun i => drive_number .augL hn) <|
    number_of_line (fun hn => number_of_place fun i => drive_number .convR hn) <|
    number_of_line (fun hn => number_of_place fun i => drive_number .augR hn) <|
    number_of_line (fun hn => number_of_place fun i hi => ?_) ?_
  · have hindex := RecordItem.index_of_ofIndex? hi
    simp only [Setting.number]
    omega
  split
  · exact number_of_place fun i => calibration_number ‹_›
  · exact number_of_line (number_of_named .travelPulse) <| number_of_line (number_of_named .radarPulse) fun _ h => nomatch h

/-- The runs of numbers that the settings stand in (R176). -/
theorem number_ranges (st : Setting) :
    st.number ≤ 8 ∨ st.number = 10 ∨ (16 ≤ st.number ∧ st.number ≤ 23) ∨ (32 ≤ st.number ∧ st.number ≤ 39)
      ∨ (48 ≤ st.number ∧ st.number ≤ 131) ∨ (256 ≤ st.number ∧ st.number ≤ 381) := by
  cases st with
  | zone k i =>
    have hi := zoneItem_index_le i
    simp only [Setting.number]
    omega
  | calibration c i =>
    have hi : i.index ≤ 3 := by cases i <;> decide
    simp only [Setting.number]
    omega
  | alertMask p => cases p <;> decide
  | side sd i => cases sd <;> cases i <;> decide
  | drive d i => cases d <;> cases i <;> decide
  | record i => cases i <;> decide
  | _ => decide

end SettingNumbers

section StatusItems

variable {s : State} {base n i : Nat} {v : ItemValue} {items : List ItemValue}

/-- A run of status items, each at the number after that of the item before (R176). -/
theorem statusAt_of_run (h : (List.range' base items.length).map (statusAt s) = items.map some)
    (hi : items[i]? = some v) : statusAt s (base + i) = some v := by
  obtain ⟨hlt, hv⟩ := List.getElem?_eq_some_iff.1 hi
  have hentry := congrArg (·[i]?) h
  simpa [hlt, hv] using hentry

/-- A run of status items that one block's items `f` give. -/
theorem statusAt_of_block {f : Nat → Option ItemValue} (hblock : ∀ i, i < items.length → statusAt s (base + i) = f i)
    (h : (List.range items.length).map f = items.map some) (hi : items[i]? = some v) : statusAt s (base + i) = some v := by
  refine statusAt_of_run ?_ hi
  rw [List.range'_eq_map_range, List.map_map, ← h]
  exact List.map_congr_left fun i hi => hblock i (List.mem_range.1 hi)

theorem itemBool_eq : (fun b : Bool => ItemValue.word (if b then 1#16 else 0#16)) = itemBool := by
  funext b
  cases b <;> rfl

/-! ### The runs of the units of which there are many -/

theorem statusAt_result (s : State) (c : Fin 34) (hi : i < 4) :
    statusAt s (528 + 4 * c.val + i) = resultItem s.seq.results[c] i := by
  have hc : (528 + 4 * c.val + i - 528) / 4 = c.val := by omega
  have hplace : (528 + 4 * c.val + i - 528) % 4 = i := by omega
  unfold statusAt
  iterate 7 rw [if_neg (by omega)]
  rw [dif_pos (by omega)]
  simp only [hc, hplace, Fin.eta]

theorem statusAt_zone (s : State) (k : Fin 12) (hi : i < 13) :
    statusAt s (800 + 13 * k.val + i) = zoneItem s.zones[k] (s.pins.sense.getLsbD k.val) i := by
  have hk : (800 + 13 * k.val + i - 800) / 13 = k.val := by omega
  have hplace : (800 + 13 * k.val + i - 800) % 13 = i := by omega
  unfold statusAt
  iterate 7 rw [if_neg (by omega)]
  rw [dif_neg (by omega)]
  iterate 3 rw [if_neg (by omega)]
  rw [dif_neg (by omega)]
  iterate 2 rw [if_neg (by omega)]
  rw [dif_pos (by omega)]
  simp only [hk, hplace, Fin.eta]

theorem statusAt_column (s : State) {c : Nat} (hc : c < 36) (hi : i < 2) :
    statusAt s (384 + 2 * c + i) = columnItem s c i := by
  have hcolumn : (384 + 2 * c + i - 384) / 2 = c := by omega
  have hplace : (384 + 2 * c + i - 384) % 2 = i := by omega
  unfold statusAt
  iterate 5 rw [if_neg (by omega)]
  rw [if_pos (by omega)]
  simp only [hcolumn, hplace]

/-! ### Which numbers name a status item -/

theorem summaryItem_ne_none (h : Option Header) (hi : i < 19) : summaryItem h i ≠ none := by
  interval_cases i <;> exact Option.some_ne_none _

theorem openRecordItem_ne_none (s : State) (hi : i < 12) : openRecordItem s i ≠ none := by
  unfold openRecordItem
  split <;> interval_cases i <;> exact Option.some_ne_none _

theorem scanItem_open (s : State) (hi : 4 ≤ i ∧ i < 16) : scanItem s i = openRecordItem s (i - 4) := by
  obtain ⟨hlo, hhi⟩ := hi
  interval_cases i <;> rfl

theorem scanItem_ne_none (s : State) (hi : i < 17) : scanItem s i ≠ none := by
  have hplace : i < 4 ∨ i = 16 ∨ (4 ≤ i ∧ i < 16) := by omega
  rcases hplace with hfirst | rfl | hopen
  · interval_cases i <;> exact Option.some_ne_none _
  · exact Option.some_ne_none _
  · rw [scanItem_open s hopen]
    exact openRecordItem_ne_none s (by omega)

theorem storeItem_ne_none (s : State) (hi : i < 10) : storeItem s i ≠ none := by
  interval_cases i <;> exact Option.some_ne_none _

theorem portItem_ne_none (u : PortState) (hi : i < 8) : portItem u i ≠ none := by
  interval_cases i <;> exact Option.some_ne_none _

theorem portItems_ne_none (s : State) {c : Nat} (hc : c < 4) (hi : i < 8) :
    ((portOfIndex? c).bind fun p => portItem (s.ports.get p) i) ≠ none := by
  interval_cases c <;> exact portItem_ne_none _ hi

theorem columnItem_ne_none (s : State) (c : Nat) (hi : i < 2) : columnItem s c i ≠ none := by
  interval_cases i <;> exact Option.some_ne_none _

theorem travelItem_ne_none (t : Travel) (hi : i < 12) : travelItem t i ≠ none := by
  interval_cases i <;> exact Option.some_ne_none _

theorem resultItem_ne_none (e : ResultEntry) (hi : i < 4) : resultItem e i ≠ none := by
  interval_cases i <;> exact Option.some_ne_none _

theorem roundItem_ne_none (q : Sequencer) (hi : i < 10) : roundItem q i ≠ none := by
  interval_cases i <;> exact Option.some_ne_none _

theorem sideItem_ne_none (u : SideUnit) (hi : i < 11) : sideItem u i ≠ none := by
  interval_cases i <;> exact Option.some_ne_none _

theorem driveItem_ne_none (u : DriveUnit) (now : Nat) (hi : i < 12) : driveItem u now i ≠ none := by
  interval_cases i <;> exact Option.some_ne_none _

theorem heatItem_ne_none (h : HeatUnit) (pins : Pins) (hi : i < 18) : heatItem h pins i ≠ none := by
  interval_cases i <;> exact Option.some_ne_none _

theorem zoneItem_ne_none (z : ZoneUnit) (sense : Bool) (hi : i < 13) : zoneItem z sense i ≠ none := by
  interval_cases i <;> exact Option.some_ne_none _

/-- One line of the item map: the numbers it names, and those of the later lines. -/
theorem ite_ne_none_iff {c r : Prop} [Decidable c] {a b : Option ItemValue} (ha : c → a ≠ none) (hb : b ≠ none ↔ r) :
    (if c then a else b) ≠ none ↔ c ∨ r := by
  split
  · exact iff_of_true (ha ‹_›) (.inl ‹_›)
  · rw [hb, or_iff_right ‹_›]

theorem dite_ne_none_iff {c r : Prop} [Decidable c] {a : c → Option ItemValue} {b : Option ItemValue}
    (ha : ∀ h, a h ≠ none) (hb : b ≠ none ↔ r) : (if h : c then a h else b) ≠ none ↔ c ∨ r := by
  split
  · exact iff_of_true (ha _) (.inl ‹_›)
  · rw [hb, or_iff_right ‹_›]

/-- A number outside the map names nothing (R176). -/
theorem statusAt_ne_none_iff (s : State) (n : Nat) :
    statusAt s n ≠ none ↔
      n = 9 ∨ (144 ≤ n ∧ n ≤ 162) ∨ (168 ≤ n ∧ n ≤ 184) ∨ (192 ≤ n ∧ n ≤ 201) ∨ (208 ≤ n ∧ n ≤ 239)
        ∨ (384 ≤ n ∧ n ≤ 455) ∨ (512 ≤ n ∧ n ≤ 523) ∨ (528 ≤ n ∧ n ≤ 673) ∨ (680 ≤ n ∧ n ≤ 701)
        ∨ (704 ≤ n ∧ n ≤ 752) ∨ (768 ≤ n ∧ n ≤ 785) ∨ (800 ≤ n ∧ n ≤ 955) := by
  refine (ite_ne_none_iff (fun _ => Option.some_ne_none _) <|
    ite_ne_none_iff (fun _ => summaryItem_ne_none _ (by omega)) <|
    ite_ne_none_iff (fun _ => scanItem_ne_none _ (by omega)) <|
    ite_ne_none_iff (fun _ => storeItem_ne_none _ (by omega)) <|
    ite_ne_none_iff (fun _ => portItems_ne_none _ (by omega) (by omega)) <|
    ite_ne_none_iff (fun _ => columnItem_ne_none _ _ (by omega)) <|
    ite_ne_none_iff (fun _ => travelItem_ne_none _ (by omega)) <|
    dite_ne_none_iff (fun _ => resultItem_ne_none _ (by omega)) <|
    ite_ne_none_iff (fun _ => roundItem_ne_none _ (by omega)) <|
    ite_ne_none_iff (fun _ => sideItem_ne_none _ (by omega)) <|
    ite_ne_none_iff (fun _ => sideItem_ne_none _ (by omega)) <|
    dite_ne_none_iff (fun _ => driveItem_ne_none _ _ (by omega)) <|
    ite_ne_none_iff (fun _ => Option.some_ne_none _) <|
    ite_ne_none_iff (fun _ => heatItem_ne_none _ _ (by omega)) <|
    dite_ne_none_iff (fun _ => zoneItem_ne_none _ _ (by omega)) <|
    iff_of_false (not_not.2 rfl) id).trans ?_
  rw [or_false]
  omega

/-- No number names both a setting and a status item (R176). -/
theorem settingAt_of_statusAt (h : statusAt s n ≠ none) : settingAt n = none := by
  rw [statusAt_ne_none_iff] at h
  cases hst : settingAt n with
  | none => rfl
  | some st =>
    have hranges := number_ranges st
    rw [number_of_settingAt st hst] at hranges
    omega

end StatusItems
end Sys2Proof.Machine

/-! # Family 10: READ -/

namespace Sys2Proof.Machine

section ReadTake

variable {s : State} {p : Port} {item : Byte} {pins : Pins} {v : ItemValue} {n : Nat}

theorem pendingWrite_sampled_iff :
    pendingWrite (s.sampled p pins) p n = true ↔ ∃ e, e ∈ (s.ports.get p).queue ∧ e.item.number = n := by
  simp [pendingWrite, State.sampled, takeRequest_port_self]

/-- The three answers of a READ (R164). -/
theorem exec_read_answer (s : State) (p : Port) (item : Byte) (pins : Pins) :
    let found := itemAt (s.sampled p pins) (itemNumber s p item)
    let waits : Prop := ∃ e, e ∈ (s.ports.get p).queue ∧ e.item.number = itemNumber s p item
    ∃ a, exec (.read p item pins) s = .next (answer p a (s.sampled p pins))
      ∧ (found = none → a = { code := .noItem, data := [] })
      ∧ (found ≠ none → waits → a = { code := .retry, data := [] })
      ∧ ∀ v, found = some v → ¬waits → a = { code := .ok, data := v.bytes } := by
  intro found waits
  have hpending : pendingWrite (s.sampled p pins) p (itemNumber s p item) = true ↔ waits := pendingWrite_sampled_iff
  have hexec : exec (.read p item pins) s = .next (match found with
      | none => answerCode p .noItem (s.sampled p pins)
      | some v =>
        if pendingWrite (s.sampled p pins) p (itemNumber s p item) then answerCode p .retry (s.sampled p pins)
        else answer p { code := .ok, data := v.bytes } (s.sampled p pins)) := rfl
  rw [hexec]
  cases found with
  | none => exact ⟨_, rfl, fun _ => rfl, fun h => absurd rfl h, nofun⟩
  | some v =>
    by_cases hwaits : waits
    · simp only [if_pos (hpending.2 hwaits)]
      exact ⟨_, rfl, nofun, fun _ _ => rfl, fun _ _ h => absurd hwaits h⟩
    · simp only [if_neg (mt hpending.1 hwaits)]
      exact ⟨_, rfl, nofun, fun _ h => absurd h hwaits, fun _ h _ => by cases h; rfl⟩

theorem itemAt_setting {st : Setting} (h : settingAt n = some st) : itemAt s n = some (.word (s.settings.read st)) := by
  simp only [itemAt, h]

theorem itemAt_status (h : settingAt n = none) : itemAt s n = statusAt s n := by
  simp only [itemAt, h]

/-! ### Items whose value is worked out -/

/-- The flags of a record as the sum of their bits, bit 15 first (log entry 9). -/
theorem flagsItem_eq (f : RecordFlags) (partialClose restartClose pause drops : Bool) :
    flagsItem f partialClose restartClose pause drops =
      item16 (([partialClose, restartClose, pause, drops, f.scannerLost, f.converterSuspect, f.travelSuspect, f.widthHeld].zip
        [32768, 16384, 8192, 4096, 2048, 1024, 512, 256]).map fun bw => if bw.1 then bw.2 else 0).sum := by
  have hbit (b : Bool) (w : Nat) : boolCode b * w = if b then w else 0 := by cases b <;> simp [boolCode]
  simp [flagsItem, hbit, Nat.add_assoc]

/-- The entries that the trip history holds (R94). -/
theorem heatItem_history (h : HeatUnit) (pins : Pins) {i : Nat} (hi : ((h.history.take 2).map item16)[i]? = some v) :
    heatItem h pins (7 + i) = some v := by
  rw [List.getElem?_map, List.getElem?_take] at hi
  split at hi
  case isFalse => cases hi
  case isTrue hlt =>
    obtain ⟨entry, hentry, rfl⟩ := Option.map_eq_some_iff.1 hi
    interval_cases i <;> simp only [heatItem, hentry]

/-- A column of the open record: its count and its mean, both 0 where there is none (R132). -/
theorem columnItem_map (s : State) (c : Nat) :
    let col := (if s.record.current = none then none else s.scan.columns[c]?).getD { sum := 0, count := 0 }
    (List.range 2).map (columnItem s c) = [item16 col.count, item16 ((col.sum + col.count / 2) / col.count)].map some := by
  intro col
  have hcol : (if s.record.current.isSome then (s.scan.columns[c]?).getD { sum := 0, count := 0 }
      else { sum := 0, count := 0 }) = col := by
    cases hr : s.record.current <;> simp [col, hr]
  have hmean : col.mean = (col.sum + col.count / 2) / col.count := by
    rcases Nat.eq_zero_or_pos col.count with hzero | hpos
    · simp [Column.mean, hzero]
    · exact Column.mean_of_pos hpos
  unfold columnItem
  rw [hcol, ← hmean]
  rfl

/-! ### The fields of the open record and of the latest one -/

theorem statusAt_openRecord (s : State) {i : Nat} (hi : i < 12) : statusAt s (172 + i) = openRecordItem s i := by
  interval_cases i <;> rfl

theorem openRecordItem_map_none (hr : s.record.current = none) :
    (List.range 12).map (openRecordItem s) =
      [itemBool false, item32 0, item32 0, item16 0, item16 0, item16 0, item16 0, item16 0, item16 0, item16 0, item16 0,
        item16 0].map some := by
  unfold openRecordItem
  rw [hr]
  rfl

theorem openRecordItem_map_some {r : OpenRecord} (hr : s.record.current = some r) :
    (List.range 12).map (openRecordItem s) =
      [itemBool true, item32 r.sequence, item32 r.start, item16 (s.travel.distance - r.start), item16 r.width,
        item16 r.columns, flagsItem r.flags false false false false, itemSet r.starved, itemSet r.faulted, item16 r.trips,
        item16 s.scan.linesBinned, item16 s.scan.linesRejected].map some := by
  unfold openRecordItem
  rw [hr]
  rfl

/-- The items of the held slot, by what the slot is (R145). -/
theorem statusAt_slot {slot : HeldSlot} (h : s.store.slot = slot) :
    (List.range' 199 3).map (statusAt s) =
      (List.range 3).map fun i => storeItem (s.withStore { s.store with slot := slot }) (7 + i) := by
  rw [← h]
  rfl

/-- Settles O46: the answer by what the number names, the settings by their numbers, the status items block by block. -/
theorem read : Obligations.Read := by
  refine ⟨fun s p item pins => ?_, ?_, fun s => ?_, rfl, rfl, rfl, rfl, rfl, rfl, rfl, rfl⟩
  · intro number seen waits
    obtain ⟨a, hx, hnone, hretry, hok⟩ := exec_read_answer s p item pins
    obtain ⟨hanswer, hpins, hframe⟩ := answeredOnly_sampled s p pins a
    refine ⟨_, hx, fun h => hnone h ▸ hanswer, fun h hwaits => hretry h hwaits ▸ hanswer, fun v h hfree => ?_,
      fun st hst => (itemAt_setting hst).trans (by simp [seen]), itemAt_status, hpins, hframe⟩
    rw [hok v h hfree] at hanswer ⊢
    cases v <;> exact hanswer
  · exact ⟨fun i st => settingAt_of_numbers rfl, fun i st => settingAt_of_numbers rfl,
      fun sd i st => settingAt_of_numbers (by cases sd <;> rfl), fun k i st => settingAt_of_numbers rfl,
      fun d i st => settingAt_of_numbers (by cases d <;> rfl), fun i st => settingAt_of_numbers rfl,
      fun c i st => settingAt_of_numbers rfl, fun i st => settingAt_of_numbers rfl, settingAt_number,
      fun n => number_of_settingAt⟩
  · rw [itemBool_eq]
    intro reads n16 n32 int flag zoneSet flags temperature last side drive round
    refine ⟨fun i v => statusAt_of_run rfl, fun hnone i v => statusAt_of_run ?_,
      fun h hsome => ⟨fun i v => statusAt_of_run ?_, fun hmin hmax i v => statusAt_of_run ?_, fun i v => statusAt_of_run ?_⟩,
      fun i v => statusAt_of_run rfl,
      fun hnone i v => statusAt_of_block (fun i hi => statusAt_openRecord s hi) (openRecordItem_map_none hnone),
      fun r hsome i v => statusAt_of_block (fun i hi => statusAt_openRecord s hi)
        ((openRecordItem_map_some hsome).trans ?_), fun i v => statusAt_of_run rfl,
      fun i v => statusAt_of_run rfl, fun hslot i v => statusAt_of_run ((statusAt_slot hslot).trans rfl),
      fun r due hslot i v => statusAt_of_run ((statusAt_slot hslot).trans rfl),
      fun r due hslot i v => statusAt_of_run ((statusAt_slot hslot).trans rfl), fun p => ?_,
      fun c i v => statusAt_of_block (fun i hi => statusAt_column s c.isLt hi) (columnItem_map s c),
      fun i v => statusAt_of_run rfl, fun c i v => statusAt_of_block (fun i hi => statusAt_result s c hi) rfl,
      fun i v => statusAt_of_run rfl, fun i v => statusAt_of_run rfl, fun i v => statusAt_of_run rfl,
      fun i v => statusAt_of_run rfl, fun i v hi => ?_, fun i v => statusAt_of_run rfl,
      fun k i v => statusAt_of_block (fun i hi => statusAt_zone s k hi) rfl,
      fun n => ⟨statusAt_ne_none_iff s n, settingAt_of_statusAt⟩⟩
    · change (List.range 19).map (summaryItem s.record.summary) = _
      rw [hnone]
      rfl
    · change (List.range 8).map (summaryItem s.record.summary) = _
      have hflags : flagsItem h.flags h.partialClose h.restartClose h.pauseFlag h.dropsFlag = flags _ := flagsItem_eq _ _ _ _ _
      rw [hsome, ← hflags]
      rfl
    · change (List.range 2).map (fun i => summaryItem s.record.summary (8 + i)) = _
      rw [hsome, ← Nat.div_mul_cancel hmin, ← Nat.div_mul_cancel hmax]
      rfl
    · change (List.range 9).map (fun i => summaryItem s.record.summary (10 + i)) = _
      rw [hsome]
      rfl
    · rw [flagsItem_eq]
      rfl
    · cases p <;> exact fun i v => statusAt_of_run rfl
    · have hlt : i < 2 := by
        obtain ⟨hlt, -⟩ := List.getElem?_eq_some_iff.1 hi
        exact lt_of_lt_of_le hlt (by simp)
      refine Eq.trans ?_ (heatItem_history s.heat s.pins hi)
      interval_cases i <;> rfl

end ReadTake
end Sys2Proof.Machine

/-! # Family 10: RESTART

What its parts do: the sides and drives, the close of the record, the heating cycle that it starts. -/

namespace Sys2Proof.Machine

section RestartClose

variable {s : State} {r : OpenRecord}

/-- The close at RESTART returns no boosts (R125). -/
theorem closeRecord_restart_zones (s : State) : (closeRecord false true s).zones = s.zones := by
  cases hr : s.record.current with
  | none => rw [closeRecord_none hr]
  | some r => rw [closeRecord_some hr]; simp

theorem makeRoom_slot (st : Store) (len : Nat) : (st.makeRoom len).slot = st.slot := by
  obtain ⟨n, -, hroom, -⟩ := dropWhile_afterDrops st len st.records.length 0
  exact (congrArg Store.slot hroom).trans (afterDrops_frame st n).2

/-- A close leaves the held slot (R136). -/
theorem closeRecord_slot (a b : Bool) (hr : s.record.current = some r) :
    (closeRecord a b s).store.slot = s.store.slot := by
  rw [closeRecord_store hr]
  simp only [State.closing, storeRecord, raiseAllIf_frame, State.withStore_store, Store.push, makeRoom_slot]

/-- The summary a close at RESTART leaves (R125, R127). -/
theorem closeRecord_restart_summary (hr : s.record.current = some r) :
    ∃ h, (closeRecord false true s).record.summary = some h ∧ h.sequence = r.sequence ∧ h.restartClose = true
      ∧ h.partialClose = false ∧ h.leftState = s.lev.left.state ∧ h.rightState = s.lev.right.state
      ∧ h.length = min 65535 (s.travel.distance - r.start) := by
  rw [closeRecord_unit hr]
  exact ⟨_, rfl, rfl, rfl, rfl, rfl, rfl, rfl⟩

end RestartClose

section RestartHeating

variable {s v : State} {k : Fin 12}

theorem takeTemperature_kept (z : ZoneUnit) (e : ResultEntry) :
    (z.takeTemperature e).state = z.state ∧ (z.takeTemperature e).boost = z.boost
      ∧ (z.takeTemperature e).starved = z.starved := by
  unfold ZoneUnit.takeTemperature
  split_ifs <;> exact ⟨rfl, rfl, rfl⟩

theorem startSlice_kept (z : ZoneUnit) (granted : Bool) :
    (z.startSlice granted).state = z.state ∧ (z.startSlice granted).boost = z.boost
      ∧ (z.startSlice granted).starved = z.starved := by
  cases granted <;> exact ⟨rfl, rfl, rfl⟩

/-- A cycle start puts no zone in a fault (R101). -/
theorem evaluateZone_fault {z : ZoneUnit} {demand : Nat} {u : ZoneState} (hu : u = .faultOpen ∨ u = .faultWelded)
    (h : (evaluateZone z demand).1 = u) : z.state = u := by
  unfold evaluateZone at h
  split at h
  case h_1 hstate => exact hstate.trans h
  case h_2 hstate => exact hstate.trans h
  all_goals
    split_ifs at h <;> rcases hu with rfl | rfl <;> cases h

/-- A cycle without a close to make counts the boosts down, leaves the starved counts and puts no zone in a fault (R101, R110). -/
theorem startHeating_zone_kept (v : State) (k : Fin 12) :
    (startHeating v).zones[k].boost = v.zones[k].boost - 1 ∧ (startHeating v).zones[k].starved = v.zones[k].starved
      ∧ ∀ u, u = ZoneState.faultOpen ∨ u = .faultWelded → (startHeating v).zones[k].state = u → v.zones[k].state = u := by
  obtain ⟨granted, hzone⟩ := startHeating_zone v k
  obtain ⟨hstate, hboost, hstarved⟩ := startSlice_kept (((v.zones[k].takeTemperature v.seq.results[zoneChannel k]).startCycle
    (zoneDemand v.settings.zones[k] (v.travel.activity.getLsbD k.val)
      (v.zones[k].takeTemperature v.seq.results[zoneChannel k]).usable))) granted
  obtain ⟨htaken, hboost', hstarved'⟩ := takeTemperature_kept v.zones[k] v.seq.results[zoneChannel k]
  rw [hzone]
  exact ⟨hboost.trans (congrArg (· - 1) hboost'), hstarved.trans hstarved', fun u hu h =>
    htaken ▸ evaluateZone_fault hu (hstate ▸ h)⟩

/-- What a start of the heating leaves of the heat grant unit (R77, R91). -/
theorem startHeating_heat_kept (v : State) :
    (startHeating v).heat.derate = v.heat.derate ∧ (startHeating v).heat.effective = v.heat.effective
      ∧ (startHeating v).heat.feedLoad = v.heat.feedLoad := by
  simp [startHeating, cycleBoundary, startSlice, State.mapZones, formBudget, HeatUnit.nextCycle]

theorem weldedPower_eq_zero {u : State} (h : ∀ k : Fin 12, u.zones[k].state ≠ .faultWelded) : weldedPower u = 0 := by
  have hnone : (List.finRange 12).filter (fun k => decide (u.zones[k].state = .faultWelded)) = [] :=
    List.filter_eq_nil_iff.2 fun k _ => by simpa using h k
  rw [weldedPower, ratedSum, hnone]
  rfl

/-- Without a welded zone there is no welded power (R82). -/
theorem startHeating_welded (h : ∀ k : Fin 12, v.zones[k].state ≠ .faultWelded) : (startHeating v).heat.welded = 0 := by
  have hwelded (k : Fin 12) : (startHeating v).zones[k].state ≠ .faultWelded := fun hk => by
    obtain ⟨-, -, hfault⟩ := startHeating_zone_kept v k
    exact h k (hfault _ (.inr rfl) hk)
  rw [startHeating_eq] at hwelded ⊢
  refine weldedPower_eq_zero fun k => ?_
  have hk := hwelded k
  rwa [startSlice_zone, (startSlice_kept _ _).1] at hk

/-- No record is open, so a start of the heating reports nothing (R121). -/
theorem startHeating_record (h : v.record.current = none) : (startHeating v).record = v.record := by
  rw [startHeating_eq]
  exact cycleStarted_record_none h

theorem restartHeating_record (h : s.record.current = none) : (restartHeating s).record = s.record := by
  obtain ⟨u, hu, -, -, -, hframe⟩ := restartHeating_eq s
  have hrecord : u.record = s.record := hframe .record (by simp)
  rw [hu]
  split
  · exact hrecord
  · rw [startHeating_record (hrecord ▸ h), hrecord]

/-- The timers at RESTART: the heating's own stopped, or started with the new cycle (R96). -/
theorem restartHeating_timers (s : State) :
    (restartHeating s).timers =
      if s.settings.mode = .travel then { s.timers with slice := none, readback := none, heatingWait := none }
      else { s.timers with slice := some (s.now + 25000), readback := some (s.now + 10000), heatingWait := none } := by
  obtain ⟨u, hu, -, -, htimers, hframe⟩ := restartHeating_eq s
  have hnow : u.now = s.now := hframe .now (by simp)
  rw [hu]
  split
  · exact htimers
  · rw [startHeating_timers, htimers, hnow]
    rfl

theorem restarted_no_fault (z : ZoneUnit) : z.restarted.state ≠ .faultOpen ∧ z.restarted.state ≠ .faultWelded := by
  unfold ZoneUnit.restarted
  cases z.state <;> simp

/-- A restarted zone in the new cycle: no boost, no fault, not OFF (R96, R115). -/
theorem startHeating_restarted_zone {z : ZoneUnit} (hz : v.zones[k] = z.restarted) :
    (startHeating v).zones[k].boost = 0 ∧ (startHeating v).zones[k].starved = z.starved
      ∧ (startHeating v).zones[k].state ≠ .faultOpen ∧ (startHeating v).zones[k].state ≠ .faultWelded
      ∧ (startHeating v).zones[k].state ≠ .off := by
  obtain ⟨hboost, hstarved, hfault⟩ := startHeating_zone_kept v k
  obtain ⟨hopen, hwelded⟩ := restarted_no_fault z
  rw [hz] at hboost hstarved hfault
  exact ⟨hboost, hstarved, fun h => hopen (hfault _ (.inl rfl) h), fun h => hwelded (hfault _ (.inr rfl) h),
    startHeating_zone_ne_off k⟩

end RestartHeating

section RestartParts

variable {s t v : State} {q : Port}

/-- The state RESTART closes the record in: the sides in MANUAL, the drives OFF (R59, R75, log entry 23). -/
def State.restartStopped (s : State) : State :=
  (restartLevelling s).withFeed (s.feed.map fun _ u => u.restarted)

/-- The state RESTART starts the heating cycle in: the record closed, the travel unit, the sequencer and the timers anew. -/
def State.restartMeasured (s : State) : State :=
  (((closeRecord false true s.restartStopped).withTravel s.travel.restarted).withSeq
    (Sequencer.started s.now s.seq.conditionSuspect)).withTimers (Timers.restarted s.now s.timers)

@[simp] theorem restartStopped_frame (s : State) :
    s.restartStopped.travel = s.travel ∧ s.restartStopped.seq = s.seq ∧ s.restartStopped.heat = s.heat
      ∧ s.restartStopped.zones = s.zones ∧ s.restartStopped.scan = s.scan ∧ s.restartStopped.record = s.record
      ∧ s.restartStopped.store = s.store ∧ s.restartStopped.settings = s.settings
      ∧ s.restartStopped.timers = s.timers ∧ s.restartStopped.pins = s.pins ∧ s.restartStopped.now = s.now
      ∧ s.restartStopped.free = s.free ∧ s.restartStopped.pending = s.pending := by
  simp [State.restartStopped]

theorem restartPart_eq (s : State) : restartPart s = restartHeating s.restartMeasured := by
  simp [restartPart, State.restartMeasured, State.restartStopped]

@[simp] theorem restartMeasured_frame (s : State) :
    s.restartMeasured.lev = s.restartStopped.lev ∧ s.restartMeasured.feed = s.restartStopped.feed
      ∧ s.restartMeasured.travel = s.travel.restarted
      ∧ s.restartMeasured.seq = Sequencer.started s.now s.seq.conditionSuspect
      ∧ s.restartMeasured.timers = Timers.restarted s.now s.timers
      ∧ s.restartMeasured.record = (closeRecord false true s.restartStopped).record
      ∧ s.restartMeasured.store = (closeRecord false true s.restartStopped).store
      ∧ s.restartMeasured.ports = (closeRecord false true s.restartStopped).ports
      ∧ s.restartMeasured.heat = s.heat ∧ s.restartMeasured.zones = s.zones ∧ s.restartMeasured.scan = s.scan
      ∧ s.restartMeasured.settings = s.settings ∧ s.restartMeasured.pins = s.pins ∧ s.restartMeasured.now = s.now
      ∧ s.restartMeasured.free = s.free ∧ s.restartMeasured.pending = s.pending := by
  simp [State.restartMeasured, closeRecord_restart_zones]

theorem restartStopped_side (sd : Side) :
    s.restartStopped.lev.get sd =
      (if (s.lev.get sd).engaged then (s.lev.get sd).toManual else (s.lev.get sd).endJog).restarted := by
  rw [← dropBoth_side]
  simp [State.restartStopped, restartLevelling]

theorem restartStopped_ports (q : Port) :
    s.restartStopped.ports.get q =
      let mask := s.settings.masks.get q
      let p0 := s.ports.get q
      let p1 := if (s.lev.get .left).state ≠ .manual then portRaised mask .sideLDropped p0 else p0
      if (s.lev.get .right).state ≠ .manual then portRaised mask .sideRDropped p1 else p1 := by
  rw [← dropBoth_ports]
  simp [State.restartStopped, restartLevelling]

/-- A side after RESTART (R59): in MANUAL, its run and its stale mark cleared; a side that was driven stands still. -/
theorem restarted_side_facts (x : SideUnit) :
    let y := (if x.engaged then x.toManual else x.endJog).restarted
    y = { x with state := .manual, goodRun := 0, stale := false, jog := y.jog, raise := y.raise, lower := y.lower }
      ∧ (x.state = .manual → y.jog = none) ∧ (x.state ≠ .manual ∨ x.jog ≠ none → y.raise = 0 ∧ y.lower = 0) := by
  intro y
  by_cases hmanual : x.state = .manual
  · have hy : y = SideUnit.restarted (if x.jog = none then x else { x with raise := 0, lower := 0, jog := none }) :=
      congrArg SideUnit.restarted (endJog_of_manual hmanual)
    rw [hy]
    by_cases hjog : x.jog = none <;> simp [SideUnit.restarted, hjog, hmanual]
  · have hy : y = SideUnit.restarted { x with state := .manual, raise := 0, lower := 0, goodRun := 0 } :=
      congrArg SideUnit.restarted (toManual_of_not_manual hmanual)
    rw [hy]
    simp [SideUnit.restarted, hmanual]

theorem exec_restart_m (s : State) :
    exec (.restart .m) s = .next (answerCode .m .ok (restartHeating (takeRequest .m s).restartMeasured)) := by
  rw [← restartPart_eq]
  rfl

/-- The next state of a RESTART from M. -/
def State.restarted (s : State) : State := answerCode .m .ok (restartHeating (takeRequest .m s).restartMeasured)

@[simp] theorem restarted_frame (s : State) :
    s.restarted.settings = s.settings ∧ s.restarted.scan = s.scan ∧ s.restarted.pins = s.pins
      ∧ s.restarted.pending = s.pending ∧ s.restarted.now = s.now ∧ s.restarted.travel = s.travel.restarted
      ∧ s.restarted.seq = Sequencer.started s.now s.seq.conditionSuspect
      ∧ s.restarted.lev = (takeRequest .m s).restartStopped.lev
      ∧ s.restarted.feed = (takeRequest .m s).restartStopped.feed
      ∧ s.restarted.store = (closeRecord false true (takeRequest .m s).restartStopped).store := by
  simp [State.restarted]

theorem restarted_record (s : State) :
    s.restarted.record = (closeRecord false true (takeRequest .m s).restartStopped).record := by
  obtain ⟨hclosed, -⟩ := closeRecord_current_and_nextSequence (s := (takeRequest .m s).restartStopped) false true
  simp [State.restarted, restartHeating_record, hclosed]

theorem restarted_timers (s : State) :
    s.restarted.timers =
      if s.settings.mode = .travel then
        { Timers.restarted s.now s.timers with slice := none, readback := none, heatingWait := none }
      else
        { Timers.restarted s.now s.timers with
          slice := some (s.now + 25000), readback := some (s.now + 10000), heatingWait := none } := by
  simp [State.restarted, restartHeating_timers]

/-- The timers RESTART starts anew, whatever the heating does; the seconds count and the silence timer run on (R17, R34, R59). -/
theorem restarted_timers_outside_heating (s : State) :
    s.restarted.timers.second = s.timers.second ∧ s.restarted.timers.silence = s.timers.silence
      ∧ s.restarted.timers.speed = s.now + 25000 ∧ s.restarted.timers.plausibility = s.now + 100000
      ∧ s.restarted.timers.sample = some (s.now + 10000)
      ∧ s.restarted.timers.period = { fast := s.now + 2000, medium := s.now + 10000, slow := s.now + 100000 } := by
  rw [restarted_timers]
  split <;> exact ⟨rfl, rfl, rfl, rfl, rfl, rfl⟩

theorem restarted_side (s : State) (sd : Side) :
    s.restarted.lev.get sd =
      (if (s.lev.get sd).engaged then (s.lev.get sd).toManual else (s.lev.get sd).endJog).restarted := by
  simp [restartStopped_side]

theorem restarted_drive (s : State) (d : Drive) : s.restarted.feed.get d = (s.feed.get d).restarted := by
  simp [State.restartStopped]

/-- The close at RESTART finds the sides in MANUAL (R57, R59). -/
theorem restartStopped_manual (s : State) (sd : Side) :
    (s.restartStopped.lev.get sd).state = .manual ∧ (s.restartStopped.lev.get sd).stepMax = (s.lev.get sd).stepMax := by
  obtain ⟨hside, -⟩ := restarted_side_facts (s.lev.get sd)
  rw [restartStopped_side, hside]
  exact ⟨rfl, rfl⟩

theorem changesOnly_restartStopped_taken (s : State) (p : Port) :
    changesOnly [.lev, .feed, .ports] s (takeRequest p s).restartStopped :=
  changesOnly_of fun part => by cases part <;> simp [Part.kept]

/-- RESTART at the heating (R96): the state `v` with the faults, counts and boosts cleared, and outside TRAVEL a new cycle. -/
theorem restarted_heating (s : State) :
    ∃ v : State, s.restarted = answerCode .m .ok (if s.settings.mode = .travel then v else startHeating v)
      ∧ v.heat = { s.heat with grants := 0#12, grantedPower := 0, tripped := false }
      ∧ (∀ k : Fin 12, v.zones[k] = ZoneUnit.restarted { s.zones[k] with output := false })
      ∧ v.timers = { Timers.restarted s.now s.timers with slice := none, readback := none, heatingWait := none }
      ∧ changesOnly [.heat, .zones, .timers] (takeRequest .m s).restartMeasured v := by
  obtain ⟨v, hheating, hheat, hzones, htimers, hframe⟩ := restartHeating_eq (takeRequest .m s).restartMeasured
  simp only [restartMeasured_frame, takeRequest_frame] at hheating hheat hzones htimers
  exact ⟨v, congrArg (answerCode .m .ok) hheating, hheat, hzones, htimers, hframe⟩

/-- In TRAVEL the heating stays STOPPED (R96, R115). -/
theorem restarted_in_travel (h : s.settings.mode = .travel) :
    s.restarted.heat = { s.heat with grants := 0#12, grantedPower := 0, tripped := false }
      ∧ ∀ k : Fin 12, s.restarted.zones[k] = ZoneUnit.restarted { s.zones[k] with output := false } := by
  obtain ⟨v, ht, hheat, hzones, -, -⟩ := restarted_heating s
  rw [ht, if_pos h]
  simp only [answerCode_frame]
  exact ⟨hheat, hzones⟩

/-- Outside TRAVEL the heating is the one that `startHeating` starts (R96). -/
theorem restarted_started (h : s.settings.mode ≠ .travel) :
    ∃ v : State, v.heat = { s.heat with grants := 0#12, grantedPower := 0, tripped := false }
      ∧ (∀ k : Fin 12, v.zones[k] = ZoneUnit.restarted { s.zones[k] with output := false })
      ∧ v.timers = { s.restarted.timers with slice := none, readback := none }
      ∧ v.settings = s.settings ∧ v.travel = s.restarted.travel ∧ v.seq = s.restarted.seq
      ∧ v.record = s.restarted.record ∧ v.now = s.now ∧ changesOnly [.ports] (startHeating v) s.restarted := by
  obtain ⟨v, ht, hheat, hzones, htimers, hframe⟩ := restarted_heating s
  have hrecord : v.record = s.restarted.record := (hframe .record (by simp)).trans (by simp [restarted_record])
  rw [restarted_timers, if_neg h]
  refine ⟨v, hheat, hzones, htimers, (hframe .settings (by simp)).trans (by simp), (hframe .travel (by simp)).trans (by simp),
    (hframe .seq (by simp)).trans (by simp), hrecord, (hframe .now (by simp)).trans (by simp), ?_⟩
  rw [ht, if_neg h]
  exact changesOnly_of fun part => by cases part <;> simp [Part.kept]

/-- The first slice of the cycle that RESTART starts, and its zones (R77, R82, R115). -/
theorem startHeating_restarted (hheat : v.heat = { s.heat with grants := 0#12, grantedPower := 0, tripped := false })
    (hzones : ∀ k : Fin 12, v.zones[k] = ZoneUnit.restarted { s.zones[k] with output := false })
    (hframe : changesOnly [.ports] (startHeating v) t) :
    t.heat.running = true ∧ t.heat.tripped = false ∧ t.heat.slice = 0 ∧ t.heat.cycle = (s.heat.cycle + 1) % 65536
      ∧ t.heat.derate = s.heat.derate ∧ t.heat.effective = s.heat.effective ∧ t.heat.feedLoad = s.heat.feedLoad
      ∧ t.heat.welded = 0
      ∧ ∀ k : Fin 12, t.zones[k].boost = 0 ∧ t.zones[k].starved = s.zones[k].starved ∧ t.zones[k].state ≠ .faultOpen
          ∧ t.zones[k].state ≠ .faultWelded ∧ t.zones[k].state ≠ .off := by
  obtain ⟨hrunning, hslice, hcycle, htripped⟩ := startHeating_cycle (u := v)
  obtain ⟨hderate, heffective, hfeedLoad⟩ := startHeating_heat_kept v
  have hwelded : (startHeating v).heat.welded = 0 := startHeating_welded fun k => by
    rw [hzones]
    exact (restarted_no_fault _).2
  have hheat' : t.heat = (startHeating v).heat := hframe .heat (by simp)
  have hzones' : t.zones = (startHeating v).zones := hframe .zones (by simp)
  rw [hheat', hzones', hcycle, hderate, heffective, hfeedLoad, hheat]
  exact ⟨hrunning, htripped, hslice, rfl, rfl, rfl, rfl, hwelded, fun k => startHeating_restarted_zone (hzones k)⟩

/-- The ports after RESTART, raise by raise: what the close leaves, ZONE_FAULT for a lost sensor, the answer (R59, R112, R126). -/
theorem restarted_ports (s : State) (q : Port) :
    s.restarted.ports.get q =
      let closed := (closeRecord false true (takeRequest .m s).restartStopped).ports.get q
      let after := if ∃ k : Fin 12, s.zones[k].state ≠ .sensorLost ∧ s.restarted.zones[k].state = .sensorLost then
          portRaised (s.settings.masks.get q) .zoneFault closed
        else closed
      if q = .m then { after with answer := some { code := .ok, data := [] } } else after := by
  have hzones : s.restarted.zones = (restartHeating (takeRequest .m s).restartMeasured).zones := by simp [State.restarted]
  have hheating := restartHeating_ports (takeRequest .m s).restartMeasured q
  simp only [restartMeasured_frame, takeRequest_frame, ← hzones] at hheating
  dsimp only
  rw [← hheating]
  split
  · rename_i hq
    subst hq
    exact answer_port_self
  · exact answer_port_other ‹_›

theorem kept_of_quiet {x y : PortState} (h : x.quiet = y.quiet) :
    x.page = y.page ∧ x.queue = y.queue ∧ x.inService = y.inService ∧ x.lastApplied = y.lastApplied
      ∧ x.lastClamped = y.lastClamped ∧ x.lastRejected = y.lastRejected ∧ x.present = y.present
      ∧ x.presenceDue = y.presenceDue ∧ x.answer = y.answer := by
  obtain ⟨hpage, hqueue, -, happlied, hclamped, hrejected, hpresent, hdue, -, hservice, -, hanswer⟩ := PortState.mk.inj h
  exact ⟨hpage, hqueue, hservice, happlied, hclamped, hrejected, hpresent, hdue, hanswer⟩

/-- Beside its alerts a port keeps all that the request of M leaves it (R173). -/
theorem restarted_quiet (s : State) (q : Port) :
    (s.restarted.ports.get q).quiet =
      (if q = .m then portAnswered s .m { code := .ok, data := [] } else s.ports.get q).quiet := by
  have hpart := quiet_restartPart (takeRequest .m s) q
  rw [restartPart_eq] at hpart
  split
  · rename_i hq
    subst hq
    rw [takeRequest_port_self] at hpart
    have hself : s.restarted.ports.get .m = { (restartHeating (takeRequest .m s).restartMeasured).ports.get .m with
      answer := some { code := .ok, data := [] } } := answer_port_self
    rw [hself]
    exact congrArg (fun x : PortState => { x with answer := some { code := .ok, data := [] } }) hpart
  · rw [takeRequest_port_other ‹_›] at hpart
    exact (congrArg PortState.quiet (answer_port_other ‹_›)).trans hpart

/-- What a RESTART does to the record and to the store, where a record is open (R125). -/
theorem restarted_close {r : OpenRecord} (hr : s.record.current = some r) :
    s.restarted.record.current = none ∧ s.restarted.record.nextSequence = s.record.nextSequence
      ∧ s.restarted.store.slot = s.store.slot
      ∧ ∃ h, s.restarted.record.summary = some h ∧ h.sequence = r.sequence ∧ h.restartClose = true
        ∧ h.partialClose = false ∧ h.leftState = .manual ∧ h.rightState = .manual
        ∧ h.length = min 65535 (s.travel.distance - r.start) := by
  have hopen : (takeRequest .m s).restartStopped.record.current = some r := by simpa using hr
  obtain ⟨hclosed, hnext⟩ := closeRecord_current_and_nextSequence (s := (takeRequest .m s).restartStopped) false true
  obtain ⟨h, hsummary, hsequence, hrestart, hpartial, hleft, hright, hlength⟩ := closeRecord_restart_summary hopen
  obtain ⟨hleftManual, -⟩ := restartStopped_manual (takeRequest .m s) .left
  obtain ⟨hrightManual, -⟩ := restartStopped_manual (takeRequest .m s) .right
  have hslot : s.restarted.store.slot = s.store.slot := by simp [closeRecord_slot false true hopen]
  rw [restarted_record]
  exact ⟨hclosed, by simpa using hnext, hslot, h, hsummary, hsequence, hrestart, hpartial, hleft.trans hleftManual,
    hright.trans hrightManual, by simpa using hlength⟩

theorem restarted_no_close (hr : s.record.current = none) :
    s.restarted.record = s.record ∧ s.restarted.store = s.store := by
  rw [restarted_record]
  simp [closeRecord_none, hr]

/-- Settles O52: the parts by what `State.restarted` holds, the heating by the mode, the ports raise by raise. -/
theorem restart : Obligations.Restart := by
  refine ⟨fun s p hp => ?_, fun s => ?_⟩
  · obtain ⟨t, ⟨hx, hanswer⟩, hframe⟩ := answered_taken (c := .restart p) (s := s) (congrArg _ (if_neg hp))
    exact ⟨t, hx, hanswer, hframe⟩
  intro cleared
  obtain ⟨hsecond, hsilence, hspeed, hplausibility, hsample, hperiod⟩ := restarted_timers_outside_heating s
  have hnow : s.restarted.now = s.now := by simp
  have htravel : s.restarted.travel = s.travel.restarted := by simp
  have hseq : s.restarted.seq = Sequencer.started s.now s.seq.conditionSuspect := by simp
  refine ⟨s.restarted, exec_restart_m s, by simp, by simp, by simp, by simp, hnow, htravel, by rw [hseq]; rfl,
    fun cls => ?_, fun c => ?_, fun c => ?_, ?_, fun sd => ?_, hsecond, hsilence, hspeed, hplausibility, hsample,
    hperiod, restarted_drive s, restarted_no_close, fun r => restarted_close, fun hmode => ?_, fun hmode => ?_,
    fun q => ?_, ?_, ?_,
    (takeRequest .m s).restartStopped, changesOnly_restartStopped_taken s .m,
    fun sd => by simpa using restartStopped_manual (takeRequest .m s) sd, fun q => ?_, restarted_record s, by simp,
    restarted_ports s⟩
  · rw [hseq]
    cases cls <;> rfl
  · simp [Sequencer.started, ResultEntry.unconverted]
  · simp [Sequencer.started, mem_tail_finRange]
  · rw [hseq, hnow]
    rfl
  · rw [restarted_side]
    exact restarted_side_facts (s.lev.get sd)
  · obtain ⟨hheat, hzones⟩ := restarted_in_travel hmode
    rw [restarted_timers, if_pos hmode]
    exact ⟨hheat, rfl, rfl, rfl, hzones⟩
  · obtain ⟨v, hheat, hzones, hstarted⟩ := restarted_started hmode
    have hstarted' := hstarted
    obtain ⟨-, -, -, -, -, -, hframe⟩ := hstarted'
    refine ⟨⟨v, hheat, hzones, hstarted⟩, ?_, ?_, ?_, startHeating_restarted hheat hzones hframe⟩
    all_goals rw [restarted_timers, if_neg hmode]
  · obtain ⟨hpage, hqueue, hservice, happlied, hclamped, hrejected, hpresent, hdue, hanswer⟩ :=
      kept_of_quiet (restarted_quiet s q)
    rw [hpage, hqueue, hservice, happlied, hclamped, hrejected, hpresent, hdue, hanswer]
    split
    · rename_i hq
      subst hq
      exact ⟨rfl, rfl, rfl, rfl, rfl, fun h => absurd rfl h⟩
    · exact ⟨rfl, rfl, rfl, rfl, rfl, fun _ => ⟨rfl, rfl, rfl, rfl⟩⟩
  · obtain ⟨hpage, -⟩ := kept_of_quiet (restarted_quiet s .m)
    exact hpage
  · obtain ⟨-, -, -, -, -, -, -, -, hanswer⟩ := kept_of_quiet (restarted_quiet s .m)
    exact hanswer
  · rw [restartStopped_ports]
    simp only [takeRequest_frame]
    by_cases hq : q = .m
    · subst hq
      rw [takeRequest_port_self]
      rfl
    · rw [takeRequest_port_other hq, if_neg hq]

end RestartParts
end Sys2Proof.Machine

/-! # Family 11: the step

Where every command leaves the time base, and which events an empty queue brings. -/

namespace Sys2Proof.Machine

section TimeBase

variable {s t : State}

/-- Where the time base stands after a command with that deadline, if it has one: at the deadline, or where it stood once it is
past it (log entries 3 and 30). -/
def State.timeAt (s : State) : Option Nat → Nat
  | none => s.now
  | some due => max s.now due

@[simp] theorem reach_now (s : State) (due : Nat) : (s.reach due).now = s.timeAt (some due) := rfl

@[simp] theorem reachOpt_now (s : State) (due : Option Nat) : (s.reachOpt due).now = s.timeAt due := by cases due <;> rfl

/-- The commands that stand for the end of a timer, of a converter or copy step, or of a wait. -/
def endsTimer : Instr → Bool
  | .secondsCountTick | .speedWindowExpiry | .plausibilityWindowExpiry | .classPeriodExpiry _ | .settleEnd
  | .conversionCompletion _ _ | .overloadRecoveryEnd | .sampleTimerExpiry | .jogTimerExpiry _ | .prefillTimerExpiry _
  | .scannerSilenceExpiry | .sliceStart | .heatingWaitEnd | .readback _ | .copyCompletion | .heldAnswerExpiry
  | .application _ | .presenceTimeout _ => true
  | .powerOn | .forwardPulse | .reversePulse | .radarPulse | .converterTake | .scannerLine _ _ | .trip _ | .read _ _ _
  | .write _ _ _ | .page _ _ | .takeAlerts _ | .alertDone _ | .engage _ _ | .disengage _ _ | .setZero _ _ | .jog _ _ _ _
  | .prefill _ _ | .clearFault _ _ _ | .fetch _ | .release _ _ | .rewind _ | .restart _ | .portReset _ | .badFrame _ _
  | .scannerRunStart => false

/-- Such a command alone has a deadline. -/
theorem ownDeadline_of_not_endsTimer {c : Instr} (hc : endsTimer c = false) : ownDeadline s c = none := by
  cases c with
  | secondsCountTick | speedWindowExpiry | plausibilityWindowExpiry | classPeriodExpiry | settleEnd | conversionCompletion
  | overloadRecoveryEnd | sampleTimerExpiry | jogTimerExpiry | prefillTimerExpiry | scannerSilenceExpiry | sliceStart
  | heatingWaitEnd | readback | copyCompletion | heldAnswerExpiry | application | presenceTimeout => cases hc
  | _ => rfl

theorem sideRequest_now {p : Port} {item : Byte} {act : Side → State → State} (hact : ∀ sd u, (act sd u).now = u.now) :
    (sideRequest p item act s).now = s.now := by
  simp only [sideRequest]
  (repeat' split) <;> simp [hact]

/-- A command that ends no timer passes no time: each operation it is made of leaves the time base. -/
theorem now_of_not_endsTimer {c : Instr} (hc : endsTimer c = false) (hon : c ≠ .powerOn) (hx : exec c s = .next t) :
    t.now = s.now := by
  cases c with
  | powerOn => exact absurd rfl hon
  | engage | disengage | setZero => cases hx; exact sideRequest_now fun _ _ => by simp
  | jog =>
    simp only [exec, execJog, Host.Outcome.next.injEq] at hx
    subst hx
    split
    · simp
    · exact sideRequest_now fun _ _ => by simp
  | forwardPulse | reversePulse | radarPulse | converterTake | scannerLine | trip | read | write | page | takeAlerts
  | alertDone | prefill | clearFault | fetch | release | rewind | restart | portReset | badFrame | scannerRunStart =>
    simp only [exec, execForwardPulse, execReversePulse, execRadarPulse, execConverterTake, execScannerLine, execTrip,
      execRead, execWrite, execPage, execTakeAlerts, execAlertDone, execPrefill, execClearFault, execFetch, execRelease,
      execRewind, execRestart, execPortReset, execBadFrame, execScannerRunStart, Host.Outcome.next.injEq] at hx
    subst hx
    (repeat' split) <;> simp
  | _ => cases hc

/-- A command that ends a timer brings the time base to the timer's end; while the timer does not run, the time base stays. -/
theorem now_of_endsTimer {c : Instr} (hc : endsTimer c = true) (hx : exec c s = .next t) :
    t.now = s.timeAt (ownDeadline s c) := by
  cases c with
  | secondsCountTick | classPeriodExpiry => cases hx; rfl
  | speedWindowExpiry => cases hx; simp [ownDeadline]
  | plausibilityWindowExpiry =>
    rw [exec_plausibilityWindowExpiry] at hx
    cases hx
    split <;> simp [ownDeadline, State.plausibilityJudged]
  | settleEnd | overloadRecoveryEnd =>
    cases hx
    simp only [ownDeadline]
    cases s.seq.converter <;> rfl
  | conversionCompletion =>
    cases hx
    simp only [ownDeadline]
    cases s.seq.converter with
    | idle | settling | recovering => rfl
    | converting => dsimp only; split <;> simp
  | sampleTimerExpiry =>
    cases hx
    simp only [ownDeadline]
    cases s.timers.sample <;> simp [State.timeAt]
  | heatingWaitEnd =>
    cases hx
    simp only [ownDeadline]
    cases s.timers.heatingWait with
    | none => rfl
    | some due => dsimp only; split <;> simp
  | jogTimerExpiry sd =>
    cases hx
    simp only [ownDeadline]
    cases (s.lev.get sd).jog <;> simp [State.timeAt]
  | prefillTimerExpiry | scannerSilenceExpiry | sliceStart | readback | presenceTimeout =>
    cases hx
    simp only [ownDeadline]
    (repeat' split) <;> simp [State.timeAt]
  | copyCompletion | heldAnswerExpiry =>
    cases hx
    simp only [ownDeadline]
    cases s.store.slot <;> rfl
  | application p =>
    cases hx
    simp only [ownDeadline]
    cases (s.ports.get p).queue with
    | nil => rfl
    | cons e rest => dsimp only; split <;> simp
  | _ => cases hc

/-- Every command but power-on brings the time base to its own deadline, and leaves it without one. -/
theorem now_of_exec {c : Instr} (hon : c ≠ .powerOn) (hx : exec c s = .next t) : t.now = s.timeAt (ownDeadline s c) := by
  cases hc : endsTimer c with
  | false => rw [ownDeadline_of_not_endsTimer hc]; exact now_of_not_endsTimer hc hon hx
  | true => exact now_of_endsTimer hc hx

/-- No command stops the machine: every arm of `exec` answers a next state. -/
theorem exec_next (c : Instr) (s : State) : ∃ t, exec c s = .next t := by
  cases c <;> exact ⟨_, rfl⟩

end TimeBase

section OwnEvents

variable {s : State} {c : Instr} {time : Nat}

/-- The part's own events, unit by unit, as the list of them holds them. -/
inductive OwnEvent (s : State) : Option (Nat × Instr) → Prop where
  | converter : OwnEvent s (converterEvent s)
  | period (cls : SampleClass) : OwnEvent s (some (s.timers.period.get cls, .classPeriodExpiry cls))
  | second : OwnEvent s (some (s.timers.second, .secondsCountTick))
  | speed : OwnEvent s (some (s.timers.speed, .speedWindowExpiry))
  | plausibility : OwnEvent s (some (s.timers.plausibility, .plausibilityWindowExpiry))
  | sample : OwnEvent s (timerEvent s.timers.sample .sampleTimerExpiry)
  | jog (sd : Side) : OwnEvent s (timerEvent ((s.lev.get sd).jog.map JogPulse.due) (.jogTimerExpiry sd))
  | prefill (d : Drive) : OwnEvent s (timerEvent (s.feed.get d).prefillDue (.prefillTimerExpiry d))
  | silence : OwnEvent s (timerEvent s.timers.silence .scannerSilenceExpiry)
  | slice : OwnEvent s (timerEvent s.timers.slice .sliceStart)
  | heatingWait : OwnEvent s (timerEvent s.timers.heatingWait .heatingWaitEnd)
  | readback : OwnEvent s (timerEvent s.timers.readback (.readback (Config.sampledPins s.free)))
  | presence (p : Port) : OwnEvent s (timerEvent (s.ports.get p).presenceDue (.presenceTimeout p))
  | slot : OwnEvent s (slotEvent s)
  | application (p : Port) : OwnEvent s (applicationEvent s p)

theorem mem_ownEvents_iff {e : Option (Nat × Instr)} : e ∈ ownEvents s ↔ OwnEvent s e := by
  constructor
  · have hall : ∀ e ∈ ownEvents s, OwnEvent s e := by
      simp only [ownEvents, List.forall_mem_cons]
      exact ⟨.converter, .period .fast, .period .medium, .period .slow, .second, .speed, .plausibility, .sample,
        .jog .left, .jog .right, .prefill .convL, .prefill .convR, .prefill .augL, .prefill .augR, .silence, .slice,
        .heatingWait, .readback, .presence .m, .presence .l, .presence .r, .presence .d, .slot, .application .m,
        .application .l, .application .r, .application .d, by simp⟩
    exact hall e
  · intro h
    cases h with
    | period cls => cases cls <;> simp [ownEvents, PerClass.get]
    | jog sd => cases sd <;> simp [ownEvents, PerSide.get]
    | prefill d => cases d <;> simp [ownEvents, PerDrive.get]
    | presence p => cases p <;> simp [ownEvents, PerPort.get]
    | application p => cases p <;> simp [ownEvents]
    | converter | second | speed | plausibility | sample | silence | slice | heatingWait | readback | slot =>
      simp [ownEvents]

theorem timerEvent_eq_some_iff {due : Option Nat} {c' : Instr} :
    some (time, c) = timerEvent due c' ↔ due = some time ∧ c = c' := by
  cases due <;> simp [timerEvent, eq_comm]

theorem OwnEvent.of_timer {due : Option Nat} (h : OwnEvent s (timerEvent due c)) (hdue : due = some time) :
    OwnEvent s (some (time, c)) := by
  subst hdue
  exact h

/-- The event of a command as an idle step takes it, the inputs that it samples being free values (log entry 7). -/
def sampledEvent (free : Nat) : Instr → Instr
  | .conversionCompletion _ _ => .conversionCompletion (Config.sampledCount free) (Config.sampledPins free)
  | .readback _ => .readback (Config.sampledPins free)
  | c => c

/-- A deadline that runs is one of the part's own events. -/
theorem ownEvent_of_ownDeadline {due : Nat} (h : ownDeadline s c = some due) :
    OwnEvent s (some (due, sampledEvent s.free c)) := by
  cases c with
  | classPeriodExpiry cls => cases h; exact .period cls
  | secondsCountTick => cases h; exact .second
  | speedWindowExpiry => cases h; exact .speed
  | plausibilityWindowExpiry => cases h; exact .plausibility
  | settleEnd | conversionCompletion | overloadRecoveryEnd =>
    simp only [ownDeadline] at h
    split at h <;> cases h
    rename_i hconv
    have hevent := OwnEvent.converter (s := s)
    rwa [converterEvent, hconv] at hevent
  | copyCompletion | heldAnswerExpiry =>
    simp only [ownDeadline] at h
    split at h <;> cases h
    rename_i hslot
    have hevent := OwnEvent.slot (s := s)
    rwa [slotEvent, hslot] at hevent
  | application p =>
    simp only [ownDeadline] at h
    split at h <;> cases h
    rename_i hqueue
    have hevent := OwnEvent.application (s := s) p
    rwa [applicationEvent, hqueue] at hevent
  | sampleTimerExpiry => exact .of_timer .sample h
  | jogTimerExpiry sd => exact .of_timer (.jog sd) h
  | heatingWaitEnd => exact .of_timer .heatingWait h
  | prefillTimerExpiry d =>
    obtain ⟨-, hdue⟩ := Option.ite_none_right_eq_some.1 h
    exact .of_timer (.prefill d) hdue
  | scannerSilenceExpiry =>
    obtain ⟨-, hdue⟩ := Option.ite_none_left_eq_some.1 h
    exact .of_timer .silence hdue
  | sliceStart =>
    obtain ⟨-, hdue⟩ := Option.ite_none_right_eq_some.1 h
    exact .of_timer .slice hdue
  | readback =>
    obtain ⟨-, hdue⟩ := Option.ite_none_right_eq_some.1 h
    exact .of_timer .readback hdue
  | presenceTimeout p =>
    obtain ⟨-, hdue⟩ := Option.ite_none_right_eq_some.1 h
    exact .of_timer (.presence p) hdue
  | _ => cases h

/-- The converter's event is the end of its step, or the take of a channel that waits (R21, R22). -/
theorem converterEvent_cases (h : some (time, c) = converterEvent s) :
    ownDeadline s c = some time
      ∨ (c = .converterTake ∧ time = s.now ∧ s.seq.converter = .idle ∧ s.seq.queue ≠ []) := by
  unfold converterEvent at h
  split at h
  · rename_i hidle
    split at h <;> cases h
    rename_i hqueue
    exact .inr ⟨rfl, rfl, hidle, by simpa using hqueue⟩
  all_goals
    rename_i hconv
    cases h
    exact .inl (by simp [ownDeadline, hconv])

theorem slotEvent_deadline (h : some (time, c) = slotEvent s) : ownDeadline s c = some time := by
  unfold slotEvent at h
  split at h <;> cases h <;> simp [ownDeadline, *]

theorem applicationEvent_deadline {p : Port} (h : some (time, c) = applicationEvent s p) :
    ownDeadline s c = some time := by
  unfold applicationEvent at h
  split at h <;> cases h
  simp [ownDeadline, *]

/-- An own event carries a deadline that runs, or is the take of a channel that waits, or changes nothing: five timers stand on
while their event cannot occur (log entry 1). -/
theorem ownEvent_cases {e : Option (Nat × Instr)} (h : OwnEvent s e) (he : some (time, c) = e) :
    ownDeadline s c = some time
      ∨ (c = .converterTake ∧ time = s.now ∧ s.seq.converter = .idle ∧ s.seq.queue ≠ [])
      ∨ (ownDeadline s c = none ∧ exec c s = .next s) := by
  cases h with
  | converter => exact (converterEvent_cases he).imp_right .inl
  | slot => exact .inl (slotEvent_deadline he)
  | application => exact .inl (applicationEvent_deadline he)
  | period | second | speed | plausibility => cases he; exact .inl rfl
  | sample | jog | heatingWait =>
    obtain ⟨hdue, rfl⟩ := timerEvent_eq_some_iff.1 he
    exact .inl hdue
  | prefill d =>
    obtain ⟨hdue, rfl⟩ := timerEvent_eq_some_iff.1 he
    by_cases hrun : (s.feed.get d).state = .prefill <;> simp [ownDeadline, exec, execPrefillTimerExpiry, hrun, hdue]
  | silence =>
    obtain ⟨hdue, rfl⟩ := timerEvent_eq_some_iff.1 he
    by_cases hlost : s.scan.lost = true <;> simp [ownDeadline, exec, execScannerSilenceExpiry, hlost, hdue]
  | slice =>
    obtain ⟨hdue, rfl⟩ := timerEvent_eq_some_iff.1 he
    by_cases hrun : s.heat.running = true <;> simp [ownDeadline, exec, execSliceStart, hrun, hdue]
  | readback =>
    obtain ⟨hdue, rfl⟩ := timerEvent_eq_some_iff.1 he
    by_cases hrun : s.heat.running = true <;> simp [ownDeadline, exec, execReadback, hrun, hdue]
  | presence p =>
    obtain ⟨hdue, rfl⟩ := timerEvent_eq_some_iff.1 he
    by_cases hpresent : (s.ports.get p).present = true <;> simp [ownDeadline, exec, execPresenceTimeout, hpresent, hdue]

end OwnEvents

section IdleStep

variable {s : State}

theorem dueNow_eq_some_iff {now : Nat} {e : Option (Nat × Instr)} {c : Instr} :
    dueNow now e = some c ↔ ∃ time, e = some (time, c) ∧ time ≤ now := by
  rcases e with _ | ⟨time, c'⟩
  · simp [dueNow]
  · simp [dueNow, and_comm]

theorem dueCommand_some {c : Instr} (h : dueCommand s = some c) : ∃ time, some (time, c) ∈ ownEvents s ∧ time ≤ s.now := by
  obtain ⟨e, he, hdue⟩ := List.exists_of_findSome?_eq_some h
  obtain ⟨time, rfl, hle⟩ := dueNow_eq_some_iff.1 hdue
  exact ⟨time, he, hle⟩

theorem dueCommand_none (h : dueCommand s = none) {c : Instr} {time : Nat} (he : some (time, c) ∈ ownEvents s) :
    s.now < time := by
  have hnot := List.findSome?_eq_none_iff.1 h _ he
  simpa [dueNow] using hnot

/-- On an empty queue a step runs an event whose time has come, or passes one tick when none has (log entry 2). -/
theorem idleStep_outcome (hq : s.pending = []) :
    ∃ t, step s = .next t
      ∧ ((∃ c time, some (time, c) ∈ ownEvents s ∧ time ≤ s.now ∧ exec c (s.withFree (s.free + 1)) = .next t)
        ∨ (∀ c time, some (time, c) ∈ ownEvents s → s.now < time) ∧ t = s.withNow (s.now + 1)) := by
  have hstep : step s = idleStep s := by rw [step, hq]
  rw [hstep, idleStep]
  cases hdue : dueCommand s with
  | none => exact ⟨_, rfl, .inr ⟨fun _ _ => dueCommand_none hdue, rfl⟩⟩
  | some c =>
    obtain ⟨t, hx⟩ := exec_next c (s.withFree (s.free + 1))
    obtain ⟨time, he, hle⟩ := dueCommand_some hdue
    exact ⟨t, hx, .inl ⟨c, time, he, hle, hx⟩⟩

/-- Settles O53: a waiting command leaves the queue and runs on what is left of it. -/
theorem stepRunsTheFrontCommand : Obligations.StepRunsTheFrontCommand := fun _ _ _ => rfl

/-- Settles O54: the idle step by `idleStep_outcome`, the time base by `now_of_exec`, the deadlines and the own events against each
other by `ownEvent_of_ownDeadline` and `ownEvent_cases`. -/
theorem stepOnAnEmptyQueue : Obligations.StepOnAnEmptyQueue := by
  refine ⟨fun _ => idleStep_outcome, fun s c hon => ?_, fun s c due hdue => ?_,
    fun s hidle hqueue => converterEvent_take hidle hqueue ▸ mem_ownEvents_iff.2 .converter,
    fun _ _ _ he => ownEvent_cases (mem_ownEvents_iff.1 he) rfl⟩
  · obtain ⟨t, hx⟩ := exec_next c s
    have hnow := now_of_exec hon hx
    refine ⟨t, hx, fun due hdue => ?_, fun hdue => ?_⟩
    · rw [hnow, hdue]; rfl
    · rw [hnow, hdue]; rfl
  · refine ⟨_, mem_ownEvents_iff.2 (ownEvent_of_ownDeadline hdue), ?_⟩
    cases c with
    | conversionCompletion => exact ⟨_, _, rfl⟩
    | readback => exact ⟨_, rfl⟩
    | _ => rfl

end IdleStep
end Sys2Proof.Machine
